-- ==== Sys2Proof/Word.lean ====
section
/-!
DEFINITION. The word types of the cluster: bytes, 32-bit registers and instruction words, 64-bit general registers,
1024-bit vector registers (spec/03 "Registers"; spec/00 R6).
-/
namespace Sys2Proof

abbrev Byte := BitVec 8
abbrev W16 := BitVec 16
abbrev W32 := BitVec 32
abbrev W64 := BitVec 64
/-- A vector register v0–v31 of a compute core (spec/03, "Architectural registers"). -/
abbrev VReg := BitVec 1024

end Sys2Proof
end

