-- ==== Sys2Proof/Machine/Types.lean ====
section
/-!
DEFINITION. The types of command operands that are shared by several rows: who issues a scalar instruction (R406), the
32-byte carrel command record, and the packets of the mesh and far links.
-/
namespace Sys2Proof

/-- Who issues an instruction of classes 0x00–0x07: a compute core, or the control core (R406). -/
inductive Issuer where
  | core (n : Fin 8)
  | kc
deriving DecidableEq, Repr, Inhabited

/-- A carrel command record: its eight 32-bit words (spec/07, "Command record, 32 bytes"). -/
structure CarRec where
  w0 : W32
  w1 : W32
  w2 : W32
  w3 : W32
  w4 : W32
  w5 : W32
  w6 : W32
  w7 : W32
deriving DecidableEq, Repr, Inhabited

/-- Who writes or reads registers through the register space (R12, R189): KC, or host-tagged ingress at one of the six ports MN,
ME, MS, MW, FP0, FP1. -/
inductive Writer where
  | kc
  | host (port : Fin 6)
deriving DecidableEq, Repr, Inhabited

/-- The unit number of a writer (R13). -/
def Writer.unit : Writer → Nat
  | .kc => 0x18
  | .host p => 0x20 + p.val

/-- A received or sent LMP flit's control word and payload (R368); the check bits are left out: a flit that fails its check is one
whose `ok` is false; `len8` is the payload length in 8-byte units, LEN8 + 1. -/
structure Flit where
  typ : Nat
  host : Bool
  last : Bool
  slot : Bool
  dst : Nat
  src : Nat
  addr : Nat
  len8 : Nat
  txid : Nat
  payload : List Byte
  ok : Bool := true
deriving DecidableEq, Repr, Inhabited

/-- Where an up-arrival at a barrier comes from: a cluster over the mesh, a far channel, SCH, or this context itself (R328). -/
inductive UpFrom where
  | mesh (id : Nat)
  | far (c : Nat)
  | sch
  | self
deriving DecidableEq, Repr, Inhabited

/-- The issues that the row LDB covers: the scalar load (R88), and the carrel command of that name (R247). -/
inductive LdbIssue where
  | scalar (x : Issuer) (w : W32)
  | carrel (c : Fin 64) (r : CarRec)
deriving DecidableEq, Repr, Inhabited

/-- What leaves the cluster on its pins while a command takes place. -/
inductive Emit where
  /-- a flit on the flit lane of a mesh port -/
  | flit (port : Nat) (f : Flit)
  /-- a maintenance message: port, KIND, and its two fields (R370) -/
  | maint (port kind a b : Nat)
  /-- an LFC packet on a far port: channel, header beat, payload (R383) -/
  | lfc (port ch : Nat) (header payload : List Byte)
  /-- an outbound mailbox message (R423) -/
  | mail (m : Nat) (bytes : List Byte)
  /-- an interrupt or attention line towards the outside -/
  | pin (name : Nat) (level : Bool)
deriving DecidableEq, Repr, Inhabited

end Sys2Proof
end

