-- ==== Sys2Proof/Syntax.lean ====
section
/-!
DEFINITION. The commands of the hardware: one constructor for each row of spec/opcode_table.json, in its order. Core instructions carry
the issuing core and the 32-bit word; carrel commands carry the engine and the record; register writes with a row of their own carry the
writer and the word; events carry what they bring from outside.
-/
namespace Sys2Proof

/-- A command (spec/opcode_table.json). -/
inductive Instr where
  /-- Scalar add of rs1 and rs2 into rd. (R92) -/
  | add (x : Issuer) (w : W32)
  /-- Scalar subtract of rs2 from rs1 into rd. (R92) -/
  | sub (x : Issuer) (w : W32)
  /-- Scalar bitwise AND. (R92) -/
  | and (x : Issuer) (w : W32)
  /-- Scalar bitwise OR. (R92) -/
  | or (x : Issuer) (w : W32)
  /-- Scalar bitwise XOR. (R92) -/
  | xor (x : Issuer) (w : W32)
  /-- Shift left logical by rs2[5:0]. (R92) -/
  | sll (x : Issuer) (w : W32)
  /-- Shift right logical by rs2[5:0]. (R92) -/
  | srl (x : Issuer) (w : W32)
  /-- Shift right arithmetic by rs2[5:0]. (R92) -/
  | sra (x : Issuer) (w : W32)
  /-- Set rd to 1 if rs1 is less than rs2, signed. (R92) -/
  | slt (x : Issuer) (w : W32)
  /-- Set rd to 1 if rs1 is less than rs2, unsigned. (R92) -/
  | sltu (x : Issuer) (w : W32)
  /-- Signed minimum. (R92) -/
  | min (x : Issuer) (w : W32)
  /-- Signed maximum. (R92) -/
  | max (x : Issuer) (w : W32)
  /-- Unsigned minimum. (R92) -/
  | minu (x : Issuer) (w : W32)
  /-- Unsigned maximum. (R92) -/
  | maxu (x : Issuer) (w : W32)
  /-- 32-bit add, sign-extended. (R92) -/
  | addw (x : Issuer) (w : W32)
  /-- 32-bit subtract, sign-extended. (R92) -/
  | subw (x : Issuer) (w : W32)
  /-- Jump to rs1 with link in rd; target issues 3 cycles later. (R82) -/
  | jalr (x : Issuer) (w : W32)
  /-- Add sign-extended imm13. (R92) -/
  | addi (x : Issuer) (w : W32)
  /-- AND with sign-extended imm13. (R92) -/
  | andi (x : Issuer) (w : W32)
  /-- OR with sign-extended imm13. (R92) -/
  | ori (x : Issuer) (w : W32)
  /-- XOR with sign-extended imm13. (R92) -/
  | xori (x : Issuer) (w : W32)
  /-- Set if less than sign-extended imm13. (R92) -/
  | slti (x : Issuer) (w : W32)
  /-- Shift left logical by immediate. (R92) -/
  | slli (x : Issuer) (w : W32)
  /-- Shift right logical by immediate. (R92) -/
  | srli (x : Issuer) (w : W32)
  /-- Shift right arithmetic by immediate. (R92) -/
  | srai (x : Issuer) (w : W32)
  /-- Load 8 bits sign-extended, fixed latency by memory. (R88) -/
  | ldb (l : LdbIssue)
  /-- Load 16 bits sign-extended. (R88) -/
  | ldh (x : Issuer) (w : W32)
  /-- Load 32 bits sign-extended. (R88) -/
  | ldw (x : Issuer) (w : W32)
  /-- Load 64 bits. (R88) -/
  | ldd (x : Issuer) (w : W32)
  /-- Load 8 bits zero-extended. (R88) -/
  | ldbu (x : Issuer) (w : W32)
  /-- Load 16 bits zero-extended. (R88) -/
  | ldhu (x : Issuer) (w : W32)
  /-- Load 32 bits zero-extended. (R88) -/
  | ldwu (x : Issuer) (w : W32)
  /-- Store low 8 bits of rs2, written through. (R201) -/
  | stb (x : Issuer) (w : W32)
  /-- Store low 16 bits of rs2. (R201) -/
  | sth (x : Issuer) (w : W32)
  /-- Store low 32 bits of rs2. (R201) -/
  | stw (x : Issuer) (w : W32)
  /-- Store 64 bits of rs2. (R201) -/
  | std (x : Issuer) (w : W32)
  /-- Branch if equal. (R82) -/
  | beq (x : Issuer) (w : W32)
  /-- Branch if not equal. (R82) -/
  | bne (x : Issuer) (w : W32)
  /-- Branch if less than, signed. (R82) -/
  | blt (x : Issuer) (w : W32)
  /-- Branch if greater or equal, signed. (R82) -/
  | bge (x : Issuer) (w : W32)
  /-- Branch if less than, unsigned. (R82) -/
  | bltu (x : Issuer) (w : W32)
  /-- Branch if greater or equal, unsigned. (R82) -/
  | bgeu (x : Issuer) (w : W32)
  /-- PC-relative jump with link. (R82) -/
  | jal (x : Issuer) (w : W32)
  /-- Load zero-extended imm16. (R92) -/
  | ldk (x : Issuer) (w : W32)
  /-- Load sign-extended imm16. (R92) -/
  | ldks (x : Issuer) (w : W32)
  /-- Shift rd left 16 and OR imm16. (R92) -/
  | shk (x : Issuer) (w : W32)
  /-- Low 64 bits of product. (R92) -/
  | mul (x : Issuer) (w : W32)
  /-- High 64 bits of signed product. (R92) -/
  | mulh (x : Issuer) (w : W32)
  /-- High 64 bits of unsigned product. (R92) -/
  | mulhu (x : Issuer) (w : W32)
  /-- Signed division toward zero; never traps. (R93) -/
  | div (x : Issuer) (w : W32)
  /-- Unsigned division. (R93) -/
  | divu (x : Issuer) (w : W32)
  /-- Signed remainder. (R93) -/
  | rem (x : Issuer) (w : W32)
  /-- Unsigned remainder. (R93) -/
  | remu (x : Issuer) (w : W32)
  /-- Count leading zeros. (R92) -/
  | clz (x : Issuer) (w : W32)
  /-- Count trailing zeros. (R92) -/
  | ctz (x : Issuer) (w : W32)
  /-- Population count. (R92) -/
  | popc (x : Issuer) (w : W32)
  /-- Vector floating-point add. (R95) -/
  | vadd (n : Fin 8) (w : W32)
  /-- Vector floating-point subtract. (R95) -/
  | vsub (n : Fin 8) (w : W32)
  /-- Vector floating-point multiply. (R95) -/
  | vmul (n : Fin 8) (w : W32)
  /-- Vector IEEE minimum. (R63) -/
  | vmin (n : Fin 8) (w : W32)
  /-- Vector IEEE maximum. (R63) -/
  | vmax (n : Fin 8) (w : W32)
  /-- Clear sign bit per lane; NaN becomes canonical. (R95) -/
  | vabs (n : Fin 8) (w : W32)
  /-- Invert sign bit per lane; NaN becomes canonical. (R95) -/
  | vneg (n : Fin 8) (w : W32)
  /-- Vector divide on the divide-and-root unit. (R96) -/
  | vdiv (n : Fin 8) (w : W32)
  /-- Vector square root on the divide-and-root unit. (R96) -/
  | vsqrt (n : Fin 8) (w : W32)
  /-- Fused (va x vb) + vc. (R95) -/
  | vfma (n : Fin 8) (w : W32)
  /-- Fused (va x vb) - vc. (R95) -/
  | vfms (n : Fin 8) (w : W32)
  /-- Fused -(va x vb) + vc. (R95) -/
  | vfnma (n : Fin 8) (w : W32)
  /-- Fused -(va x vb) - vc. (R95) -/
  | vfnms (n : Fin 8) (w : W32)
  /-- Vector integer add. (R95) -/
  | viadd (n : Fin 8) (w : W32)
  /-- Vector integer subtract. (R95) -/
  | visub (n : Fin 8) (w : W32)
  /-- Vector integer multiply, low half. (R95) -/
  | vimul (n : Fin 8) (w : W32)
  /-- Vector bitwise AND. (R95) -/
  | vand (n : Fin 8) (w : W32)
  /-- Vector bitwise OR. (R95) -/
  | vor (n : Fin 8) (w : W32)
  /-- Vector bitwise XOR. (R95) -/
  | vxor (n : Fin 8) (w : W32)
  /-- Vector shift left. (R95) -/
  | vshl (n : Fin 8) (w : W32)
  /-- Vector logical shift right. (R95) -/
  | vshr (n : Fin 8) (w : W32)
  /-- Vector arithmetic shift right. (R95) -/
  | vsra (n : Fin 8) (w : W32)
  /-- Floating-point equal compare into predicate. (R95) -/
  | vcmpeq (n : Fin 8) (w : W32)
  /-- Signalling less-than compare into predicate. (R73) -/
  | vcmplt (n : Fin 8) (w : W32)
  /-- Signalling less-or-equal compare into predicate. (R73) -/
  | vcmple (n : Fin 8) (w : W32)
  /-- Unordered compare into predicate. (R95) -/
  | vcmpun (n : Fin 8) (w : W32)
  /-- Integer equal compare. (R95) -/
  | vicmpeq (n : Fin 8) (w : W32)
  /-- Integer signed less-than compare. (R95) -/
  | vicmplt (n : Fin 8) (w : W32)
  /-- Integer unsigned less-than compare. (R95) -/
  | vicmpltu (n : Fin 8) (w : W32)
  /-- Predicate AND. (R95) -/
  | pand (n : Fin 8) (w : W32)
  /-- Predicate OR. (R95) -/
  | por (n : Fin 8) (w : W32)
  /-- Predicate XOR. (R95) -/
  | pxor (n : Fin 8) (w : W32)
  /-- Predicate NOT. (R95) -/
  | pnot (n : Fin 8) (w : W32)
  /-- Load 128 contiguous bytes into a vector register. (R95) -/
  | vld (n : Fin 8) (w : W32)
  /-- Store 128 bytes from a vector register. (R95) -/
  | vst (n : Fin 8) (w : W32)
  /-- Load one 32-bit element and broadcast. (R95) -/
  | vldb32 (n : Fin 8) (w : W32)
  /-- Load one 16-bit element and broadcast. (R95) -/
  | vldb16 (n : Fin 8) (w : W32)
  /-- Pairwise-tree add reduction into lane 0. (R97) -/
  | vredadd (n : Fin 8) (w : W32)
  /-- Pairwise-tree max reduction. (R97) -/
  | vredmax (n : Fin 8) (w : W32)
  /-- Pairwise-tree min reduction. (R97) -/
  | vredmin (n : Fin 8) (w : W32)
  /-- Lane permutation by index vector. (R95) -/
  | vperm (n : Fin 8) (w : W32)
  /-- Slide lanes up by immediate. (R95) -/
  | vslideup (n : Fin 8) (w : W32)
  /-- Slide lanes down by immediate. (R95) -/
  | vslidedn (n : Fin 8) (w : W32)
  /-- Broadcast low 32 bits of a g register. (R95) -/
  | vbcast32 (n : Fin 8) (w : W32)
  /-- Broadcast low 16 bits of a g register. (R95) -/
  | vbcast16 (n : Fin 8) (w : W32)
  /-- Extract a 32-bit lane into a g register. (R95) -/
  | vext (n : Fin 8) (w : W32)
  /-- Insert low 32 bits of a g register into a lane. (R95) -/
  | vins (n : Fin 8) (w : W32)
  /-- Vector register copy. (R95) -/
  | vmov (n : Fin 8) (w : W32)
  /-- binary32 to binary16 into low or high half. (R95) -/
  | vcvtHS (n : Fin 8) (w : W32)
  /-- binary16 half to binary32 lanes. (R95) -/
  | vcvtSH (n : Fin 8) (w : W32)
  /-- int32 to binary32 by RNE. (R95) -/
  | vcvtSW (n : Fin 8) (w : W32)
  /-- binary32 to int32 toward zero, saturating. (R95) -/
  | vcvtWS (n : Fin 8) (w : W32)
  /-- Core signals a semaphore. (R324) -/
  | ssig (n : Fin 8) (w : W32)
  /-- Core begins a blocking wait on a semaphore. (R101) -/
  | swait (n : Fin 8) (w : W32)
  /-- Waiting core takes its count and resumes at the anchor frame. (R101) -/
  | swaitTake (n : Fin 8)
  /-- Non-blocking take with result in rd. (R323) -/
  | stake (n : Fin 8) (w : W32)
  /-- Core arrives at a barrier context. (R326) -/
  | barr (n : Fin 8) (w : W32)
  /-- Core enqueues a transfer descriptor. (R297) -/
  | txq (n : Fin 8) (w : W32)
  /-- Core enters its trap handler. (R103) -/
  | trap (n : Fin 8) (w : W32)
  /-- Core returns from its trap handler. (R103) -/
  | eret (n : Fin 8) (w : W32)
  /-- Core holds issue until prior stores are acknowledged. (R100) -/
  | fence (n : Fin 8) (w : W32)
  /-- Core suspends issue for imm12 cycles. (R84) -/
  | idle (n : Fin 8) (w : W32)
  /-- IDLE count ends and issue resumes. (R84) -/
  | idleExpiry (n : Fin 8)
  /-- Core ends its work in the phase. (R109) -/
  | halt (n : Fin 8) (w : W32)
  /-- Read a CORE register into rd. (R110) -/
  | mfsr (n : Fin 8) (w : W32)
  /-- Write a CORE register with its access code. (R110) -/
  | mtsr (n : Fin 8) (w : W32)
  /-- Read TIM_FRAME into rd. (R92) -/
  | rdfrm (n : Fin 8) (w : W32)
  /-- Read position within the frame into rd. (R92) -/
  | rdpos (n : Fin 8) (w : W32)
  /-- Load data returns; uncorrectable error stops the core. (R106) -/
  | loadReturn (n : Fin 8)
  /-- Destination acknowledges a store; partial write to bad word faults. (R197) -/
  | storeAck (n : Fin 8)
  /-- Prefetch request for learned stream served in a free slot. (R204) -/
  | stridePrefetch (n : Fin 8)
  /-- Configure a folio's role, format and shape. (R113) -/
  | fcfg (n : Fin 8) (w : W32)
  /-- Load a folio from memory with conversion. (R121) -/
  | fld (n : Fin 8) (w : W32)
  /-- Load a folio's exponent strip. (R121) -/
  | fldx (n : Fin 8) (w : W32)
  /-- Store a folio to memory with conversion. (R122) -/
  | fst (n : Fin 8) (w : W32)
  /-- Store a folio's exponent strip. (R122) -/
  | fstx (n : Fin 8) (w : W32)
  /-- Folio data or strip lands. (R121) -/
  | folioLand (n : Fin 8)
  /-- Release folios named in the mask. (R125) -/
  | frel (n : Fin 8) (w : W32)
  /-- Save array state to a save area. (R149) -/
  | fsave (n : Fin 8) (w : W32)
  /-- Restore array state from a save area. (R150) -/
  | frstr (n : Fin 8) (w : W32)
  /-- Relaunch a halted array operation. (R146) -/
  | frsm (n : Fin 8) (w : W32)
  /-- Single-accumulator matrix multiply-accumulate. (R131) -/
  | mma (n : Fin 8) (w : W32)
  /-- Dual-accumulator matrix multiply. (R135) -/
  | mmaDual (n : Fin 8) (w : W32)
  /-- Launch a run of sequencer entries. (R139) -/
  | mmaSequence (n : Fin 8) (w : W32)
  /-- Sequencer begins an entry at its B_e. (R140) -/
  | seqEntryStart (n : Fin 8)
  /-- Chained read-out into an operand folio then multiply. (R178) -/
  | mmac (n : Fin 8) (w : W32)
  /-- MMA part of an MMAC begins at c_m. (R179) -/
  | mmacMmaPart (n : Fin 8)
  /-- Array result lands in its bank. (R131) -/
  | mmaResultLand (n : Fin 8)
  /-- Read out an accumulator bank through an epilogue. (R136) -/
  | ard (n : Fin 8) (w : W32)
  /-- Load a chain descriptor into a slot. (R154) -/
  | chn (n : Fin 8) (w : W32)
  /-- Destination acknowledges a sent tile; DSEM then LSEM signalled. (R175) -/
  | sendAck (n : Fin 8)
  /-- Send ends PEER_LOST or PEER_FENCED. (R176) -/
  | sendFail (n : Fin 8) (fenced : Bool)
  /-- Skew-register parity error discards step and stops core. (R144) -/
  | arraySkewParity (n : Fin 8) (idx : Nat)
  /-- Skew reload ends and array enters STALLED. (R145) -/
  | skewScrubDone (n : Fin 8) (pass : Bool)
  /-- Array halts after the step in progress on a core STOP. (R143) -/
  | arrayHalt (n : Fin 8)
  /-- Write of CORE_CTL.ARM arms a start. (R107) -/
  | coreArm (n : Fin 8) (u : Writer)
  /-- Write of CORE_CTL.STOP stops issue. (R108) -/
  | coreStop (n : Fin 8) (u : Writer)
  /-- Armed core starts at CORE_GOFRAME. (R107) -/
  | coreGo (n : Fin 8)
  /-- Stopping or halting core completes older instructions. (R108) -/
  | coreDrainDone (n : Fin 8)
  /-- Write of CORE_ACTL.CANCEL returns stalled array to IDLE. (R147) -/
  | cancel (n : Fin 8) (u : Writer)
  /-- Write to CORE_ASEQ, refused while the array is active. (R141) -/
  | aseqWrite (n : Fin 8) (j : Fin 16) (u : Writer) (v : W32)
  /-- Range engine invalidates data-cache lines of a range. (R208) -/
  | dinv (n : Fin 8) (u : Writer)
  /-- Range engine waits for stores to a range to be acknowledged. (R207) -/
  | dclean (n : Fin 8) (u : Writer)
  /-- DCLEAN then DINV. (R208) -/
  | dclinv (n : Fin 8) (u : Writer)
  /-- Copy code into the instruction cache. (R205) -/
  | ipreload (n : Fin 8) (u : Writer)
  /-- Invalidate the instruction cache. (R207) -/
  | iinv (n : Fin 8) (u : Writer)
  /-- Range operation ends; BUSY clears, DONE set. (R208) -/
  | rangeOpDone (n : Fin 8)
  /-- Invalidate one data-cache set and way. (R209) -/
  | swInvLine (n : Fin 8) (u : Writer) (set : Fin 64) (way : Fin 8)
  /-- Invalidate the whole data cache. (R209) -/
  | swInvAll (n : Fin 8) (u : Writer)
  /-- Copy one line's tag state into CORE_SWTAG. (R209) -/
  | swReadTag (n : Fin 8) (u : Writer) (set : Fin 64) (way : Fin 8)
  /-- Invalidate one instruction-cache line. (R209) -/
  | swInvIline (n : Fin 8) (u : Writer) (set : Fin 64) (way : Fin 8)
  /-- Waiting background or ingress request served in a free slot. (R17) -/
  | bgRequestServe
  /-- Request waiting 256 cycles writes an informational record. (R264) -/
  | bgWait256
  /-- SRAM scrubber reads and rewrites one line per bank. (R195) -/
  | sramScrubStep (key : Nat)
  /-- Write of CAR_CTL.ARM arms a carrel start. (R229) -/
  | carArm (c : Fin 64) (u : Writer)
  /-- Write of CAR_CTL.STOP stops at a command boundary. (R229) -/
  | carStop (c : Fin 64) (u : Writer)
  /-- Armed carrel starts its list at CAR_GOFRAME. (R229) -/
  | carGo (c : Fin 64)
  /-- Carrel matrix-vector product. (R240) -/
  | dot (c : Fin 64) (r : CarRec)
  /-- Carrel binary32 y := a x + y. (R231) -/
  | axpy (c : Fin 64) (r : CarRec)
  /-- Carrel binary32 scale and shift. (R231) -/
  | scale (c : Fin 64) (r : CarRec)
  /-- Carrel sum or max reduction. (R242) -/
  | reduce (c : Fin 64) (r : CarRec)
  /-- Carrel in-place optimiser update. (R241) -/
  | opt (c : Fin 64) (r : CarRec)
  /-- Carrel conversion to RH16 carrel format. (R231) -/
  | rerange (c : Fin 64) (r : CarRec)
  /-- Carrel gathers indexed units. (R246) -/
  | gather (c : Fin 64) (r : CarRec)
  /-- Carrel scatters indexed units. (R246) -/
  | scatter (c : Fin 64) (r : CarRec)
  /-- Carrel CRC-32C over a range. (R245) -/
  | csum (c : Fin 64) (r : CarRec)
  /-- Carrel top-k selection. (R243) -/
  | topk (c : Fin 64) (r : CarRec)
  /-- Carrel atomic read-modify-write list. (R244) -/
  | atom (c : Fin 64) (r : CarRec)
  /-- Carrel move between group and scratch. (R231) -/
  | move (c : Fin 64) (r : CarRec)
  /-- Carrel loads a vector from CSM into scratch. (R231) -/
  | ldv (c : Fin 64) (r : CarRec)
  /-- Carrel stores scratch to CSM. (R231) -/
  | stv (c : Fin 64) (r : CarRec)
  /-- Carrel signals a semaphore. (R237) -/
  | sig (c : Fin 64) (r : CarRec)
  /-- Carrel begins a blocking semaphore wait. (R237) -/
  | swt (c : Fin 64) (r : CarRec)
  /-- Waiting carrel takes and sets its anchor. (R237) -/
  | swtTake (c : Fin 64)
  /-- Carrel arrives at a barrier. (R326) -/
  | bar (c : Fin 64) (r : CarRec)
  /-- Carrel list ends; IDLE after earlier commands complete. (R238) -/
  | endList (c : Fin 64) (r : CarRec)
  /-- Carrel command loses a beat under R16 and stops. (R219) -/
  | carrelBeatLost (c : Fin 64)
  /-- New refresh period latches cool or hot mode. (R223) -/
  | refreshPeriodStart
  /-- Group refresh slot refreshes, scrubs and migrates. (R221) -/
  | refreshSlot (g : Fin 64)
  /-- BMC_REMAP_CTL.START schedules migrations. (R248) -/
  | remapStart (u : Writer)
  /-- BMC_REMAP_CTL.ABORT discards a rebuild. (R252) -/
  | remapAbort (u : Writer)
  /-- Shadow tables become active at a frame boundary. (R251) -/
  | remapSwap
  /-- Copy back into shadow tables ends; BUSY clears. (R251) -/
  | remapCopyDone
  /-- TIM_FRAME increments and per-frame metering runs. (R22) -/
  | frameBoundary
  /-- Armed boundary latches budget, masks, handoffs and starts units. (R255) -/
  | phaseBoundary
  /-- Write of TIM_PHASE_CTL.ARMED arms a boundary. (R257) -/
  | phaseArm (u : Writer)
  /-- Write of TIM_PHASE_CTL.DISARM clears ARMED. (R255) -/
  | phaseDisarm (u : Writer)
  /-- At start plus LEN unfinished units are recorded. (R259) -/
  | phaseLenCheck
  /-- At LEN plus 64 firmware stops the overrunning phase. (R260) -/
  | phaseGraceExpiry
  /-- Schedule hold begins at the frame after a skew fault. (R279) -/
  | holdBegin
  /-- Write of TIM_HOLD_CTL.RELEASE fixes the shift. (R280) -/
  | holdRelease (u : Writer)
  /-- Write of TIM_HOLD_CTL.ABORT stops the phase. (R281) -/
  | holdAbort (u : Writer)
  /-- Held units resume at F plus delta. (R280) -/
  | holdResume
  /-- Write of CLK_SLOW_CTL.ENTER requests slow-exact mode. (R284) -/
  | slowEnter (u : Writer)
  /-- TEMERG rises and requests slow-exact mode. (R284) -/
  | temergAssert
  /-- TEMERG falls and the return count starts. (R284) -/
  | temergDeassert
  /-- 4160 frames without TEMERG request normal mode. (R284) -/
  | slowExitTimer
  /-- Post-divider change takes effect at the second boundary. (R24) -/
  | clockModeSwitch
  /-- Slotted write departs in its reserved slot. (R266) -/
  | meshSlotDepart (p : Fin 4)
  /-- Far transaction not acknowledged within its bound. (R268) -/
  | linkLate (c : Fin 32)
  /-- Write of TEN_CH_ENQ.GO enqueues a descriptor. (R297) -/
  | tenEnq (k : Fin 64) (u : Writer)
  /-- Descriptor at channel head starts and is checked. (R299) -/
  | descStart (k : Fin 64)
  /-- Channel takes WCOUNT from WSEM and sets its anchor. (R299) -/
  | channelWaitTake (k : Fin 64)
  /-- Paced transaction handed to port when tracker and credit allow. (R306) -/
  | pacedHandover (k : Fin 64)
  /-- Remote transaction acknowledged or errored. (R308) -/
  | remoteTxnEnd (k : Fin 64) (cls : Byte)
  /-- Descriptor completes and signals DSEM and LSEM. (R309) -/
  | descComplete (k : Fin 64)
  /-- Write of TEN_CH_CTL.STOP stops a channel. (R312) -/
  | tenStop (k : Fin 64) (u : Writer)
  /-- Write of TEN_CH_CTL.RESUME returns channel to IDLE. (R312) -/
  | tenResume (k : Fin 64) (u : Writer)
  /-- Stopping channel has nothing in flight. (R312) -/
  | channelStopDone (k : Fin 64)
  /-- KC or host write signals a semaphore. (R324) -/
  | semSignal (u : Writer) (v : W32)
  /-- KC or host non-blocking take. (R323) -/
  | semTake (u : Writer) (v : W32)
  /-- Write sets a semaphore's stored value. (R325) -/
  | semValWrite (k : Fin 4096) (u : Writer) (v : W32)
  /-- Allocation bit set resets value and flags. (R321) -/
  | semAllocWrite (j : Fin 128) (u : Writer) (v : W32)
  /-- Pending signal becomes takeable and is added. (R324) -/
  | signalTakeable
  /-- Save a semaphore range and barrier contexts. (R333) -/
  | semSave (u : Writer)
  /-- Restore a synchronisation record. (R334) -/
  | semRestore (u : Writer)
  /-- Save or restore transfer completes. (R335) -/
  | semXferDone
  /-- KC or host arrival at a barrier. (R326) -/
  | barArrive (k : Fin 64) (u : Writer)
  /-- Write of BAR_CFG, BAR_PARENT or BAR_UP. (R332) -/
  | barConfigWrite (k : Fin 64) (r : Fin 3) (u : Writer) (v : W32)
  /-- Serving hub counts an up-arrival. (R328) -/
  | upArrival (k : Fin 64) (f : UpFrom)
  /-- Release reaches a context and is forwarded. (R330) -/
  | barrierRelease (k : Fin 64)
  /-- 4096 quiet frames trip the overdue watch. (R338) -/
  | overdueTrip
  /-- Doorbell sets a queue's SQ_TAIL. (R348) -/
  | queSqdb (u : Writer) (v : W32)
  /-- Doorbell sets a queue's CQ_HEAD. (R348) -/
  | queCqdb (u : Writer) (v : W32)
  /-- Write configures and enables q0. (R366) -/
  | queAdminCfgWrite (u : Writer) (v : W32)
  /-- Driver reattach attempt with HSEQ. (R365) -/
  | queAttach (u : Writer) (v : W32)
  /-- Firmware decides a RUN command and computes its promise. (R351) -/
  | run (q : Fin 16384)
  /-- Firmware decides a SIGNAL command. (R351) -/
  | cmdSignal (q : Fin 16384)
  /-- Firmware decides a queue creation. (R350) -/
  | qcreate (q : Fin 16384)
  /-- Firmware decides a queue destruction. (R350) -/
  | qdestroy (q : Fin 16384)
  /-- Firmware decides a queue pin. (R350) -/
  | pin (q : Fin 16384)
  /-- Firmware decides a queue unpin. (R350) -/
  | unpin (q : Fin 16384)
  /-- Victim saved and new context restored for residency. (R343) -/
  | queuePageIn (q : Fin 16384)
  /-- Completion record written for an accepted command. (R353) -/
  | commandComplete (q : Fin 16384)
  /-- Firmware prepares and arms the next phase. (R427) -/
  | dispatchPhase (b : Nat)
  /-- Firmware finds every unit of a phase ended. (R428) -/
  | phaseEnd
  /-- Firmware samples the heartbeat word. (R362) -/
  | heartbeatSample
  /-- Received WRITE flits performed and acknowledged. (R370) -/
  | meshWrite (p : Fin 4) (f : Flit) (fl : List Flit)
  /-- Received read request answered with READ_DATA or ERROR. (R368) -/
  | meshReadReq (p : Fin 4) (f : Flit) (fl : List Flit)
  /-- Received read data written locally. (R306) -/
  | meshReadData (p : Fin 4) (f : Flit) (fl : List Flit)
  /-- Received remote signal applied and acknowledged. (R370) -/
  | meshSignal (p : Fin 4) (f : Flit) (fl : List Flit)
  /-- Received error response ends a transaction. (R308) -/
  | meshError (p : Fin 4) (f : Flit) (fl : List Flit)
  /-- Received barrier up-arrival flit. (R328) -/
  | meshBarUp (p : Fin 4) (f : Flit) (fl : List Flit)
  /-- Received barrier release flit. (R330) -/
  | meshBarRel (p : Fin 4) (f : Flit) (fl : List Flit)
  /-- Received credit return. (R371) -/
  | mntCredit (p : Fin 4) (n : Nat) (slot : Bool)
  /-- Received acknowledgement of a transaction. (R370) -/
  | mntAck (p : Fin 4) (txid : Nat) (status : Byte)
  /-- Received heartbeat keeps or brings a port UP. (R380) -/
  | mntHeartbeat (p : Fin 4) (id : Nat)
  /-- Received announce from a restarted partner. (R381) -/
  | mntAnnounce (p : Fin 4) (id : Nat)
  /-- Received fence notice from a peer. (R400) -/
  | mntFence (p : Fin 4) (id : Nat)
  /-- Port sends HEARTBEAT or ANNOUNCE every microsecond. (R379) -/
  | heartbeatTimer (p : Fin 4)
  /-- Eight silent intervals put a mesh port in LOST. (R381) -/
  | portLost (p : Fin 4)
  /-- Write of MSH_HB_CTL.EN takes ports DOWN or ANNOUNCING. (R380) -/
  | mshHbEnWrite (u : Writer) (v : W32)
  /-- Write of MSH_FENCE_CTL.GO starts fencing. (R396) -/
  | fenceGo (u : Writer) (v : W32)
  /-- Units idle and queues parked; STEP 2 sends FENCE. (R398) -/
  | fenceDrainDone
  /-- All far FENCEs acknowledged; STEP 3. (R399) -/
  | fenceAcksDone
  /-- Received far WRITE packet performed. (R386) -/
  | lfcWrite (c : Fin 32) (h : List Byte) (pl : List Byte) (crc : W32)
  /-- Received far read request queued. (R386) -/
  | lfcReadReq (c : Fin 32) (h : List Byte) (pl : List Byte) (crc : W32)
  /-- Received far read data written locally. (R306) -/
  | lfcReadData (c : Fin 32) (h : List Byte) (pl : List Byte) (crc : W32)
  /-- Received far signal applied. (R386) -/
  | lfcSignal (c : Fin 32) (h : List Byte) (pl : List Byte) (crc : W32)
  /-- Received far error packet. (R308) -/
  | lfcError (c : Fin 32) (h : List Byte) (pl : List Byte) (crc : W32)
  /-- Received far barrier up-arrival. (R328) -/
  | lfcBarUp (c : Fin 32) (h : List Byte) (pl : List Byte) (crc : W32)
  /-- Received far barrier release. (R330) -/
  | lfcBarRel (c : Fin 32) (h : List Byte) (pl : List Byte) (crc : W32)
  /-- Received far FENCE packet. (R400) -/
  | lfcFence (c : Fin 32) (h : List Byte) (pl : List Byte) (crc : W32)
  /-- Received acknowledgement packet. (R385) -/
  | lfcAck (c : Fin 32) (h : List Byte) (pl : List Byte) (crc : W32)
  /-- Received NAK triggers resend. (R391) -/
  | lfcNak (c : Fin 32) (h : List Byte) (pl : List Byte) (crc : W32)
  /-- Received keep-alive packet. (R393) -/
  | lfcKeepalive (c : Fin 32) (h : List Byte) (pl : List Byte) (crc : W32)
  /-- Received announce puts a channel in JOINING or LOST. (R403) -/
  | lfcAnnounce (c : Fin 32) (h : List Byte) (pl : List Byte) (crc : W32)
  /-- No outgoing packet within 8 frames sends an ACK. (R386) -/
  | lfcAckTimer (c : Fin 32)
  /-- Retransmission timeout resends unacknowledged packets. (R391) -/
  | rtoExpiry (c : Fin 32)
  /-- Idle channel sends KEEPALIVE. (R392) -/
  | keepaliveTimer (c : Fin 32)
  /-- Silence or exhausted retries put a channel in LOST. (R393) -/
  | farChannelLost (c : Fin 32)
  /-- Freed buffer granted to a waiting channel. (R390) -/
  | poolGrant
  /-- FPn_LINKUP changes level. (R516) -/
  | linkupChange (p : Fin 2) (up : Bool)
  /-- KC makes the next ring window current. (R408) -/
  | wpush (w : W32)
  /-- KC returns to the previous ring window. (R408) -/
  | wpop (w : W32)
  /-- KC returns from the trap window. (R413) -/
  | tret (w : W32)
  /-- Spill the oldest ring window to the spill stack. (R410) -/
  | wspill (w : W32)
  /-- Fill a window back from the spill stack. (R410) -/
  | wfill (w : W32)
  /-- Restartable block copy in 64-byte elements. (R417) -/
  | bcopy (w : W32) (steps : Nat)
  /-- Restartable copy of listed control registers. (R417) -/
  | csave (w : W32) (steps : Nat)
  /-- KC waits with KCLK gated for an interrupt. (R416) -/
  | wfi (w : W32)
  /-- KC takes trap cause 0x06. (R412) -/
  | ktrap (w : W32)
  /-- KC takes the lowest pending enabled interrupt. (R416) -/
  | kcInterrupt
  /-- TIM_FRAME reaches KCP_TIMER. (R416) -/
  | kcTimerMatch
  /-- Write of the key restarts the watchdog period. (R431) -/
  | wdtKick (u : Writer) (v : W32)
  /-- Watchdog period ends without kick. (R432) -/
  | watchdogExpiry
  /-- Write of KCP_BOOT.AUTH starts image checks and hash. (R421) -/
  | auth (u : Writer)
  /-- SHA-384 ends and AUTH_REQ is sent. (R421) -/
  | hashDone
  /-- SEC verdict releases KC or fails the load. (R422) -/
  | authResult
  /-- No SEC answer in 100 ms. (R422) -/
  | authTimeout
  /-- Firmware sends an outbound message. (R423) -/
  | mbSend (m : Fin 3) (u : Writer)
  /-- Firmware acknowledges an inbound message. (R423) -/
  | mbAck (m : Fin 3) (u : Writer)
  /-- Peer delivers an inbound message over the service port. (R514) -/
  | svcSend (m : Fin 3) (ws : List W32)
  /-- Peer acknowledges an outbound message. (R514) -/
  | svcAck (m : Fin 3)
  /-- PMC budget message received. (R430) -/
  | budget
  /-- PMC temperature message received. (R430) -/
  | temp
  /-- PMC sets CLK_SLOW_CTL.HOLD. (R430) -/
  | slowhold
  /-- SCH epoch message copied and armed. (R425) -/
  | epoch
  /-- SCH barrier release message. (R330) -/
  | mbBarRel
  /-- Write of KCP_EPOCH_CTL.ARM. (R425) -/
  | epochArm (u : Writer)
  /-- Write of KCP_EPOCH_CTL.NOW applies copies at once. (R426) -/
  | epochNow (u : Writer)
  /-- 100 us firmware loop sets refresh mode and budget. (R430) -/
  | powerLoopTick
  /-- Host opens the slot-1 staging window. (R433) -/
  | updOpen (u : Writer)
  /-- Host commits slot 1 for authentication. (R434) -/
  | updCommit (u : Writer)
  /-- KC exchanges slots and enters the new image. (R435) -/
  | updSwitch (u : Writer)
  /-- New firmware confirms the update. (R436) -/
  | updConfirm (u : Writer)
  /-- New firmware rejects the handoff and rolls back. (R436) -/
  | updReject (u : Writer)
  /-- Update abandoned before authentication passes. (R434) -/
  | updAbandon (u : Writer)
  /-- 10 ms without CONFIRM rolls back. (R436) -/
  | updConfirmTimeout
  /-- KC raises a fault record through FLT_RAISE_CTL.GO. (R484) -/
  | fltRaise (u : Writer)
  /-- Queued record written to the fault ring and interrupt raised. (R482) -/
  | recordRingWrite
  /-- ARCHIVING lasts FLT_ARC_LIMIT frames and ends in FAILED. (R495) -/
  | archiveLimitExpiry
  /-- Stack supply monitor trips and raises BM_PWRFAIL. (R509) -/
  | bmSupplyTrip
  /-- KC requests a cluster state transition. (R463) -/
  | cluStateSet (u : Writer) (v : W32)
  /-- Cold reset release samples straps. (R441) -/
  | porstNRise (straps : W32)
  /-- PLL reports lock on a REFSYNC edge; TIM_FRAME cleared. (R504) -/
  | pllLock
  /-- SRAM check bits made valid after cold reset. (R522) -/
  | checkbitInitDone
  /-- CAT_GNT rises and catalogue reads begin. (R451) -/
  | catGrant
  /-- No grant 20 ms after lock publishes cause 0x07. (R451) -/
  | catGrantTimeout
  /-- Record read, checked and applied. (R457) -/
  | catalogueReadDone (sfdp : List Byte) (dir : List Byte) (record : List Byte)
  /-- Write of CAT_CTL.LOAD takes a host-supplied record. (R459) -/
  | catLoad (u : Writer)
  /-- BM training, repair and zeroing end in HELD. (R460) -/
  | trainingDone (failed : Option Nat)
  /-- Built-in self-test writes its record. (R521) -/
  | bistDone (head : List Byte) (ents : List Byte)
  /-- Write of CLK_RST_CTL.COLD with key. (R465) -/
  | coldReset (u : Writer) (v : W32)
  /-- Write of CLK_RST_CTL.WARM starts draining. (R210) -/
  | warmReset (u : Writer)
  /-- Write buffers empty and warm reset takes effect. (R210) -/
  | warmResetEffect
  /-- Drain not done in 2 us becomes a forced reset. (R210) -/
  | warmResetTimeout
  /-- Write of CLK_RST_CTL.FORCE resets at once. (R211) -/
  | forcedReset (u : Writer)
  /-- Write of CLK_CORE_RST resets one core. (R468) -/
  | coreReset (n : Fin 8) (u : Writer)
  /-- Per-core reset completes and BUSY clears. (R468) -/
  | coreResetDone (n : Fin 8)
  /-- Request to return to ACTIVE. (R474) -/
  | pwrReqActive (u : Writer)
  /-- Request to enter IDLE. (R470) -/
  | pwrReqIdle (u : Writer)
  /-- Request to enter SHELVED. (R470) -/
  | pwrReqShelved (u : Writer)
  /-- Request to enter OFF. (R475) -/
  | pwrReqOff (u : Writer)
  /-- Requested low-power state takes effect at a boundary. (R472) -/
  | powerStateEnter
  /-- Exit from SHELVED completes at a refresh period start. (R474) -/
  | shelvedExit
  /-- Write of DBG_SNAP_CTL.ARM. (R500) -/
  | snapArm (u : Writer)
  /-- Write of DBG_SNAP_CTL.DISARM. (R500) -/
  | snapDisarm (u : Writer)
  /-- Snapshot of core and carrel positions at the frame. (R501) -/
  | dbgSnapshot
  /-- TAP drives terminals from the boundary register. (R520) -/
  | extest
  /-- TAP selects the IDCODE register. (R518) -/
  | idcode (mfr : BitVec 11)
  /-- TAP samples or preloads the boundary register. (R518) -/
  | samplePreload (preload : Option Nat)
  /-- TAP takes control of the IEEE 1500 wrapper. (R519) -/
  | wrapper
  /-- TAP returns the self-test record head. (R518) -/
  | bistResult
  /-- TAP selects the one-bit bypass. (R518) -/
  | bypass
  /-- Wrapper bypass instruction. (R519) -/
  | wsBypass (viaTap : Bool)
  /-- Wrapper external test isolating the macro. (R520) -/
  | wsExtest (viaTap : Bool)
  /-- Wrapper connects internal scan chains. (R520) -/
  | wsIntestScan (viaTap : Bool)
  /-- Wrapper tests the macro from the boundary register. (R520) -/
  | wsIntestRing (viaTap : Bool)
  /-- Write to a register with no row of its own, by access code. (R12) -/
  | registerWrite (u : Writer) (a : BitVec 41) (width : Nat) (v : W32)
  /-- The last issued command of a carrel engine completes, so a STOPPING engine reads STOPPED_REQ and an engine past END reads IDLE. (R238) -/
  | carrelCommandsComplete (c : Fin 64)
  /-- PORST_N is driven low and the cluster undergoes a cold reset, losing its state until release. (R464) -/
  | porstNLow
  /-- Exit from the IDLE power state to ACTIVE completes, within 534 frames of its request. (R474) -/
  | idleExit
deriving DecidableEq, Repr, Inhabited

end Sys2Proof
end

