-- ==== Sys2Proof/Machine/Bits.lean ====
section
/-!
DEFINITION. Helpers over plain data: sparse tables in one canonical form, little-endian byte strings (R5), bit fields,
the two CRCs (R245, R456) and SHA-384 (R421).
-/
namespace Sys2Proof.Machine

/-! ### Sparse tables: keys strictly rising, no entry equal to what an unlisted key reads as -/

/-- The value at key `a`; an unlisted key reads `d a`. -/
def tabGet {α : Type} (d : Nat → α) : List (Nat × α) → Nat → α
  | [], a => d a
  | (k, v) :: l, a => if a = k then v else tabGet d l a

/-- Set key `a` to `v`; writing the value an unlisted key reads as removes the entry. -/
def tabPut {α : Type} [DecidableEq α] (d : Nat → α) (a : Nat) (v : α) : List (Nat × α) → List (Nat × α)
  | [] => if v = d a then [] else [(a, v)]
  | (k, w) :: l =>
    if a < k then (if v = d a then (k, w) :: l else (a, v) :: (k, w) :: l)
    else if a = k then (if v = d a then l else (a, v) :: l)
    else (k, w) :: tabPut d a v l

/-- The canonical form: every key above `lo`, keys strictly rising, no entry at its default. -/
def tabWfFrom {α : Type} [DecidableEq α] (d : Nat → α) : Option Nat → List (Nat × α) → Bool
  | _, [] => true
  | lo, (k, v) :: l => (match lo with | none => true | some b => decide (b < k)) && decide (v ≠ d k) && tabWfFrom d (some k) l

/-- The canonical form of a sparse table. -/
def tabWf {α : Type} [DecidableEq α] (d : Nat → α) (l : List (Nat × α)) : Bool := tabWfFrom d none l

/-- A set of keys kept as a sorted list without repeats. -/
def setIns (a : Nat) : List Nat → List Nat
  | [] => [a]
  | k :: l => if a < k then a :: k :: l else if a = k then k :: l else k :: setIns a l

/-! ### Bit fields of a natural number -/

/-- Bits [lo + w − 1 : lo] of `n`. -/
def nbits (n lo w : Nat) : Nat := (n >>> lo) % 2 ^ w

/-- Bit `i` of `n`. -/
def nbit (n i : Nat) : Bool := (n >>> i) % 2 = 1

/-- 1 for true, 0 for false. -/
def b2n (b : Bool) : Nat := if b then 1 else 0

/-- The signed value of the low `w` bits of `n`. -/
def nsigned (n w : Nat) : Int :=
  let m := n % 2 ^ w
  if m < 2 ^ (w - 1) then (m : Int) else (m : Int) - (2 ^ w : Nat)

/-- The two's-complement pattern of `i` in `w` bits. -/
def toBits (i : Int) (w : Nat) : Nat := (i % ((2 ^ w : Nat) : Int)).toNat

/-- Bits [lo + w − 1 : lo] of a 32-bit word, as a number. -/
def fieldOf (v : W32) (lo w : Nat) : Nat := nbits v.toNat lo w

/-- `v` with bits [lo + w − 1 : lo] replaced by the low bits of `x`. -/
def setField (v : W32) (lo w x : Nat) : W32 :=
  BitVec.ofNat 32 ((v.toNat >>> (lo + w)) <<< (lo + w) + ((x % 2 ^ w) <<< lo) + v.toNat % 2 ^ lo)

/-- `min` with the largest value of a saturating counter (R12 tables "saturates at"). -/
def satInc (n top : Nat) : Nat := if n < top then n + 1 else top

/-! ### Little-endian bytes (R5) -/

/-- The `k` lowest bytes of `n`, least significant first. -/
def leBytes (n : Nat) : Nat → List Byte
  | 0 => []
  | k + 1 => BitVec.ofNat 8 n :: leBytes (n / 256) k

/-- The number that a byte string holds, least significant byte first. -/
def leNat : List Byte → Nat
  | [] => 0
  | b :: l => b.toNat + 256 * leNat l

/-- Bytes [off, off + k) of a byte string; bytes beyond its end read 0. -/
def bytesAt (l : List Byte) (off k : Nat) : List Byte :=
  (l.drop off).take k ++ List.replicate (k - ((l.drop off).take k).length) 0

/-- The little-endian number of `k` bytes at `off`. -/
def leAt (l : List Byte) (off k : Nat) : Nat := leNat (bytesAt l off k)

/-- A byte string cut into groups of `k` bytes (fuel: its length). -/
def chunks {α : Type} (k : Nat) : Nat → List α → List (List α)
  | 0, _ => []
  | _, [] => []
  | n + 1, l => l.take k :: chunks k n (l.drop k)

/-- Overwrite `l` from `off` with `src`. -/
def overlay {α : Type} (l : List α) (off : Nat) (src : List α) : List α :=
  l.take off ++ src ++ l.drop (off + src.length)

/-! ### CRCs -/

/-- One bit of a reflected CRC. -/
def crcBit (poly c : Nat) : Nat := if c % 2 = 1 then (c / 2) ^^^ poly else c / 2

/-- One byte of a reflected CRC. -/
def crcByte (poly c : Nat) (b : Byte) : Nat :=
  (List.range 8).foldl (fun c _ => crcBit poly c) (c ^^^ b.toNat)

/-- A reflected 32-bit CRC over a byte string from register value `c`. -/
def crcRun (poly c : Nat) (l : List Byte) : Nat := l.foldl (crcByte poly) c

/-- CRC-32 with the IEEE 802.3 polynomial (R456): start and final exclusive-or 0xFFFF_FFFF. -/
def crc32 (l : List Byte) : Nat := (crcRun 0xEDB88320 0xFFFFFFFF l) ^^^ 0xFFFFFFFF

/-- CRC-32C (R245), continued from a previous result `seed` when given. -/
def crc32c (seed : Option Nat) (l : List Byte) : Nat :=
  let c := match seed with
    | none => 0xFFFFFFFF
    | some r => r ^^^ 0xFFFFFFFF
  (crcRun 0x82F63B78 c l) ^^^ 0xFFFFFFFF

/-! ### SHA-384 (R421 names the function; PRESUMED: the published standard) -/

/-- The big-endian number of a byte string. -/
def beNat (l : List Byte) : Nat := leNat l.reverse

/-- The `k` bytes of `n`, most significant first. -/
def beBytes (n k : Nat) : List Byte := (leBytes n k).reverse

/-- The largest number of at most `bits` bits, above `r`, whose `k`th power stays within `n`: one bit at a time, high to low. -/
def rootFrom (k n : Nat) : Nat → Nat → Nat
  | 0, r => r
  | bits + 1, r => rootFrom k n bits (if (r + 2 ^ bits) ^ k ≤ n then r + 2 ^ bits else r)

/-- The first 64 bits of the fraction of `p`'s `k`th root. -/
def rootFraction (k p : Nat) : BitVec 64 := BitVec.ofNat 64 (rootFrom k (p <<< (64 * k)) 70 0)

/-- The primes below 410 in rising order: 80 of them. -/
def smallPrimes : List Nat := (List.range' 2 408).filter (fun p => (List.range' 2 20).all (fun d => p % d ≠ 0 || p = d))

/-- The exclusive-or of three images of a word: two rotations and a third one, a rotation or (`shift`) a shift. -/
def mixBits (x : BitVec 64) (i j k : Nat) (shift : Bool) : BitVec 64 :=
  x.rotateRight i ^^^ x.rotateRight j ^^^ (if shift then x >>> k else x.rotateRight k)

/-- The schedule's words after `n` more, the newest at the head. -/
def shaWords : Nat → List (BitVec 64) → List (BitVec 64)
  | 0, ws => ws
  | n + 1, ws =>
    let back (k : Nat) : BitVec 64 := ws.getD (k - 1) 0
    shaWords n ((mixBits (back 2) 19 61 6 true + back 7 + mixBits (back 15) 1 8 7 true + back 16) :: ws)

/-- The two chains of working values, each with its newest value at the head: of one round every other variable is an
earlier value of one of the two. -/
def shaStep (st : List (BitVec 64) × List (BitVec 64)) (kw : BitVec 64) : List (BitVec 64) × List (BitVec 64) :=
  match st with
  | (a1 :: a2 :: a3 :: a4 :: _, e1 :: e2 :: e3 :: e4 :: _) =>
    let t := kw + e4 + (e3 ^^^ (e1 &&& (e2 ^^^ e3))) + mixBits e1 14 18 41 false
    ([t + mixBits a1 28 34 39 false + ((a1 &&& (a2 ||| a3)) ||| (a2 &&& a3)), a1, a2, a3], [t + a4, e1, e2, e3])
  | other => other

/-- One block of 128 bytes. -/
def shaBlock (st : List (BitVec 64) × List (BitVec 64)) (blk : List Byte) : List (BitVec 64) × List (BitVec 64) :=
  let first := (chunks 8 16 blk).map (fun b => BitVec.ofNat 64 (beNat b))
  let kws := List.zipWith (· + ·) (smallPrimes.map (rootFraction 3)) (shaWords 64 first.reverse).reverse
  let fin := kws.foldl shaStep st
  (List.zipWith (· + ·) st.1 fin.1, List.zipWith (· + ·) st.2 fin.2)

/-- SHA-384 of a byte string: 48 bytes. -/
def sha384 (msg : List Byte) : List Byte :=
  let fill := List.replicate ((239 - msg.length % 128) % 128) (0 : Byte)
  let m := msg ++ [0x80] ++ fill ++ beBytes (8 * msg.length) 16
  let init := ((smallPrimes.drop 8).take 8).map (rootFraction 2)
  let fin := (chunks 128 m.length m).foldl shaBlock (init.take 4, init.drop 4)
  ((fin.1 ++ fin.2).take 6).flatMap (fun x => beBytes x.toNat 8)

end Sys2Proof.Machine
end

