-- ==== Sys2Proof/Machine/Hw.lean ====
section
/-!
DEFINITION. The state of the hardware, apart from the queue of waiting commands: plain data, one structure per block.
The registers that software reads and that hold only what is written into them stand in `regs`, keyed by their offset from
0x040_0000_0000; a register that shows internal state is computed from the fields below when it is read (R12).
-/
namespace Sys2Proof.Machine

/-! ### Units, faults and the recorder (spec/15) -/

/-- Run state of a compute core, a carrel engine or a transfer channel (R110, R253, R317). -/
inductive UState where
  | idle
  | armed
  | run
  | wait
  | stopping
  | stoppedFault
  | stoppedReq
deriving DecidableEq, Repr, Inhabited

/-- Where a record's QUEUE and QV come from: none, the running phase for the units that R479 names (`auto`), or the phase's queue or
another that the raising rule names (R479); or the whole word as KC wrote it (R484). -/
inductive QSrc where
  | none
  | auto
  | phase
  | queue (q : Nat)
  | word (w : Nat)
deriving DecidableEq, Repr, Inhabited

/-- A fault record before the recorder accepts it (R478): bytes 0x00–0x2B. -/
structure FaultRec where
  cls : Nat
  sev : Nat
  unit : Nat
  ch : Nat := 0
  q : QSrc := .auto
  instr : Nat := 0
  exp : Nat := 0
  act : Nat := 0
  addr : Nat := 0
  syn : Nat := 0
deriving DecidableEq, Repr, Inhabited

/-- A record in the recorder's queue (R480): its cycle of detection, RFRAME, QUEUE word and loss count. Its SEQ is
FLT_WIDX plus its place in the queue. -/
structure QueuedRec where
  cyc : Nat
  rframe : Nat
  qword : Nat
  dropped : Nat
  fr : FaultRec
deriving DecidableEq, Repr, Inhabited

/-- The fault recorder (R480–R483); the bytes of the last cluster-fatal record that was written (R496). -/
structure Recorder where
  queue : List QueuedRec
  /-- records dropped since the last accepted one -/
  lost : Nat
  /-- FLT_STAT.RING_ON: the cluster has entered HELD since the cold reset (R483) -/
  ringOn : Bool
  /-- a phase boundary was accepted since the last reset (R479) -/
  phaseSeen : Bool
  fatal : List Byte
deriving DecidableEq, Repr, Inhabited

/-! ### Memory beats (spec/06, spec/07, spec/08 "Travel times") -/

/-- What a beat moves: a read captures its bytes; a read that its core's cache has served leaves its slot to a waiting request (R200); a
write writes given bytes, what its operation captured from an address (R303), or what memory holds at an address in that cycle (STV); a
step of a carrel command reads or writes as that command says (R240, R244, R246). -/
inductive BeatData where
  | read
  | given
  | bytes (l : List (Nat × Byte))
  | got (src : Nat)
  | mem (src : Nat)
  | step (j : Nat)
deriving DecidableEq, Repr, Inhabited

/-- One access of a bank port: performed at cycle `cyc` for `span` cycles on port `port`, `len` bytes at `addr` for operation `id`
of the instruction, record or descriptor at `pc`. -/
structure Beat where
  cyc : Nat
  span : Nat
  port : Nat
  unit : Nat
  id : Nat
  pc : Nat
  /-- the core whose own store it is, exempt from the write filter (R202) -/
  own : Option Nat
  wr : Bool
  addr : Nat
  len : Nat
  data : BeatData
  fin : Bool
deriving DecidableEq, Repr, Inhabited

/-- What a read beat returned: operation, address, bytes, and the first address whose protected word was uncorrectable (R196). -/
structure Got where
  id : Nat
  addr : Nat
  bytes : List Byte
  bad : Option Nat
deriving DecidableEq, Repr, Inhabited

/-! ### Compute cores (spec/03, spec/06) -/

/-- A register's landing cycle in the two checker copies, with their parity (R85, R276). -/
structure Land where
  a : Nat
  b : Nat
  badA : Bool
  badB : Bool
deriving DecidableEq, Repr, Inhabited

/-- Where the data of a load goes. -/
inductive LoadDst where
  | g (r : Nat) (bytes : Nat) (signed : Bool)
  | v (r : Nat) (mask : W64)
  | bcast (r : Nat) (mask : W64) (bytes : Nat)
  | chain (slot : Nat)
deriving DecidableEq, Repr, Inhabited

/-- The load fills a chain slot: it uses no cache. -/
def LoadDst.isChain (d : LoadDst) : Bool :=
  match d with
  | .chain _ => true
  | _ => false

/-- A load in flight (R88, R106); `alloc` when its line fills the data cache at landing (R200), `drop` when that fill is
marked drop-on-arrival (R203). -/
structure LoadOp where
  id : Nat
  pc : Nat
  land : Nat
  addr : Nat
  dst : LoadDst
  alloc : Bool
  drop : Bool
  /-- the range engine marked it before its bank slot: it counts as dropped if it turns out to be a fill (R208) -/
  rng : Bool
deriving DecidableEq, Repr, Inhabited

/-- A store not yet acknowledged (R100, "Buffered stores"): `lines` are addresses of the lines it writes. -/
structure StoreOp where
  id : Nat
  pc : Nat
  ack : Nat
  lines : List Nat
deriving DecidableEq, Repr, Inhabited

/-- A valid line of a data cache: its number is 8 × set + way; a lower `age` was used longer ago. -/
structure DLine where
  tag : Nat
  perr : Bool
  age : Nat
deriving DecidableEq, Repr, Inhabited

/-- A prefetch stream of a core (R204): the load's address, its last line, its stride, the misses at that stride, and
how many lines ahead were prefetched. -/
structure PfStream where
  pc : Nat
  line : Nat
  stride : Int
  hits : Nat
  ahead : Nat
deriving DecidableEq, Repr, Inhabited

/-- An SWAIT or SWT in progress (R101, R237). -/
structure SemWait where
  sem : Nat
  count : Nat
  pc : Nat
  since : Nat
deriving DecidableEq, Repr, Inhabited

/-- An operation of the range engine in progress (R207, R208): the stores it waits for, the cycle its walk begins once that is known,
how many lines the walk has visited, and the cycle after the last marked fill landed. -/
structure RangeOp where
  op : Nat
  base : Nat
  len : Nat
  start : Nat
  stores : List Nat
  walkAt : Option Nat
  pos : Nat
  fillEnd : Nat
deriving DecidableEq, Repr, Inhabited

/-- A folio (R111): element storage and exponent strip as sparse tables of bytes that read 0 where unlisted, the landing
cycles of both (R121, R132), and the times in which it is busy (R127): operation, first cycle, first cycle after. -/
structure Folio where
  fcfg : W32
  data : List (Nat × Byte)
  strip : List (Nat × Byte)
  inUse : Bool
  stripValid : Bool
  landD : Land
  landS : Land
  busy : List (Nat × Nat × Nat)
  /-- 32-bit words with a parity error: of the element storage by their number, of the strip from 4096 on (R195) -/
  perr : List Nat
deriving DecidableEq, Repr, Inhabited

/-- An accumulator bank: cell (r, j) stands at 64 × r + j; `mode` is 0 A40, 1 A40X, 2 strict (R42, R128). `ardLast` is the
cycle in which its latest read-out reads the last row (R138), `dieAt` the cycle after which it is no longer live (R137). -/
structure Bank where
  live : Bool
  dieAt : Option Nat
  mode : Nat
  cells : List (Nat × Nat)
  land : Land
  ardLast : Nat
  /-- the first cycle after an FSAVE of it (R149) -/
  busy : Nat
  /-- cells with a parity error (R195) -/
  perr : List Nat
deriving DecidableEq, Repr, Inhabited

/-- A folio load in flight (R121). -/
structure FolioLoad where
  id : Nat
  pc : Nat
  f : Nat
  exps : Bool
  conv : Nat
  tr : Bool
  base : Nat
  pitch : Nat
  land : Nat
deriving DecidableEq, Repr, Inhabited

/-- An array operation in flight (R131, R135): its word, the cycle it counts from, the entry of a sequence, its operands as the
prologue delivers them (R159), the array mode, its prologue stages Q (R160), the first slice it takes (R146), whether it
initialises its banks (R130), and the cycle its result lands. Slice k enters the cells (k − from) × rate cycles after slice
`from`. -/
structure ArrOp where
  id : Nat
  word : W32
  start : Nat
  pc : Nat
  entry : Option Nat
  fa : Folio
  fb : Folio
  fb2 : Folio
  mode : Nat
  q : Nat
  from_ : Nat
  init : Bool
  land : Nat
deriving DecidableEq, Repr, Inhabited

/-- A sequence in progress (R139): the launching word, the next entry, the last one, the cycle at which the next begins. -/
structure SeqRun where
  word : W32
  pc : Nat
  next : Nat
  last : Nat
  at_ : Nat
deriving DecidableEq, Repr, Inhabited

/-- The MMA part of an MMAC that has not begun (R178), with its occupancy and the mode its checks found at the issue. -/
structure MmacPart where
  id : Nat
  word : W32
  pc : Nat
  at_ : Nat
  occ : Nat
  mode : Nat
deriving DecidableEq, Repr, Inhabited

/-- What a row or a slice does as it passes a stage of a chain, in cycle `cyc`: a line of a state folio written (R182), bits of
CORE_CHNSTAT (R159, R185) and of CORE_FPSTAT (R73) set. -/
structure RowEff where
  id : Nat
  cyc : Nat
  upd : Option (Nat × Nat × List Byte)
  chn : Nat
  fp : Nat
deriving DecidableEq, Repr, Inhabited

/-- An FRSTR whose state has not landed: its operation, the save area, the header that it read, the cycle of landing (R151). -/
structure Restore where
  id : Nat
  pc : Nat
  addr : Nat
  header : List Byte
  land : Nat
deriving DecidableEq, Repr, Inhabited

/-- A prologue stage word (R157). -/
structure ProStage where
  op : Nat
  opd : Bool
  sf : Nat
  bc : Bool
  line : Nat
  arg : Nat
  raw : Nat
deriving DecidableEq, Repr, Inhabited

/-- What draws lines of folios: a read-out of a bank as it stood at the issue, with its descriptor and destination folio, or an operation
with the stages of its prologue. -/
inductive RunWhat where
  | out (bank : Nat) (b : Bank) (d : List Byte) (dest : Option Nat)
  | op (o : ArrOp) (ss : List ProStage)
deriving DecidableEq, Repr, Inhabited

/-- A chain whose stages draw lines of stream folios, to cycle `stop`: the folios as they stood at its issue in cycle `cyc`, and what rows
and landings write into them from then on (R159, R162, R182). -/
structure ChainRun where
  id : Nat
  pc : Nat
  cyc : Nat
  stop : Nat
  folios : Vector Folio 8
  rows : List RowEff
  what : RunWhat
deriving DecidableEq, Repr, Inhabited

/-- CORE_ASTAT.STATE (R152). -/
inductive AState where
  | idle
  | run
  | halting
  | scrub
  | stalled
deriving DecidableEq, Repr, Inhabited

/-- A send in flight (R175–R177). `lines` are its writes still to be acknowledged. -/
structure SendOp where
  id : Nat
  pc : Nat
  first : Nat
  last : Nat
  far : Bool
  fc : Nat
  gaddr : Nat
  dsemEn : Bool
  lsemEn : Bool
  dsem : Nat
  lsem : Nat
  reg : Nat
  /-- writes not yet handed to the port: cycle, global address, bytes -/
  beats : List (Nat × Nat × List Byte)
  /-- writes handed over and not acknowledged -/
  flying : Nat
deriving DecidableEq, Repr, Inhabited

/-- A chain slot (R153): its descriptor, when it landed, the operations that hold it with the first cycle at which each no longer does
(R156), whether it has a parity error (R195). -/
structure ChainSlot where
  full : Bool
  desc : List Byte
  land : Land
  held : List (Nat × Nat)
  perr : Bool
deriving DecidableEq, Repr, Inhabited

/-- An interval in which a heavy unit is charged, with the instruction that raised the charge (R269, R272). -/
structure Charge where
  first : Nat
  last : Nat
  mode : Nat
  pc : Nat
deriving DecidableEq, Repr, Inhabited

/-- A compute core (spec/03–spec/06). -/
structure Core where
  st : UState
  inTrap : Bool
  lastClass : Nat
  pc : Nat
  /-- the earliest cycle at which the next instruction issues when it issues alone (R84) -/
  next : Nat
  /-- the slot-0 instruction that issued last, its cycle and its word, while its partner has not issued (R81) -/
  slot0 : Option (Nat × W32)
  /-- the cycle before which an IDLE lets nothing issue, while it counts (R84) -/
  idle : Option Nat
  /-- a core that a fault or a STOP has stopped still issues the instructions of cycles up to this one (R106, R108) -/
  grace : Option Nat
  /-- HALT has issued and the core drains (R109) -/
  halting : Bool
  anchor : Nat
  g : Vector W64 32
  v : Vector VReg 32
  p : Vector W64 8
  sb : List (Nat × Land)
  divFree : Nat
  vdivFree : Nat
  /-- the latest cycle in which an operation set CORE_FPSTAT flags, and those flags (R75) -/
  fpSet : Nat × Nat
  /-- the same of CORE_CHNSTAT (R187) -/
  chnSet : Nat × Nat
  rdPort : Nat
  wrPort : List (Nat × Nat)
  wait : Option SemWait
  loads : List LoadOp
  stores : List StoreOp
  icode : List (Nat × Byte)
  ibad : List Nat
  /-- words of the instruction cache with an error that a fetch corrects (R195) -/
  isoft : List Nat
  dlines : List (Nat × Option DLine)
  dclock : Nat
  streams : List PfStream
  range : Option RangeOp
  folios : Vector Folio 8
  banks : Vector Bank 2
  floads : List FolioLoad
  restore : Option Restore
  ops : List ArrOp
  rows : List RowEff
  runs : List ChainRun
  seq : Option SeqRun
  mmacs : List MmacPart
  ast : AState
  arrFree : Nat
  ardFree : Nat
  scrubEnd : Nat
  /-- the skew register whose parity failed last (R144) -/
  skewIdx : Nat
  /-- the first slice not taken and the cycle of a halt under way (R143) -/
  halt : Option (Nat × Nat)
  slots : Vector ChainSlot 4
  sends : List SendOp
  charges : List Charge
deriving DecidableEq, Repr, Inhabited

/-! ### Clocks (spec/01, spec/08) -/

/-- The clock tree's state behind CLK_STAT: lock, slow-exact mode, the mode changes requested, oldest first (target, and the frame at
which it takes effect), TEMERG and the frames it has been low in slow-exact mode (R24, R284). -/
structure Clocks where
  lock : Bool
  slow : Bool
  changes : List (Bool × Nat)
  slowCount : Nat
  temerg : Bool
  lowFrames : Nat
deriving DecidableEq, Repr, Inhabited

/-- The remap rebuild (R248–R252): rows still to copy, rows copied, rows written since, as 2^15 × group + row; the scrub
pointer of each group (R225); when the shadow copy ends. -/
structure Migration where
  busy : Bool
  swapped : Bool
  todo : List Nat
  copied : List Nat
  dirty : List Nat
  scrub : List (Nat × Nat)
  copyEnd : Option Nat
  cool : Bool
deriving DecidableEq, Repr, Inhabited

/-- The schedule hold (R279–R283): the frame of a parity error that waits for the next boundary, HELD, PEND, the shift in frames, parity errors of
the phase, and the core whose array halted with the cycle of the launch that would bring slice FSTART.SLICE into the cells at its
original time (R146, R280). -/
structure Hold where
  due : Option Nat
  held : Bool
  pend : Bool
  delta : Nat
  errors : Nat
  par : Option (Nat × Nat)
deriving DecidableEq, Repr, Inhabited

/-- One entry of the handoff table (R273): first line, lines, producer, consumer, REF and LAND. -/
structure Handoff where
  line : Nat
  lines : Nat
  prod : Nat
  cons : Nat
  ref : Nat
  land : Nat
deriving DecidableEq, Repr, Inhabited

/-! ### Carrel engines (spec/07) -/

/-- A carrel command issued and not complete: its record and offset, T0, E and its last completion in BCLK counted from
TIM_FRAME = 0 (R231, R232), whether it has read its operands, whether its list was still to land at its issue, so that its entries are
judged as they come, and the cycle of a beat it does not perform, with the syndrome of the fault that this is (R219). -/
structure CarOp where
  id : Nat
  pc : Nat
  cmd : CarRec
  t0 : Nat
  e : Nat
  done : Nat
  started : Bool
  open_ : Bool
  lost : Option (Nat × Nat)
deriving DecidableEq, Repr, Inhabited

/-- A carrel engine (R229–R238): `last` is the BCLK from which the next DELTA counts, `lands` the scratch ranges still to land with
their BCLK in both checker copies (R233, R276), `charges` what the meter charges (R236). -/
structure Car where
  st : UState
  lastClass : Nat
  pc : Nat
  last : Nat
  ended : Bool
  wait : Option SemWait
  ops : List CarOp
  lands : List (Nat × Nat × Land)
  charges : List Charge
deriving DecidableEq, Repr, Inhabited

/-! ### Transfer engines (spec/09) -/

/-- A descriptor held by a channel (R297, R298): its copy, the record's address, when the copy landed, whether it came through the
registers, and the cycles a hold has moved it (R313). -/
structure Desc where
  bytes : List Byte
  addr : Nat
  landed : Nat
  viaReg : Bool
  shift : Nat
  /-- the first address at which an uncorrectable word met the copying of the record (R195) -/
  bad : Option Nat
deriving DecidableEq, Repr, Inhabited

/-- A descriptor in flight (R299–R309): its start, whether it is paced, K of an exact one (R303); of a paced one the beats read and
written (or handed over) so far, the bytes between, the cycle since which it waits for a slot; a status not yet reported; and
whether its data is acknowledged (1: DSEM is on its way). -/
structure Flight where
  id : Nat
  d : Desc
  start : Nat
  paced : Bool
  done : Nat
  rd : Nat
  wr : Nat
  buf : List Byte
  since : Nat
  warned : Bool
  status : Nat
  fail : Nat
  syn : Nat
  phase : Nat
  /-- the frame of the slot that a status SCHED_SLOT_CONFLICT is about -/
  slotFrame : Nat
deriving DecidableEq, Repr, Inhabited

/-- A transfer channel (R297–R317). `ref` is the start of its previous descriptor and whether that one was paced; `anchor` is set
by the take of the descriptor at its head. -/
structure TeCh where
  st : UState
  held : List Desc
  flights : List Flight
  wait : Option SemWait
  anchor : Option Nat
  headAt : Nat
  last : Option (Nat × Bool)
deriving DecidableEq, Repr, Inhabited

/-- One access of a background or ingress request, within one line of LM, CSM, scratch or TCM or one 256-byte unit of BM: a read, a
write of given bytes, or a write of `k` bytes that the request read, from place `off` on. -/
inductive BgAcc where
  | rd (a k : Nat)
  | wr (a : Nat) (l : List Byte)
  | cp (a k off : Nat)
deriving DecidableEq, Repr, Inhabited

/-- Whose request it is: a mesh transaction, a far packet held in its buffer, an instruction of KC (and which of its accesses), a save or
restore of the semaphore block, a page-in, a prefetch of a core, IPRELOAD of a core, the recorder (R17, R18); of firmware and the queue engine:
a posted write, with the register that counts it once it is written (0 for none), the completion record of a queue, the fetch of its head
command and of that command's phase list, and the fetch of a phase's entry and of its tables. -/
inductive BgWhat where
  | mesh (p : Nat) (fl : List Flit)
  | far (c : Nat) (header payload : List Byte) (buffer : Nat)
  | kc (stage : Nat)
  | sem
  | page (q : Nat)
  | prefetch (n line : Nat)
  | code (n : Nat)
  | ring
  | post (n reg : Nat)
  | cqe (q : Nat)
  | cmd (q : Nat)
  | list (q : Nat)
  | phase (k : Nat)
  | tables (k : Nat)
deriving DecidableEq, Repr, Inhabited

/-- A background or ingress request (R17, R18, R264): `rank` orders requests of one slot, 0 for the recorder, else the unit number plus 1;
`todo` are the accesses still to be served, in order; `got` what its reads returned; `bad` the first address that failed, `bads` the words
that its reads found uncorrectable. -/
structure BgReq where
  rank : Nat
  unit : Nat
  todo : List BgAcc
  got : List Byte
  bad : Option Nat
  bads : List Nat
  since : Nat
  warned : Bool
  what : BgWhat
  /-- the class that answers it instead of performing it, 0 for none (R399) -/
  ans : Nat
deriving DecidableEq, Repr, Inhabited

/-! ### Semaphores and barriers (spec/10) -/

/-- A signal that has not become takeable by every unit (R324): the cycle it is added, and the cycles at which the signalling core
itself, cores, carrels and transfer channels can take it, and, once it is added, the amount that was. -/
structure Signal where
  sem : Nat
  count : Nat
  unit : Nat
  ch : Nat
  addr : Nat
  add : Nat
  own : Nat
  core : Nat
  car : Nat
  chan : Nat
  added : Option Nat
  /-- the context whose release it is (R327) -/
  rel : Option Nat
deriving DecidableEq, Repr, Inhabited

/-- An arrival at a barrier context that counts at cycle `cyc` (R326). -/
structure Arrival where
  k : Nat
  cyc : Nat
  unit : Nat
  pc : Nat
deriving DecidableEq, Repr, Inhabited

/-- The counts and flags of BAR_STAT (R339), and the hubs that sent an up-arrival in this generation. -/
structure Barrier where
  gen : Nat
  broken : Bool
  waitup : Bool
  upcnt : Nat
  next : Nat
  cnt : Nat
  ups : List UpFrom
deriving DecidableEq, Repr, Inhabited

/-- The semaphore and barrier block: stored values (0 where unlisted), signals on their way, contexts, the end of a save or
restore, and the cycle the block has come to: everything of it is added, and the takes of the cycles before it are served (R325). -/
structure Sync where
  vals : List (Nat × Nat)
  signals : List Signal
  bars : Vector Barrier 64
  arrivals : List Arrival
  /-- messages of the hub to SCH that wait for its mailbox: type and context (R424) -/
  schq : List (Nat × Nat)
  /-- a save or restore in progress: its address and, for a save, the record that is on its way to memory (R335) -/
  xfer : Option (Bool × Nat × List Byte)
  time : Nat
deriving DecidableEq, Repr, Inhabited

/-! ### Ports (spec/12) -/

/-- Whose transaction it is. -/
inductive TxOwner where
  | send (core id : Nat)
  | desc (te ch id : Nat)
  | bar (k : Nat)
  | kc (id : Nat)
  | answer
deriving DecidableEq, Repr, Inhabited

/-- A transaction handed to a port and not ended (R305, R369): its flit TYPE (or LFC packet type), its cycle of hand-over, whether
the queue of its phase, whether its flits have left, and whether it was recorded late (R268). -/
structure Txn where
  txid : Nat
  owner : TxOwner
  kind : Nat
  unit : Nat
  far : Bool
  fc : Nat
  dst : Nat
  addr : Nat
  bytes : List Byte
  len : Nat
  host : Bool
  slotted : Bool
  handed : Nat
  q : QSrc
  pc : Nat
  sent : Bool
  late : Bool
deriving DecidableEq, Repr, Inhabited

/-- A mesh port: credits held toward its partner in the SLOT pool and the other pool (R371); flits received and not yet returned
as credit; intervals without a message stand in MSH_PORT_STAT. At the low rate a transaction's flits leave one by one: `rest` are those of
the transaction under way that have not left (R369, R395). -/
structure MeshPort where
  credSlot : Nat
  credOther : Nat
  heard : Bool
  /-- the frame of the calendar slot that departs now, and the flits it has taken (R266) -/
  slotAt : Nat
  slotUsed : Nat
  rest : List Flit
deriving DecidableEq, Repr, Inhabited

/-- A packet of a far channel as its sender keeps it (R383, R391): its number once sent, how often sent, the frame it was last
sent. -/
structure FarPkt where
  seq : Nat
  typ : Nat
  host : Bool
  txid : Nat
  dst : Nat
  addr : Nat
  inl : List Byte
  bytes : List Byte
  sends : Nat
  frame : Nat
deriving DecidableEq, Repr, Inhabited

/-- A far channel (R383–R393): kept packets, packets that wait for credit or the port, the numbers of kept packets to send again and the
types of unsequenced packets that wait for the port, buffers granted to the partner and not used, grants not yet told, the cycles it last
sent and heard, the last NAK, the frame an acceptance must be acknowledged by. -/
structure FarCh where
  kept : List FarPkt
  waitq : List FarPkt
  again : List Nat
  plain : List Nat
  granted : Nat
  tell : Nat
  lastSent : Nat
  lastHeard : Nat
  nak : Option (Nat × Nat)
  ackDue : Option Nat
deriving DecidableEq, Repr, Inhabited

/-- A far port (R383, R395): the channel it served last, and the first half cycle (of CCLK) in which it can send another packet. -/
structure FarPort where
  turn : Nat
  free : Nat
deriving DecidableEq, Repr, Inhabited

/-- The ports and the fencing of the cluster (spec/12). -/
structure Net where
  ports : Vector MeshPort 4
  txns : List Txn
  chans : Vector FarCh 32
  /-- channels waiting for a buffer, first in, first out (R390) -/
  poolq : List Nat
  /-- a POOL_EMPTY record was written since a buffer was last free -/
  poolDry : Bool
  /-- die-table entries in FENCED (R400) -/
  dieFenced : List Nat
  linkup : Vector Bool 2
  /-- FENCE was sent: every transaction received is answered PEER_FENCED (R399) -/
  fenced : Bool
  farPorts : Vector FarPort 2
  /-- the receive pool was laid out, by a write or by a channel that left DOWN: FAR_POOL_STAT.FREE reads 0 before (R405) -/
  pool : Bool
deriving DecidableEq, Repr, Inhabited

/-! ### The control core (spec/13) -/

/-- The control core (R406–R420): released from reset (and not halted under R415), halted, waiting in WFI, its pc; the shared
registers, the locals and the outs of ring windows (8 × window + i; the ins of window n are the outs of n − 1), the trap
window's locals, ins and outs; a watchdog period ended without a kick (R432); a micro-routine is under way at pc (R418). CUR, OCC and the trap state stand in KCP_WIN and
KCP_TSTAT. -/
structure Kc where
  on : Bool
  halted : Bool
  wfi : Bool
  pc : Nat
  s : Vector W64 8
  loc : Vector W64 64
  outs : Vector W64 64
  trap : Vector W64 24
  missed : Bool
  micro : Bool
deriving DecidableEq, Repr, Inhabited

/-! ### Queues and firmware (spec/11, spec/13) -/

/-- An entry of the residency table (R342): queue, its 512-byte context, and when a command of it was last admitted. -/
structure Res where
  qid : Nat
  ctx : List Byte
  used : Nat
deriving DecidableEq, Repr, Inhabited

/-- A page-in (R343): the queue, its context, its victim, and how far it has come: 0 while the contexts and the victim's record move, 1 while
its own record is restored, 2 when it only waits for the boundary at which it enters the table. -/
structure PageIn where
  qid : Nat
  ctx : List Byte
  victim : Option Nat
  stage : Nat
deriving DecidableEq, Repr, Inhabited

/-- A decided command whose completion record is not written: its place, its record, for a RUN the allowance of each phase, the phases run
so far, the end of its allowance, and what its completion record will say (R347–R355). `at_` is the frame after whose first boundary an
administrative command takes effect. -/
structure Cmd where
  qid : Nat
  cid : Nat
  idx : Nat
  typ : Nat
  body : List Byte
  nphase : Nat
  allows : List Nat
  next : Nat
  allow : Nat
  promise : Nat
  holdx : Nat
  status : Nat
  reason : Nat
  refused : Bool
  fin : Bool
  hold : Bool
  late : Bool
  wall : Bool
  at_ : Nat
deriving DecidableEq, Repr, Inhabited

/-- The phase that firmware has prepared or that runs: its command, its boundary and LEN, the cores and carrels it starts, the
channels with pre-enqueued descriptors, whether the boundary was accepted, whether LEN was checked, and whether it was stopped
(R427–R429, R259, R260). -/
structure Phase where
  qid : Nat
  cid : Nat
  /-- its command's place in the submission ring -/
  idx : Nat
  start : Nat
  len : Nat
  cores : Nat
  cars : Nat
  chans : List Nat
  keep : Bool
  running : Bool
  checked : Bool
  stopped : Bool
deriving DecidableEq, Repr, Inhabited

/-- What firmware and the queue engine keep besides registers and memory: residency and the page-ins that wait (R342–R344), the created
queues, the admission round (R349), the
commitment calendar and its end (R351), the phase, heartbeat monitoring (R362), the handover record's fields (R363), the power
loop's inputs (R430), epochs held (R425), the first READY (R402), messages that wait for a mailbox (R423): mailbox, type, words; the
rows that wait to be retired (R487), as group and row; and the ledger entries of points passed before firmware placed the ledger (R438, R439); and the
phase whose code is being preloaded (R427).
`hbClock` counts frames, a slow-exact one twice. -/
structure Fw where
  res : List Res
  inc : List PageIn
  pwait : List Nat
  made : List Nat
  clock : Nat
  round : List Nat
  last : Nat
  cmds : List Cmd
  calEnd : Nat
  phase : Option Phase
  attached : Option Nat
  lastInst : Nat
  hbSeq : Nat
  hbClock : Nat
  hbAt : Nat
  orphan : Bool
  hseq : Nat
  orphanFrame : Nat
  readyFrame : Nat
  ready : Bool
  detach : Bool
  lastDone : Nat
  budget : Option Nat
  budgetAt : Nat
  temp : Option Int
  tempAt : Nat
  tokens : Nat
  safe : Bool
  epochNum : Nat
  epochTo : Nat
  firstReady : Bool
  slotVersion : Nat
  mailq : List (Nat × Nat × List Nat)
  retire : List (Nat × Nat)
  owed : List (List Byte)
  loading : Option Nat
deriving DecidableEq, Repr, Inhabited

/-! ### Start-up, resets, power and test (spec/14, spec/17) -/

/-- Start-up, reset and power state: the level of PORST_N and REFCLK edges' sampling of straps, the frame-independent cycle of
PLL lock, check bits valid (R522), a warm reset that drains with its cycle (R210), per-core resets under way with theirs (R468), a power request
with its target (R472), an exit under way with its frame, a warm reset or a fence held until it (R466); the state before
ARCHIVING and the trigger's record (R496); BM_PWRFAIL; CAT_REQ. -/
structure Boot where
  porst : Bool
  sampled : Bool
  lockAt : Nat
  checkbits : Bool
  drain : Option Nat
  coreReq : List (Nat × Nat)
  pwrReq : Option Nat
  exitReq : Option Nat
  warmAfter : Bool
  before : Nat
  trigger : List Byte
  arcWidx : Nat
  pwrfail : Bool
  catReq : Bool
  catGnt : Bool
deriving DecidableEq, Repr, Inhabited

/-- The test ports (R518–R521): TAP and wrapper instruction registers, the data register that the instruction selects, the
boundary register, bytes 0x00–0x3F of the self-test record, TEST_MFR, and whether the macro was isolated since the cold
reset. -/
structure Tap where
  ir : Nat
  wir : Nat
  dr : Nat
  boundary : Nat
  bist : List Byte
  mfr : Nat
  isolated : Bool
deriving DecidableEq, Repr, Inhabited

/-! ### The whole hardware -/

/-- Everything the cluster holds, apart from the queue of waiting commands. -/
structure Hw where
  /-- TIM_FRAME (R22) -/
  frame : Nat
  /-- the CCLK cycle the latest command reached, counted from TIM_FRAME = 0: 6 cycles a frame (R3) -/
  now : Nat
  /-- how many free values were drawn -/
  free : Nat
  /-- the number of the next operation -/
  nid : Nat
  regs : List (Nat × W32)
  rlatch : List (Nat × Option W32)
  wlatch : List (Nat × Option W32)
  mem : List (Nat × Byte)
  /-- protected words with an uncorrectable error, and with a correctable one, by their first key (R195) -/
  bad : List Nat
  soft : List Nat
  beats : List Beat
  got : List Got
  rcd : Recorder
  clk : Clocks
  /-- the cores that the catalogue enables (R13, R14) -/
  coreEn : Nat
  /-- the two TCM slots are exchanged (R435) -/
  tcmSwap : Bool
  /-- active and shadow row-remap tables, entry e of group g at 1024 × g + e (R248) -/
  active : List (Nat × W32)
  shadow : List (Nat × W32)
  bmc : Migration
  hold : Hold
  /-- the handoff table of the running phase (R273) -/
  handoff : List Handoff
  /-- checker ports with a disabled copy: port and 0 for A, 1 for B (R276) -/
  chkOff : List (Nat × Nat)
  /-- checker ports where a read is late if either copy finds it so (R276) -/
  chkBoth : List Nat
  /-- errors in a checker's copy of what it knows of resident code or handoffs: port, copy, and whether its parity fails (R276) -/
  chkErr : List (Nat × Nat × Bool)
  cores : Vector Core 8
  cars : Vector Car 64
  /-- channel c of engine te at 4 × te + c -/
  tes : Vector TeCh 64
  /-- the cycle of the latest decrements of TEN_CH_CNT.COUNT: channel, its TEN_IRQ bit before, and whether COUNT reached 0 (R311) -/
  tenDone : Nat × List (Nat × Bool × Bool)
  bg : List BgReq
  sync : Sync
  net : Net
  kc : Kc
  fw : Fw
  boot : Boot
  tap : Tap
  /-- the frame of the last TOKEN_OVERRUN, plus 1: at most one is raised in a frame (R271) -/
  tok : Nat
  /-- what the current command sent out on the pins -/
  out : List Emit
deriving DecidableEq, Repr, Inhabited

end Sys2Proof.Machine
end

