-- ==== Sys2Proof/Config.lean ====
section
/-!
DEFINITION. What the spec leaves open: free values, as constants with no body, so that no proof can see what they are. Each is
named in the assumption log.
-/
namespace Sys2Proof.Machine

/-- Contents that a reset leaves undefined, as (key, byte) pairs (R152, R464, R522); log entry 3. -/
opaque Config.freeBytes : Nat → List (Nat × Byte)

/-- Contents of an accumulator bank after a reset of its core, as (cell, value) pairs (R152); log entry 3. -/
opaque Config.freeCells : Nat → List (Nat × Nat)

/-- An undefined word; log entry 3. -/
opaque Config.freeNat : Nat → Nat

/-- The error-code syndrome that a record of an uncorrectable word carries, by the word's key (R196); log entry 5. -/
opaque Config.eccSyndrome : Nat → Nat

/-- The number of a checker port in TIM_CHK_STAT.PORT, for a unit and a kind of port (R276); log entry 4. -/
opaque Config.checkerPort : Nat → Nat → Nat

/-- Whether a carrel lane computes a × x + y with one rounding or with two (spec/07, AXPY and SCALE); log entry 9. -/
opaque Config.carrelFused : Bool

/-- The state of the cluster after its terminals were isolated, which is not defined until a cold reset (R520); log entry 15. -/
opaque Config.freeHw : Nat → Hw

/-- The firmware's own list of registers for the archive, as offsets (R496); log entry 16. -/
opaque Config.archiveRegs : Nat → List Nat

end Sys2Proof.Machine
end

