-- ==== Sys2Proof/Machine/Ops.lean ====
section
/-!
DEFINITION. The named operations that the meanings share: time, vectors of units, stored registers, fault records (R478–
R481), the address map (R188–R192), memory bytes with their protection (R195–R197), bank beats (R16, R193, R217–R219, R227),
and checkers (R273, R276).
-/
namespace Sys2Proof.Machine

/-! ### Time -/

/-- The cycle a command takes place in: never before an earlier command's. -/
def Hw.at (hw : Hw) (t : Nat) : Hw := { hw with now := max hw.now t }

/-- Do `f` as of cycle `t`, which is not after the present one; time does not go back. -/
def Hw.asOf (t : Nat) (f : Hw → Hw) (hw : Hw) : Hw :=
  let h := f { hw with now := min hw.now t }
  { h with now := max hw.now h.now }

/-- The frame of a cycle: a frame is 6 CCLK (R3). -/
def frameOf (cyc : Nat) : Nat := cyc / 6

/-- The first BCLK edge at or after a cycle: BCLK edges fall at even CCLK (spec/08, "Travel times"). -/
def bclkAt (cyc : Nat) : Nat := cyc + cyc % 2

/-- The first frame boundary at or after a cycle. -/
def frameAt (cyc : Nat) : Nat := (cyc + 5) / 6

/-- The next free value's number. -/
def Hw.draw (hw : Hw) : Hw := { hw with free := hw.free + 1 }

/-- A fresh operation number. -/
def Hw.newId (hw : Hw) : Hw := { hw with nid := hw.nid + 1 }

/-! ### Cores -/

/-- Core `n`. -/
def Hw.core (hw : Hw) (n : Fin 8) : Core := hw.cores.get n

/-- Change core `n`. -/
def Hw.setCore (hw : Hw) (n : Fin 8) (c : Core) : Hw := { hw with cores := hw.cores.set n c }

def Hw.modCore (hw : Hw) (n : Fin 8) (f : Core → Core) : Hw := hw.setCore n (f (hw.core n))

/-! ### Stored registers (R12, R499) -/

/-- The reset value of a stored register by its offset from 0x040_0000_0000; 0 where not listed (spec/16). -/
def regReset (off : Nat) : W32 :=
  if off = 0x000000 then 0xC864B080#32
  else if off = 0x000004 then 1#32
  else if off = 0xD00000 then 0x10#32
  else if 0x700000 ≤ off ∧ off < 0x700010 ∧ off % 4 = 0 then 0x04000000#32
  else if off = 0x500040 then 1#32
  else if off = 0x700010 then 1#32
  else if off = 0xB00310 then 0x10000000#32
  else if off = 0xD00080 then 0x3D1#32
  else if off = 0x801008 then 0x10#32
  else if 0x800000 ≤ off ∧ off < 0x800800 then
    (if off % 0x40 = 0x0C then 0x00030340#32 else if off % 0x40 = 0x10 then 0xE00#32 else if off % 0x40 = 0x14 then 4#32 else 0#32)
  else 0#32

def Hw.reg (hw : Hw) (off : Nat) : W32 := tabGet regReset hw.regs off

def Hw.setReg (off : Nat) (v : W32) (hw : Hw) : Hw := { hw with regs := tabPut regReset off v hw.regs }

/-- A register pair, low word first (R7). -/
def Hw.reg64 (hw : Hw) (off : Nat) : Nat := (hw.reg off).toNat + 2 ^ 32 * (hw.reg (off + 4)).toNat

def Hw.setReg64 (off n : Nat) (hw : Hw) : Hw :=
  (hw.setReg off (BitVec.ofNat 32 n)).setReg (off + 4) (BitVec.ofNat 32 (n / 2 ^ 32))

/-- Bits of a stored register. -/
def Hw.fld (hw : Hw) (off lo w : Nat) : Nat := fieldOf (hw.reg off) lo w

/-- Replace bits of a stored register. -/
def Hw.setFld (off lo w x : Nat) (hw : Hw) : Hw := hw.setReg off (setField (hw.reg off) lo w x)

/-- Set bits of a stored register. -/
def Hw.orReg (off : Nat) (m : Nat) (hw : Hw) : Hw := hw.setReg off (hw.reg off ||| BitVec.ofNat 32 m)

/-- Clear bits of a stored register. -/
def Hw.clrReg (off : Nat) (m : Nat) (hw : Hw) : Hw := hw.setReg off (hw.reg off &&& ~~~(BitVec.ofNat 32 m))

/-- Add one to a saturating field. -/
def Hw.bump (off lo w : Nat) (hw : Hw) : Hw := hw.setFld off lo w (satInc (hw.fld off lo w) (2 ^ w - 1))

/-- Offset of a register of core `n`'s block (spec/16). -/
def coreReg (n : Fin 8) (o : Nat) : Nat := 0x1000000 + n.val * 0x100000 + o

/-! ### Fault records (R478–R481) -/

def FLT_STAT : Nat := 0xB00000
def FLT_WIDX : Nat := 0xB00004
def FLT_QID : Nat := 0xB0000C

/-- The units and classes whose records carry the phase's queue: cores, transfer and carrel engines, the meter, the checkers
(R479). -/
def phaseUnit (r : FaultRec) : Bool :=
  decide (r.unit < 0x18 ∨ (0x40 ≤ r.unit ∧ r.unit < 0x80) ∨ r.cls = 0x12 ∨ r.cls = 0x13)

/-- The QUEUE word of a record (R479). -/
def queueWord (hw : Hw) (r : FaultRec) : Nat :=
  match r.q with
  | .none => 0
  | .word w => w % 2 ^ 32
  | .queue k => k % 2 ^ 14 + 2 ^ 14
  | .phase => if hw.rcd.phaseSeen then hw.fld FLT_QID 0 14 + 2 ^ 14 else 0
  | .auto => if hw.rcd.phaseSeen && phaseUnit r then hw.fld FLT_QID 0 14 + 2 ^ 14 else 0

/-- The phase's queue at present, to keep with what outlives the phase. -/
def queueNow (hw : Hw) : QSrc := if hw.rcd.phaseSeen then .queue (hw.fld FLT_QID 0 14) else .none

/-- The order of records of one cycle: ascending UNIT, then CH, then SYNDROME (R480). -/
def recKey (r : FaultRec) : Nat := (r.unit * 4 + r.ch) * 2 ^ 32 + r.syn

/-- The place of a new record: behind every record of an earlier cycle and every record of its cycle that R480 orders first. -/
def recPlace (now : Nat) (r : FaultRec) (q : List QueuedRec) : Nat :=
  (q.filter (fun e => decide (e.cyc < now ∨ (e.cyc = now ∧ recKey e.fr ≤ recKey r)))).length

/-- The entries of the queue that a record's severity may use (R481). -/
def recRoom (r : FaultRec) : Nat := if r.sev ≥ 2 then 64 else 56

/-- Whether the queue can accept a record (R481, R484). -/
def canAccept (hw : Hw) (r : FaultRec) : Bool := decide (recPlace hw.now r hw.rcd.queue < recRoom r)

/-- The entries still within their room, counted from place `i`; the others are dropped, and the next accepted one tells how many were
dropped before it, `k` before the first (R481). With them the number dropped after the last. -/
def fitQueue : Nat → Nat → List QueuedRec → List QueuedRec × Nat
  | _, k, [] => ([], k)
  | i, k, e :: l =>
    if i < recRoom e.fr then
      let r := fitQueue (i + 1) 0 l
      ({ e with dropped := e.dropped + k } :: r.1, r.2)
    else fitQueue i (k + e.dropped + 1) l

/-- The queue with a record put at place `p`: it takes over the drops before the record that stood there, or those after the last. -/
def putRec (p : Nat) (e : QueuedRec) (lost : Nat) (q : List QueuedRec) : List QueuedRec × Nat :=
  match q.drop p with
  | [] => (q ++ [{ e with dropped := lost }], 0)
  | x :: l => (q.take p ++ { e with dropped := x.dropped } :: { x with dropped := 0 } :: l, lost)

/-- Raise a fault record: the recorder accepts it in the order of R480, or drops it and counts the loss (R481). -/
def raise (r : FaultRec) (hw : Hw) : Hw :=
  let q := putRec (recPlace hw.now r hw.rcd.queue) ⟨hw.now, hw.frame, queueWord hw r, 0, r⟩ hw.rcd.lost hw.rcd.queue
  let x := fitQueue 0 0 q.1
  let n := q.1.length - x.1.length
  let hw := { hw with rcd := { hw.rcd with queue := x.1, lost := q.2 + x.2 } }
  if n = 0 then hw else hw.setFld FLT_STAT 16 16 (min 0xFFFF (hw.fld FLT_STAT 16 16 + n))

/-- Raise a record that a core or a carrel engine itself may have caused: LAST_CLASS of CORE_STAT or CAR_STAT takes its class (R110,
R253). -/
def raiseBy (r : FaultRec) (hw : Hw) : Hw :=
  if h : r.unit < 8 then (raise r hw).modCore ⟨r.unit, h⟩ (fun c => { c with lastClass := r.cls })
  else if h : 0x40 ≤ r.unit ∧ r.unit - 0x40 < 64 then
    let hw1 := raise r hw
    { hw1 with cars := hw1.cars.set (r.unit - 0x40) { hw1.cars.get ⟨r.unit - 0x40, h.2⟩ with lastClass := r.cls } h.2 }
  else raise r hw

/-! Fault class codes (spec/15, "Fault classes") -/

def cFOLIO_SHAPE : Nat := 0x01
def cFOLIO_NOT_IN_USE : Nat := 0x02
def cARRAY_SKEW_PARITY : Nat := 0x03
def cPROG_WRITE_ACTIVE : Nat := 0x04
def cCHAIN_STREAMS : Nat := 0x05
def cILLEGAL_INSTR : Nat := 0x06
def cACCESS_ALIGN : Nat := 0x07
def cACCESS_RANGE : Nat := 0x08
def cSCHED_LATE : Nat := 0x10
def cSCHED_SLOT_CONFLICT : Nat := 0x11
def cTOKEN_OVERRUN : Nat := 0x12
def cCHECKER_DISAGREE : Nat := 0x13
def cSEM_SATURATE : Nat := 0x20
def cSEM_UNDERFLOW : Nat := 0x21
def cDEADLOCK : Nat := 0x22
def cBARRIER_OVERFLOW : Nat := 0x23
def cBM_UNCORRECTABLE : Nat := 0x30
def cSRAM_UNCORRECTABLE : Nat := 0x31
def cBM_CORRECTED : Nat := 0x32
def cPEER_LOST : Nat := 0x40
def cLINK_LATE : Nat := 0x41
def cPEER_FENCED : Nat := 0x42
def cPOOL_EMPTY : Nat := 0x43
def cADMISSION_REFUSED : Nat := 0x50
def cQUEUE_EXHAUSTED : Nat := 0x51
def cWATCHDOG : Nat := 0x60
def cDOUBLE_TRAP : Nat := 0x61
def cHOST_ORPHAN : Nat := 0x62
def cCATALOGUE_CRC : Nat := 0x70
def cFIRMWARE_AUTH : Nat := 0x71

/-- A refusal "at the writer": a record of class ADMISSION_REFUSED, severity recoverable, at the writer's unit, with no other field filled
(R478, R485). -/
def refuse (unit : Nat) (hw : Hw) : Hw := raiseBy { cls := cADMISSION_REFUSED, sev := 1, unit := unit } hw

/-- A refusal with a reason in syndrome bits [23:16] (spec/08, "ADMISSION_REFUSED reasons"). -/
def refuseWhy (unit reason : Nat) (hw : Hw) : Hw :=
  raiseBy { cls := cADMISSION_REFUSED, sev := 1, unit := unit, q := .phase, exp := hw.frame, act := hw.frame, syn := reason * 0x10000 } hw

/-- The power state is ACTIVE: units may be armed and descriptors enqueued (R471). -/
def awake (hw : Hw) : Bool := decide (hw.fld 0x200034 0 2 = 0)

/-- The present frame is that of an accepted phase boundary (R258). -/
def atBoundary (hw : Hw) : Bool := hw.rcd.phaseSeen && decide (hw.reg64 0x300010 = hw.frame)

/-! ### References (R318) -/

/-- A semaphore reference: KIND 0 and nothing above (R318). -/
def refSem (r : Nat) : Option Nat := if r < 4096 then some r else none

/-- A barrier reference: KIND 1 and a context of 0–63 (R318). -/
def refBar (r : Nat) : Option Nat := if r / 4096 = 1 ∧ r % 4096 < 64 then some (r % 4096) else none

def allocReg (i : Nat) : Nat := 0x500200 + 4 * (i / 32)
def satfReg (i : Nat) : Nat := 0x500400 + 4 * (i / 32)
def uffReg (i : Nat) : Nat := 0x500600 + 4 * (i / 32)

/-- A semaphore is allocated while its SEM_ALLOC bit is 1. -/
def semOn (hw : Hw) (i : Nat) : Bool := nbit (hw.reg (allocReg i)).toNat (i % 32)

/-! ### The address map (R188–R192) -/

/-- What lies at a cluster-local address. -/
inductive Region where
  | bm (g o : Nat)
  | csm
  | lm (n : Nat)
  | scratch (c : Nat)
  | tcm
  | regs (off : Nat)
  | unpopulated
deriving DecidableEq, Repr

/-- CLU_IDENT.BMLAYERS reads two layers (R1). -/
def twoLayers (hw : Hw) : Bool := decide (hw.fld 0 6 2 = 2)

/-- Bytes of a bank group. -/
def groupSize (hw : Hw) : Nat := if twoLayers hw then 0x3000000 else 0x1800000

/-- Core `n` is enabled by the catalogue (R14). -/
def coreOn (hw : Hw) (n : Nat) : Bool := nbit hw.coreEn n

/-- Decode a cluster-local address (R188, R191, R14). -/
def regionOf (hw : Hw) (a : Nat) : Region :=
  let hi := a / 2 ^ 32
  let lo := a % 2 ^ 32
  let gs := groupSize hw
  if hi = 0x00 then
    if lo < 64 * gs then .bm (nbits lo 12 6) ((lo / 2 ^ 18) * 4096 + lo % 4096) else .unpopulated
  else if hi = 0x10 then
    if lo < 64 * gs then .bm (lo / gs) (lo % gs) else .unpopulated
  else if hi = 0x20 then if lo < 0x4000000 then .csm else .unpopulated
  else if hi = 0x30 then
    if lo < 0x2000000 ∧ coreOn hw (lo / 0x400000) then .lm (lo / 0x400000) else .unpopulated
  else if hi = 0x38 then if lo < 0x1000000 then .scratch (lo / 0x40000) else .unpopulated
  else if hi = 0x3C then if lo < 0x40000 then .tcm else .unpopulated
  else if hi = 0x40 then
    let b := lo / 0x100000
    if b < 0x18 ∧ b ≠ 0x0F ∧ (b < 0x10 ∨ coreOn hw (b - 0x10)) then .regs lo else .unpopulated
  else .unpopulated

/-- Bank of a group offset (R191). -/
def bankOf (hw : Hw) (o : Nat) : Nat := if twoLayers hw then nbits o 11 4 else nbits o 11 3

/-- Row of a group offset: bits [25:11]. -/
def rowOf (o : Nat) : Nat := nbits o 11 15

/-- First offset of the reserved region of a group (R192). -/
def reservedFrom (hw : Hw) : Nat := groupSize hw - 0x100000

/-- The address of a BM byte in the interleaved view (R191). -/
def interleaved (g o : Nat) : Nat := ((o / 4096) * 64 + g) * 4096 + o % 4096

/-- The spare row that a remap table gives for a row of a group, if any (spec/07, "Remap table entry"). -/
def spareOf (tab : List (Nat × W32)) (g row : Nat) : Option Nat :=
  (tab.find? (fun e => decide (e.1 / 1024 = g) && nbit e.2.toNat 31 && decide (fieldOf e.2 16 15 = row))).map
    (fun e => fieldOf e.2 0 6)

/-- The storage key of a spare row's byte. -/
def spareKey (hw : Hw) (g o sp : Nat) : Nat := 0x80000000000 + ((g * 16 + bankOf hw o) * 64 + sp) * 2048 + o % 2048

/-- Where a row of a group is stored under a remap table. -/
def rowKey (hw : Hw) (tab : List (Nat × W32)) (g o : Nat) : Nat :=
  match spareOf tab g (rowOf o) with
  | some sp => spareKey hw g o sp
  | none => interleaved g o

/-- The storage key of an address: both BM views reach the same storage, and TCM slots may be exchanged (R191, R435). -/
def physOf (hw : Hw) (a : Nat) : Nat :=
  match regionOf hw a with
  | .bm g o => rowKey hw hw.active g o
  | .tcm => if hw.tcmSwap then (if nbit a 17 then a - 0x20000 else a + 0x20000) else a
  | _ => a

/-- What a byte that nothing has written reads as. -/
def memReset (_ : Nat) : Byte := 0

/-- Bytes of a protected word: 32 in BM, 8 in the SRAMs (R195). -/
def wordSize (key : Nat) : Nat := if key < 0x2000000000 ∨ 0x80000000000 ≤ key then 32 else 8

/-- The protected word a storage key lies in. -/
def wordOf (key : Nat) : Nat := key - key % wordSize key

/-- The byte at an address. -/
def Hw.byte (hw : Hw) (a : Nat) : Byte := tabGet memReset hw.mem (physOf hw a)

/-- `k` bytes from an address. -/
def Hw.bytes (hw : Hw) (a : Nat) : Nat → List Byte
  | 0 => []
  | k + 1 => hw.byte a :: hw.bytes (a + 1) k

/-- An uncorrectable error lies in the protected word of an address (R195). -/
def Hw.isBad (hw : Hw) (a : Nat) : Bool := decide (wordOf (physOf hw a) ∈ hw.bad)

/-- The first address of a range whose word is uncorrectable. -/
def badByte (hw : Hw) (a k : Nat) : Option Nat :=
  if hw.bad.isEmpty then none else ((List.range k).find? (fun i => hw.isBad (a + i))).map (fun i => a + i)

/-- Some byte of a range lies in an uncorrectable word. -/
def Hw.anyBad (hw : Hw) (a k : Nat) : Bool :=
  !hw.bad.isEmpty && (List.range k).any (fun i => hw.isBad (a + i))

/-- Whether a key's class of uncorrectable error is BM's (R195). -/
def badClass (key : Nat) : Nat := if wordSize key = 32 then cBM_UNCORRECTABLE else cSRAM_UNCORRECTABLE

/-- The counter of uncorrectable errors of a word's memory (R486): FLT_UNCORR. -/
def countBad (key : Nat) (hw : Hw) : Hw :=
  if wordSize key = 32 then hw.bump 0xB00250 16 16 else hw.bump 0xB00250 0 16

/-- The logical group of a BM storage key. -/
def keyGroup (key : Nat) : Nat := if key < 0x2000000000 then key / 4096 % 64 else (key - 0x80000000000) / 2097152 % 64

/-- The carrel-local address of a BM storage key: of a spare row, that of the row it serves; 0 where it serves none (R226; log entry 114). -/
def keyAddr (hw : Hw) (key : Nat) : Nat :=
  let g := keyGroup key
  let at_ (o : Nat) : Nat := 0x1000000000 + g * groupSize hw + o
  if key < 0x2000000000 then at_ (key / 262144 * 4096 + key % 4096)
  else
    let i := key - 0x80000000000
    let serves (e : Nat × W32) : Bool := decide (e.1 / 1024 = g) && nbit e.2.toNat 31 &&
      decide (fieldOf e.2 0 6 = i / 2048 % 64 ∧ bankOf hw (fieldOf e.2 16 15 * 2048) = i / 131072 % 16)
    ((hw.active.find? serves).map (fun e => at_ (fieldOf e.2 16 15 * 2048 + i % 2048))).getD 0

/-- A correction counts for its memory; one in BM is recorded at its carrel (R195, R486). -/
def countCorr (q : QSrc) (hw : Hw) (key : Nat) : Hw :=
  if wordSize key = 32 then
    let g := keyGroup key
    Hw.bump (0xB00100 + 4 * g) 0 16
      (raise { cls := cBM_CORRECTED, sev := 0, unit := 0x40 + g, q := q, addr := keyAddr hw key } hw)
  else if key / 2 ^ 32 = 0x20 then hw.bump 0xB00200 0 16
  else if key / 2 ^ 32 = 0x38 then hw.bump 0xB00204 0 16
  else if key / 2 ^ 32 = 0x3C then hw.bump 0xB00208 0 16
  else hw.bump (0xB00210 + 4 * (key / 0x400000 % 8)) 0 16

/-- Words of a range that a read corrects. -/
def softHit (hw : Hw) (a k : Nat) : List Nat :=
  if hw.soft.isEmpty then [] else hw.soft.filter (fun w => (List.range k).any (fun i => decide (wordOf (physOf hw (a + i)) = w)))

/-- A read corrects the words it touches; the stored words keep their errors. `q` is the queue that its records name (R479). -/
def correct (a k : Nat) (hw : Hw) (q : QSrc := .auto) : Hw := (softHit hw a k).foldl (countCorr q) hw

/-- The line number that both BM views share, for the write filter and the data caches (R202). -/
def lineOf (hw : Hw) (a : Nat) : Nat :=
  match regionOf hw a with
  | .bm g o => interleaved g o / 128
  | _ => a / 128

/-- Set one byte of memory; a write to a row already migrated marks it dirty (R250). -/
def Hw.putByte (a : Nat) (b : Byte) (hw : Hw) : Hw :=
  let hw' := { hw with mem := tabPut memReset (physOf hw a) b hw.mem }
  match regionOf hw a with
  | .bm g o =>
    if (g * 2 ^ 15 + rowOf o) ∈ hw.bmc.copied then
      { hw' with bmc := { hw.bmc with dirty := setIns (g * 2 ^ 15 + rowOf o) hw.bmc.dirty } }
    else hw'
  | _ => hw'

/-- Set a list of bytes. -/
def Hw.putBytes (l : List (Nat × Byte)) (hw : Hw) : Hw := l.foldl (fun hw p => hw.putByte p.1 p.2) hw

/-- The bytes of a write that a bad word refuses: its word is bad and the write does not cover the whole word (R197). -/
def refusedBytes (hw : Hw) (l : List (Nat × Byte)) : List (Nat × Byte) :=
  if hw.bad.isEmpty then []
  else
    let ks := l.map (fun p => physOf hw p.1)
    l.filter (fun p =>
      let w := wordOf (physOf hw p.1)
      decide (w ∈ hw.bad) && !((List.range (wordSize w)).all (fun i => decide (w + i ∈ ks))))

/-- The write filter (R202): invalidate every valid copy of a line in the data caches, but for that of the core whose own scalar or
vector store it is, and mark fills of it in flight, from their load's issue on, drop-on-arrival (R203). -/
def filterLine (line : Nat) (own : Option Nat) (hw : Hw) : Hw :=
  let cut (c : Core) : Core :=
    { c with
      dlines := c.dlines.filter (fun e => match e.2 with
        | some d => decide (lineOf hw ((d.tag * 64 + e.1 / 8) * 128) ≠ line)
        | none => false)
      loads := c.loads.map (fun o => if !o.dst.isChain && decide (lineOf hw o.addr = line) then { o with drop := true } else o) }
  { hw with cores := hw.cores.mapIdx (fun i c => if own = some i then c else cut c) }

/-- Perform a write of bytes: whole words clear errors, partial writes are merged and corrected (R195), those to bad words do
nothing (R197); the write filter acts on
BM and CSM lines (R202). The result tells whether a byte was refused. -/
def Hw.write (l : List (Nat × Byte)) (own : Option Nat) (hw : Hw) (q : QSrc := .auto) : Hw × Bool :=
  let no := refusedBytes hw l
  let ok := if no.isEmpty then l else l.filter (fun p => decide (p ∉ no))
  let clr := if hw.bad.isEmpty then [] else hw.bad.filter (fun w => decide (w ∉ ok.map (fun p => wordOf (physOf hw p.1))))
  let whole (w : Nat) : Bool := (List.range (wordSize w)).all (fun i => l.any (fun p => decide (physOf hw p.1 = w + i)))
  let hit := if hw.soft.isEmpty then [] else hw.soft.filter (fun w => l.any (fun p => decide (wordOf (physOf hw p.1) = w)))
  let hw0 := if hit.isEmpty then hw else
    { (hit.filter (fun w => !whole w)).foldl (countCorr q) hw with soft := hw.soft.filter (fun w => decide (w ∉ hit)) }
  let hw1 := if hw.bad.isEmpty then hw0 else { hw0 with bad := clr }
  let hw2 := hw1.putBytes ok
  let lines := (ok.filterMap (fun p => match regionOf hw p.1 with
    | .bm _ _ => some (lineOf hw p.1)
    | .csm => some (lineOf hw p.1)
    | _ => none)).eraseDups
  (lines.foldl (fun h ln => filterLine ln own h) hw2, !no.isEmpty)

/-- Bytes at an address as (address, byte) pairs. -/
def atAddr (a : Nat) (l : List Byte) : List (Nat × Byte) := l.mapIdx (fun i b => (a + i, b))

/-- Write consecutive bytes at once. -/
def Hw.store (a : Nat) (l : List Byte) (hw : Hw) : Hw := (hw.write (atAddr a l) none).1

/-- The little-endian number of `k` bytes of memory (R5). -/
def Hw.num (hw : Hw) (a k : Nat) : Nat := leNat (hw.bytes a k)

end Sys2Proof.Machine
end

