-- ==== Sys2Proof/Machine/Checkers.lean ====
section
/-!
DEFINITION. The handoff table (R273) and the checkers in two copies (R276): what a read or a write of a unit is late for, and the verdict
that applies when the copies differ.
-/
namespace Sys2Proof.Machine

/-! ### Handoffs (R273) -/

def TIM_PHASE_START : Nat := 0x300010

/-- The frame of a barrier context's last release: that of a release signal that is due, else what BAR_RELFRM holds (R327). -/
def relFrame (hw : Hw) (k : Nat) : Nat :=
  (hw.sync.signals.filter (fun s => decide (s.rel = some k ∧ s.add ≤ hw.now) && s.added.isNone)).foldl (fun m s => max m (frameOf s.add))
    (hw.reg64 (0x508000 + 0x20 * k + 0x10))

/-- The frame by which a handoff lands: REF + LAND, REF 0x7F being the phase start, 0–63 a barrier's last release. -/
def handoffFrame (hw : Hw) (h : Handoff) : Nat :=
  (if h.ref = 0x7F then hw.reg64 TIM_PHASE_START else relFrame hw h.ref) + h.land

/-- An address and, for a BM byte, its address in the other view (R191). -/
def bothViews (hw : Hw) (a : Nat) : List Nat :=
  match regionOf hw a with
  | .bm g o => [interleaved g o, 0x1000000000 + g * groupSize hw + o]
  | _ => [a]

/-- Does an entry name the line of an address, in either view? -/
def handoffHits (hw : Hw) (h : Handoff) (a : Nat) : Bool :=
  (bothViews hw a).any (fun v => decide (h.line ≤ v / 128 ∧ v / 128 < h.line + h.lines))

/-- The fault record of an access of an exact-class unit to a line, if a handoff entry finds one (R273). `frm` is the frame of
issue for a read and of landing for a write. -/
def handoffFault (hw : Hw) (unit frm a instr : Nat) (wr : Bool) : Option FaultRec :=
  (hw.handoff.mapIdx (fun i h => (i, h))).findSome? (fun p =>
    let h := p.2
    let due := handoffFrame hw h
    let late (d : Nat) : FaultRec :=
      { cls := cSCHED_LATE, sev := 2, unit := unit, instr := instr, exp := due, act := frm, addr := a - a % 128,
        syn := 0x60000000 + p.1 * 0x10000 + min d 255 }
    if !handoffHits hw h a then none
    else if wr then
      if unit = h.prod then (if due < frm then some (late (frm - due)) else none)
      else some { cls := cSCHED_SLOT_CONFLICT, sev := 2, unit := unit, instr := instr, exp := frm, act := frm,
                  addr := a - a % 128, syn := 0x36000000 + p.1 * 0x10000 }
    else if unit = h.cons ∧ frm < due then some (late (due - frm)) else none)

/-! ### Checkers in two copies (R276) -/

def TIM_CHK_STAT : Nat := 0x300020

/-- TIM_CHK_STAT.PORT and its A_OFF and B_OFF show the port of a disagreement and the copies disabled there (R293). -/
def showPort (port : Nat) (hw : Hw) : Hw :=
  ((hw.setFld TIM_CHK_STAT 8 8 port).setFld TIM_CHK_STAT 1 1 (b2n (decide ((port, 0) ∈ hw.chkOff)))).setFld TIM_CHK_STAT 2 1
    (b2n (decide ((port, 1) ∈ hw.chkOff)))

/-- The two copies' verdicts on a read (true: late) are compared: a disagreement is recorded, a copy that fails parity is disabled for
the phase, and where none is, a read of the phase is late if either copy finds it so (R276). The verdict that applies, and the state
after. -/
def resolveCopies (unit kind pc : Nat) (va vb : Bool) (fa fb : Nat) (badA badB : Bool) (hw : Hw) : Bool × Hw :=
  let port := Config.checkerPort unit kind
  if (port, 0) ∈ hw.chkOff then (vb, hw)
  else if (port, 1) ∈ hw.chkOff then (va, hw)
  else if va = vb then (va, hw)
  else
    let hw1 := raiseBy { cls := cCHECKER_DISAGREE, sev := 1, unit := unit, instr := pc, exp := fa, act := fb,
                         syn := b2n va + 2 * b2n vb + 4 * b2n badA + 8 * b2n badB + (port % 256) * 256 } hw
    let hw2 := (Hw.bump TIM_CHK_STAT 16 8 hw1).orReg TIM_CHK_STAT 1
    let either := decide (port ∈ hw2.chkBoth)
    if badA ∧ ¬ badB then (vb || either, showPort port { hw2 with chkOff := (port, 0) :: hw2.chkOff })
    else if badB ∧ ¬ badA then (va || either, showPort port { hw2 with chkOff := (port, 1) :: hw2.chkOff })
    else (true, showPort port { hw2 with chkBoth := setIns port hw2.chkBoth })

/-- A read at `cyc` of something that lands at `l`. -/
def checkLand (unit kind pc cyc : Nat) (l : Land) (hw : Hw) : Bool × Hw :=
  resolveCopies unit kind pc (decide (cyc < l.a)) (decide (cyc < l.b)) (frameOf l.a) (frameOf l.b) l.badA l.badB hw

/-- A read whose lateness both copies know alike, but for an error in one of them: resident code and handoffs. -/
def checkKnown (unit kind pc frm : Nat) (late : Bool) (hw : Hw) : Bool × Hw :=
  if hw.chkErr.isEmpty then (late, hw)
  else
    let err (c : Nat) : Option (Nat × Nat × Bool) := hw.chkErr.find? (fun e => decide (e.1 = Config.checkerPort unit kind ∧ e.2.1 = c))
    let bad (c : Nat) : Bool := (err c).any (fun e => e.2.2)
    resolveCopies unit kind pc (late != (err 0).isSome) (late != (err 1).isSome) frm frm (bad 0) (bad 1) hw

/-- The handoff check of a read by the two copies of its checker. -/
def handoffRead (unit frm a instr : Nat) (hw : Hw) : Option FaultRec × Hw :=
  let r := handoffFault hw unit frm a instr false
  let v := checkKnown unit 7 instr frm r.isSome hw
  let other : FaultRec := { cls := cSCHED_LATE, sev := 2, unit := unit, instr := instr, exp := frm, act := frm, addr := a - a % 128,
                            syn := 0x60000000 }
  (if v.1 then some (r.getD other) else none, v.2)

/-- The first read of a list of lines that the handoff checker finds too early. -/
def firstEarly (unit frm instr : Nat) : List Nat → Hw → Option FaultRec × Hw
  | [], hw => (none, hw)
  | a :: l, hw =>
    let r := handoffRead unit frm a instr hw
    match r.1 with
    | some f => (some f, r.2)
    | none => firstEarly unit frm instr l r.2

/-- The landing cycle a late verdict names: the later of the copies. -/
def Land.cyc (l : Land) : Nat := max l.a l.b

/-- Both copies take a landing cycle. -/
def landAt (t : Nat) : Land := ⟨t, t, false, false⟩

end Sys2Proof.Machine
end

