-- ==== Sys2Proof/Machine/Float.lean ====
section
/-!
DEFINITION. The number formats of spec/02: exact values, the interchange formats binary16 and binary32 (R34–R37), IEEE
operations rounded once by RNE (R64–R66, R73), the accumulator formats A40 and A40X (R42, R43), RH16 (R38–R41) and block
exponents (R59, R60).
-/
namespace Sys2Proof.Machine

/-- An exact value, or a special one. A finite value is (−1)^s × m × 2^x; the sign of zero is kept in `s`. -/
inductive Num where
  | nan (signalling : Bool)
  | inf (s : Bool)
  | fin (s : Bool) (m : Nat) (x : Int)
deriving DecidableEq, Repr

/-- An interchange format: exponent field width and precision with the hidden bit. -/
structure Fmt where
  ew : Nat
  p : Nat
deriving DecidableEq, Repr

def b16 : Fmt := ⟨5, 11⟩
def b32 : Fmt := ⟨8, 24⟩

def Fmt.bias (f : Fmt) : Int := (2 ^ (f.ew - 1) : Nat) - 1
def Fmt.emin (f : Fmt) : Int := 1 - f.bias
def Fmt.emax (f : Fmt) : Int := f.bias
/-- Weight exponent of the last place of a subnormal. -/
def Fmt.qmin (f : Fmt) : Int := f.emin - (f.p - 1 : Nat)
def Fmt.signBit (f : Fmt) : Nat := 2 ^ (f.ew + f.p - 1)
/-- Bytes of one element. -/
def Fmt.bytes (f : Fmt) : Nat := (f.ew + f.p) / 8
/-- The canonical quiet NaN (R35). -/
def Fmt.nan (f : Fmt) : Nat := (2 ^ f.ew - 1) * 2 ^ (f.p - 1) + 2 ^ (f.p - 2)
def Fmt.inf (f : Fmt) (s : Bool) : Nat := (2 ^ f.ew - 1) * 2 ^ (f.p - 1) + (if s then f.signBit else 0)
def Fmt.zero (f : Fmt) (s : Bool) : Nat := if s then f.signBit else 0

/-- The value of a pattern (R34; spec/02 "decodes to an integer significand"). -/
def decF (f : Fmt) (n : Nat) : Num :=
  let fr := nbits n 0 (f.p - 1)
  let e := nbits n (f.p - 1) f.ew
  let s := nbit n (f.ew + f.p - 1)
  if e = 2 ^ f.ew - 1 then
    if fr = 0 then .inf s else .nan (decide (fr < 2 ^ (f.p - 2)))
  else if e = 0 then .fin s fr f.qmin
  else .fin s (2 ^ (f.p - 1) + fr) ((e : Int) - 1 + f.qmin)

def bitLen (m : Nat) : Nat := if m = 0 then 0 else Nat.log2 m + 1

/-- floor(log2 |value|) of a nonzero finite value. -/
def topExp (m : Nat) (x : Int) : Int := (bitLen m : Int) - 1 + x

/-- The IEEE exception flags an operation signals (R73). -/
structure FpFlags where
  nv : Bool := false
  dz : Bool := false
  of : Bool := false
  uf : Bool := false
  nx : Bool := false
deriving DecidableEq, Repr

def FpFlags.none : FpFlags := ⟨false, false, false, false, false⟩
def FpFlags.or (a b : FpFlags) : FpFlags :=
  ⟨a.nv || b.nv, a.dz || b.dz, a.of || b.of, a.uf || b.uf, a.nx || b.nx⟩
def FpFlags.invalid (b : Bool) : FpFlags := ⟨b, false, false, false, false⟩

/-- m × 2^x in units of 2^q, to nearest with ties to even, and whether a bit was lost. -/
def rneAt (m : Nat) (x q : Int) : Nat × Bool :=
  if q ≤ x then (m <<< (x - q).toNat, false)
  else
    let sh := (q - x).toNat
    let g := m >>> sh
    let rem := m % 2 ^ sh
    let half := 2 ^ (sh - 1)
    (if rem > half ∨ (rem = half ∧ g % 2 = 1) then g + 1 else g, decide (rem ≠ 0))

/-- m × 2^x in units of 2^q, toward zero. -/
def truncAt (m : Nat) (x q : Int) : Nat :=
  if q ≤ x then m <<< (x - q).toNat else m >>> (q - x).toNat

/-- `round_ne` of spec/02 on a nonzero or zero magnitude, with the flags of R73; the sign of a zero result is kept. -/
def roundF (f : Fmt) (s : Bool) (m : Nat) (x : Int) : Nat × FpFlags :=
  let sb := if s then f.signBit else 0
  if m = 0 then (sb, .none)
  else
    let t := topExp m x
    let q := max t f.emin - (f.p - 1 : Nat)
    let r := rneAt m x q
    let carry := decide (r.1 = 2 ^ f.p)
    let g := if carry then r.1 / 2 else r.1
    let q' := if carry then q + 1 else q
    if q' + (f.p - 1 : Nat) > f.emax then (f.inf s, ⟨false, false, true, false, true⟩)
    else
      let free := rneAt m x (t - (f.p - 1 : Nat))
      let t' := if free.1 = 2 ^ f.p then t + 1 else t
      let tiny := decide (t' < f.emin)
      let bits := if g < 2 ^ (f.p - 1) then g
        else ((q' - f.qmin).toNat + 1) * 2 ^ (f.p - 1) + (g - 2 ^ (f.p - 1))
      (bits + sb, ⟨false, false, false, tiny && r.2, r.2⟩)

/-- Signed integer value of a finite number in units of 2^q, q at most its weight exponent. -/
def signedAt (s : Bool) (m : Nat) (x q : Int) : Int :=
  let v : Int := (m <<< (x - q).toNat : Nat)
  if s then -v else v

/-- Exact sum of two finite values; an exact zero has the sign IEEE gives it under RNE. -/
def addFin (sa : Bool) (ma : Nat) (xa : Int) (sb : Bool) (mb : Nat) (xb : Int) : Bool × Nat × Int :=
  if ma = 0 ∧ mb = 0 then (sa && sb, 0, xa)
  else
    let q := min xa xb
    let v := signedAt sa ma xa q + signedAt sb mb xb q
    (decide (v < 0), v.natAbs, q)

/-- A number written in a format, one rounding by RNE, sign of zero kept. -/
def encF (f : Fmt) (v : Num) : Nat × FpFlags :=
  match v with
  | .nan _ => (f.nan, .none)
  | .inf s => (f.inf s, .none)
  | .fin s m x => roundF f s m x

def Num.isNan : Num → Bool
  | .nan _ => true
  | _ => false
def Num.isSnan : Num → Bool
  | .nan b => b
  | _ => false
def Num.isZero : Num → Bool
  | .fin _ 0 _ => true
  | _ => false
def Num.isInf : Num → Bool
  | .inf _ => true
  | _ => false
def Num.isFin : Num → Bool
  | .fin _ _ _ => true
  | _ => false
def Num.sign : Num → Bool
  | .nan _ => false
  | .inf s => s
  | .fin s _ _ => s
def Num.neg : Num → Num
  | .nan b => .nan b
  | .inf s => .inf (!s)
  | .fin s m x => .fin (!s) m x

/-- IEEE addition of two values, rounded once. -/
def fpAdd (f : Fmt) (a b : Num) : Nat × FpFlags :=
  match a, b with
  | .nan x, b => (f.nan, .invalid (x || b.isSnan))
  | _, .nan y => (f.nan, .invalid y)
  | .inf s, .inf t => if s = t then (f.inf s, .none) else (f.nan, .invalid true)
  | .inf s, _ => (f.inf s, .none)
  | _, .inf t => (f.inf t, .none)
  | .fin sa ma xa, .fin sb mb xb =>
    let r := addFin sa ma xa sb mb xb
    roundF f r.1 r.2.1 r.2.2

def fpSub (f : Fmt) (a b : Num) : Nat × FpFlags := fpAdd f a b.neg

/-- IEEE multiplication. -/
def fpMul (f : Fmt) (a b : Num) : Nat × FpFlags :=
  match a, b with
  | .nan x, b => (f.nan, .invalid (x || b.isSnan))
  | _, .nan y => (f.nan, .invalid y)
  | .inf s, b => if b.isZero then (f.nan, .invalid true) else (f.inf (s != b.sign), .none)
  | a, .inf t => if a.isZero then (f.nan, .invalid true) else (f.inf (t != a.sign), .none)
  | .fin sa ma xa, .fin sb mb xb => roundF f (sa != sb) (ma * mb) (xa + xb)

/-- IEEE fusedMultiplyAdd; 0 × ∞ signals invalid whatever the third operand is (R73). -/
def fpFma (f : Fmt) (a b c : Num) : Nat × FpFlags :=
  if (a.isZero && b.isInf) || (a.isInf && b.isZero) then (f.nan, .invalid true)
  else if a.isNan || b.isNan || c.isNan then (f.nan, .invalid (a.isSnan || b.isSnan || c.isSnan))
  else match a, b, c with
  | .fin sa ma xa, .fin sb mb xb, .fin sc mc xc =>
    let r := addFin (sa != sb) (ma * mb) (xa + xb) sc mc xc
    roundF f r.1 r.2.1 r.2.2
  | .fin _ _ _, .fin _ _ _, c => (f.inf c.sign, .none)
  | a, b, .inf s => if s = (a.sign != b.sign) then (f.inf s, .none) else (f.nan, .invalid true)
  | a, b, _ => (f.inf (a.sign != b.sign), .none)

/-- Exact quotient of two nonzero magnitudes to at least `k` bits, a lost remainder kept as a last sticky bit. -/
def quotSticky (k ma : Nat) (xa : Int) (mb : Nat) (xb : Int) : Nat × Int :=
  let sh := k + bitLen mb
  let n := ma <<< sh
  (2 * (n / mb) + b2n (decide (n % mb ≠ 0)), xa - xb - sh - 1)

/-- IEEE division. -/
def fpDiv (f : Fmt) (a b : Num) : Nat × FpFlags :=
  match a, b with
  | .nan x, b => (f.nan, .invalid (x || b.isSnan))
  | _, .nan y => (f.nan, .invalid y)
  | .inf s, .inf _ => (f.nan, .invalid (s || true))
  | .inf s, b => (f.inf (s != b.sign), .none)
  | a, .inf t => (f.zero (a.sign != t), .none)
  | .fin sa ma xa, .fin sb mb xb =>
    if mb = 0 then
      if ma = 0 then (f.nan, .invalid true) else (f.inf (sa != sb), ⟨false, true, false, false, false⟩)
    else if ma = 0 then (f.zero (sa != sb), .none)
    else
      let r := quotSticky (f.p + 3) ma xa mb xb
      roundF f (sa != sb) r.1 r.2

/-- floor of the square root of `n`, bit by bit from bit `k`. -/
def isqrtFrom (n : Nat) : Nat → Nat → Nat
  | 0, a => if (a + 1) * (a + 1) ≤ n then a + 1 else a
  | k + 1, a =>
    let c := a + 2 ^ (k + 1)
    isqrtFrom n k (if c * c ≤ n then c else a)
def isqrt (n : Nat) : Nat := isqrtFrom n (bitLen n / 2 + 1) 0

/-- IEEE square root. -/
def fpSqrt (f : Fmt) (a : Num) : Nat × FpFlags :=
  match a with
  | .nan b => (f.nan, .invalid b)
  | .inf s => if s then (f.nan, .invalid true) else (f.inf false, .none)
  | .fin s m x =>
    if m = 0 then (f.zero s, .none)
    else if s then (f.nan, .invalid true)
    else
      let k := 2 * (f.p + 4) + (x % 2).toNat
      let n := m <<< k
      let r := isqrt n
      roundF f false (2 * r + b2n (decide (r * r ≠ n))) ((x - k) / 2 - 1)

/-- Compare two values that are not NaN. -/
def numCmp (a b : Num) : Ordering :=
  match a, b with
  | .inf s, .inf t => if s = t then .eq else if s then .lt else .gt
  | .inf s, _ => if s then .lt else .gt
  | _, .inf t => if t then .gt else .lt
  | .fin sa ma xa, .fin sb mb xb =>
    let q := min xa xb
    compare (signedAt sa ma xa q) (signedAt sb mb xb q)
  | _, _ => .eq

/-- a < b with −0 below +0, for minimum and maximum (R63). -/
def numLtZ (a b : Num) : Bool :=
  match numCmp a b with
  | .lt => true
  | .gt => false
  | .eq => a.isZero && b.isZero && a.sign && !b.sign

/-- IEEE 754-2019 minimum and maximum (R63), on patterns. -/
def fpMinMax (f : Fmt) (mx : Bool) (a b : Nat) : Nat × FpFlags :=
  let x := decF f a
  let y := decF f b
  if x.isNan || y.isNan then (f.nan, .invalid (x.isSnan || y.isSnan))
  else (if numLtZ x y = mx then b else a, .none)

/-- int32 or larger signed integer to a format by RNE. -/
def fpOfInt (f : Fmt) (i : Int) : Nat × FpFlags := roundF f (decide (i < 0)) i.natAbs 0

/-- binary32 to int32 toward zero, saturating, NaN to 0 (R95, R73). -/
def fpToInt32 (a : Num) : Int × FpFlags :=
  match a with
  | .nan _ => (0, .invalid true)
  | .inf s => (if s then -2147483648 else 2147483647, .invalid true)
  | .fin s m x =>
    let t := truncAt m x 0
    let v : Int := if s then -(t : Int) else (t : Int)
    if v < -2147483648 then (-2147483648, .invalid true)
    else if v > 2147483647 then (2147483647, .invalid true)
    else (v, ⟨false, false, false, false, decide (x < 0 ∧ m % 2 ^ (-x).toNat ≠ 0)⟩)

/-! ### Accumulator formats (R42, R43): `gb` is 30 for A40 and 48 for A40X -/

/-- The value of an accumulator pattern. -/
def decA (gb n : Nat) : Num :=
  let g := nbits n 0 gb
  let e := nbits n gb 9
  let s := nbit n (gb + 9)
  if e = 511 then (if g = 0 then .inf s else .nan false)
  else if e = 0 then .fin s g (-254 - (gb - 1 : Nat))
  else .fin s g ((e : Int) - 255 - (gb - 1 : Nat))

def accNan (gb : Nat) : Nat := 511 * 2 ^ gb + 2 ^ (gb - 1)
def accInf (gb : Nat) (s : Bool) : Nat := 511 * 2 ^ gb + (if s then 2 ^ (gb + 9) else 0)

/-- `trunc_a40` of spec/02 (and its A40X form): toward zero, an exact zero is +0. -/
def truncA (gb : Nat) (s : Bool) (m : Nat) (x : Int) : Nat :=
  if m = 0 then 0
  else
    let t := topExp m x
    if t ≥ 256 then accInf gb s
    else
      let q := max t (-254) - (gb - 1 : Nat)
      let g := truncAt m x q
      if g = 0 then 0
      else
        let e := if t < -254 then 0 else (t + 255).toNat
        (if s then 2 ^ (gb + 9) else 0) + e * 2 ^ gb + g

/-- A value truncated to an accumulator format. -/
def encA (gb : Nat) (v : Num) : Nat :=
  match v with
  | .nan _ => accNan gb
  | .inf s => accInf gb s
  | .fin s m x => truncA gb s m x

/-! ### Array conversions (R58): a zero result is +0 -/

/-- A value written in an interchange format as it leaves an array: RNE, zero is +0. -/
def encArr (f : Fmt) (v : Num) : Nat :=
  match v with
  | .fin s m x =>
    let r := (roundF f s m x).1
    if r % f.signBit = 0 then 0 else r
  | v => (encF f v).1

/-! ### RH16 (R38–R41) and block exponents (R59, R60) -/

/-- The signed block exponent of a byte. -/
def blkExp (b : Byte) : Int := b.toInt

/-- The value of an RH16 element in a block whose exponent byte is `e`. -/
def rhVal (el : Nat) (e : Byte) : Num :=
  if e = 0x80 then .fin false 0 0
  else match decF b16 el with
    | .fin s m x => .fin s m (x + blkExp e)
    | v => v

/-- Largest finite magnitude of a list, as (m, x); (0, 0) if none. -/
def maxMag (l : List Num) : Nat × Int :=
  l.foldl (fun a v => match v with
    | .fin _ m x =>
      let q := min a.2 x
      if signedAt false a.1 a.2 q < signedAt false m x q then (m, x) else a
    | _ => a) (0, 0)

/-- `block_exponent` of spec/02 (R59), as a signed number; −128 for an all-zero block. -/
def blockExponent (l : List Num) : Int :=
  let mx := maxMag l
  if mx.1 = 0 then (if l.any (fun v => !v.isFin) then 0 else -128)
  else
    let e := topExp mx.1 mx.2 - 15
    let q := min (mx.2 - e) 0
    let e' := if signedAt false mx.1 (mx.2 - e) q ≥ signedAt false 65520 0 q then e + 1 else e
    max (-127) (min 127 e')

/-- One RH16 element of value `v` in a block of exponent `e`: RNE of v × 2^−E, zero is 0x0000 (R58, R60). -/
def rhElem (e : Int) (v : Num) : Nat :=
  match v with
  | .fin s m x => if e = -128 then 0 else encArr b16 (.fin s m (x - e))
  | v => (encF b16 v).1

/-- A block packed to RH16: its elements and its exponent byte. -/
def packBlock (l : List Num) : List Nat × Byte :=
  let e := blockExponent l
  (l.map (rhElem e), BitVec.ofInt 8 e)

/-! ### Block steps (R44–R54, R61) -/

/-- Product of one pair of a step; a finite product of magnitude 2^256 or more is infinite (R61). -/
def stepProd (a b : Num) : Num :=
  match a, b with
  | .fin sa ma xa, .fin sb mb xb =>
    let m := ma * mb
    let x := xa + xb
    if m ≠ 0 ∧ topExp m x ≥ 256 then .inf (sa != sb) else .fin (sa != sb) m x
  | .nan _, _ => .nan false
  | _, .nan _ => .nan false
  | .inf s, b => if b.isZero then .nan false else .inf (s != b.sign)
  | a, .inf t => if a.isZero then .nan false else .inf (t != a.sign)

/-- Largest floor(log2 |p|) over the nonzero finite products. -/
def stepTop (l : List Num) : Option Int :=
  l.foldl (fun t v => match v with
    | .fin _ m x => if m = 0 then t else
      match t with
      | none => some (topExp m x)
      | some u => some (max u (topExp m x))
    | _ => t) none

/-- The block sum in units of 2^u: each product truncated toward zero to the window, then summed exactly (R46, R47). -/
def stepSum (u : Int) (l : List Num) : Int :=
  l.foldl (fun a v => match v with
    | .fin s m x =>
      let w : Int := (truncAt m x u : Nat)
      if s then a - w else a + w
    | _ => a) 0

/-- What a step does to an accumulator value: `none` leaves it unchanged, otherwise the exact new value (R48, R49, R61). -/
def stepValue (win : Nat) (acc : Num) (pairs : List (Num × Num)) : Option Num :=
  let ps := pairs.map (fun p => stepProd p.1 p.2)
  let pinf := ps.any (fun v => v == .inf false)
  let ninf := ps.any (fun v => v == .inf true)
  if ps.any Num.isNan then some (.nan false)
  else if pinf && ninf then some (.nan false)
  else if acc.isNan then none
  else if pinf || ninf then
    if acc == .inf (!ninf) then some (.nan false) else some (.inf ninf)
  else if acc.isInf then none
  else match stepTop ps with
    | none => none
    | some t =>
      let u := t - (win - 1 : Nat)
      let v := stepSum u ps
      match acc with
      | .fin s m x =>
        let r := addFin s m x (decide (v < 0)) v.natAbs u
        some (.fin r.1 r.2.1 r.2.2)
      | _ => none

/-- One block step on an accumulator pattern, truncating to A40 or A40X (R48, R54). -/
def blockStep (gb win acc : Nat) (pairs : List (Num × Num)) : Nat :=
  match stepValue win (decA gb acc) pairs with
  | none => acc
  | some v => encA gb v

/-- One block step of a carrel dot lane: added exactly to the binary32 accumulator and rounded by RNE (R77). -/
def dotStep (acc : Nat) (pairs : List (Num × Num)) : Nat :=
  match stepValue 34 (decF b32 acc) pairs with
  | none => if (decF b32 acc).isNan then b32.nan else acc
  | some v => encArr b32 v

end Sys2Proof.Machine
end

