-- ==== Sys2Proof/Machine/Flags.lean ====
section
/-!
DEFINITION. The values that scalar and vector instructions compute, and the exception flags they signal (R92, R93, R95, R97,
R63–R66, R73). Pure functions of their operands; compute cores and the control core share the scalar ones (R406).
-/
namespace Sys2Proof.Machine

/-! ### Scalar arithmetic (R92, R93) -/

def xAdd (a b : W64) : W64 := a + b
def xSub (a b : W64) : W64 := a - b
def xAnd (a b : W64) : W64 := a &&& b
def xOr (a b : W64) : W64 := a ||| b
def xXor (a b : W64) : W64 := a ^^^ b
/-- Shifts by bits [5:0] of the second operand. -/
def xSll (a b : W64) : W64 := a <<< (b.toNat % 64)
def xSrl (a b : W64) : W64 := a >>> (b.toNat % 64)
def xSra (a b : W64) : W64 := a.sshiftRight (b.toNat % 64)
def xSlt (a b : W64) : W64 := if a.toInt < b.toInt then 1 else 0
def xSltu (a b : W64) : W64 := if a.toNat < b.toNat then 1 else 0
def xMin (a b : W64) : W64 := if a.toInt < b.toInt then a else b
def xMax (a b : W64) : W64 := if a.toInt < b.toInt then b else a
def xMinu (a b : W64) : W64 := if a.toNat < b.toNat then a else b
def xMaxu (a b : W64) : W64 := if a.toNat < b.toNat then b else a
/-- 32-bit results, sign-extended. -/
def xAddw (a b : W64) : W64 := ((a + b).truncate 32).signExtend 64
def xSubw (a b : W64) : W64 := ((a - b).truncate 32).signExtend 64
def xMul (a b : W64) : W64 := a * b
def xMulh (a b : W64) : W64 := BitVec.ofInt 64 ((a.toInt * b.toInt) / 2 ^ 64)
def xMulhu (a b : W64) : W64 := BitVec.ofNat 64 ((a.toNat * b.toNat) / 2 ^ 64)
/-- Division by zero gives all ones; −2^63 ÷ −1 gives −2^63 (R93). -/
def xDiv (a b : W64) : W64 := if b = 0 then BitVec.allOnes 64 else BitVec.ofInt 64 (Int.tdiv a.toInt b.toInt)
def xDivu (a b : W64) : W64 := if b = 0 then BitVec.allOnes 64 else BitVec.ofNat 64 (a.toNat / b.toNat)
/-- The remainder by zero is the dividend; −2^63 rem −1 is 0 (R93). -/
def xRem (a b : W64) : W64 := if b = 0 then a else BitVec.ofInt 64 (Int.tmod a.toInt b.toInt)
def xRemu (a b : W64) : W64 := if b = 0 then a else BitVec.ofNat 64 (a.toNat % b.toNat)
def xClz (a : W64) : W64 := BitVec.ofNat 64 (64 - bitLen a.toNat)
def xCtz (a : W64) : W64 :=
  BitVec.ofNat 64 (((List.range 64).find? (fun i => a.getLsbD i)).getD 64)
def xPopc (a : W64) : W64 := BitVec.ofNat 64 ((List.range 64).filter (fun i => a.getLsbD i)).length
def xBeq (a b : W64) : Bool := decide (a = b)
def xBne (a b : W64) : Bool := decide (a ≠ b)
def xBlt (a b : W64) : Bool := decide (a.toInt < b.toInt)
def xBge (a b : W64) : Bool := decide (b.toInt ≤ a.toInt)
def xBltu (a b : W64) : Bool := decide (a.toNat < b.toNat)
def xBgeu (a b : W64) : Bool := decide (b.toNat ≤ a.toNat)

/-- `k` loaded bytes as a register value. -/
def xLoad (l : List Byte) (signed : Bool) : W64 :=
  if signed then BitVec.ofInt 64 (nsigned (leNat l) (8 * l.length)) else BitVec.ofNat 64 (leNat l)

/-- An immediate as a register value. -/
def xImm (i : Int) : W64 := BitVec.ofInt 64 i

/-! ### Vector lanes (spec/03, "Architectural registers") -/

/-- The lanes of a vector register, lane 0 first, `wd` bits each. -/
def lanesOf (wd : Nat) (v : VReg) : List Nat := (List.range (1024 / wd)).map (fun j => nbits v.toNat (wd * j) wd)

/-- The number that lanes of `wd` bits make. -/
def packLanes (wd : Nat) : List Nat → Nat
  | [] => 0
  | x :: l => x % 2 ^ wd + 2 ^ wd * packLanes wd l

def ofLanes (wd : Nat) (l : List Nat) : VReg := BitVec.ofNat 1024 (packLanes wd l)

/-- Bit `j` of a predicate. -/
def lane (mask : W64) (j : Nat) : Bool := mask.getLsbD j

/-- Active lanes take the new value, the others keep the old one (R80). -/
def blend (mask : W64) (old new : List Nat) : List Nat :=
  (List.zip old new).mapIdx (fun j p => if lane mask j then p.2 else p.1)

/-- A lane-wise operation with flags: the new lanes and the flags of the active ones. -/
def lanesF (mask : W64) (l : List (Nat × FpFlags)) : List Nat × FpFlags :=
  (l.map (fun p => p.1), (l.mapIdx (fun j p => if lane mask j then p.2 else FpFlags.none)).foldl FpFlags.or FpFlags.none)

def fpWidth (f : Fmt) : Nat := f.ew + f.p

/-- A two-operand floating-point instruction on every lane. -/
def vBin (f : Fmt) (op : Nat → Nat → Nat × FpFlags) (mask : W64) (old a b : VReg) : VReg × FpFlags :=
  let wd := fpWidth f
  let r := lanesF mask (List.zipWith op (lanesOf wd a) (lanesOf wd b))
  (ofLanes wd (blend mask (lanesOf wd old) r.1), r.2)

/-- A one-operand floating-point instruction on every lane. -/
def vUn (f : Fmt) (op : Nat → Nat × FpFlags) (mask : W64) (old a : VReg) : VReg × FpFlags :=
  vBin f (fun x _ => op x) mask old a a

def fAdd (f : Fmt) (a b : Nat) : Nat × FpFlags := fpAdd f (decF f a) (decF f b)
def fSub (f : Fmt) (a b : Nat) : Nat × FpFlags := fpSub f (decF f a) (decF f b)
def fMul (f : Fmt) (a b : Nat) : Nat × FpFlags := fpMul f (decF f a) (decF f b)
def fDiv (f : Fmt) (a b : Nat) : Nat × FpFlags := fpDiv f (decF f a) (decF f b)
def fSqrt (f : Fmt) (a : Nat) : Nat × FpFlags := fpSqrt f (decF f a)
def fMin (f : Fmt) (a b : Nat) : Nat × FpFlags := fpMinMax f false a b
def fMax (f : Fmt) (a b : Nat) : Nat × FpFlags := fpMinMax f true a b
/-- VABS and VNEG move the sign bit only and signal nothing; a NaN becomes canonical (R35, R73). -/
def fAbs (f : Fmt) (a : Nat) : Nat × FpFlags := (if (decF f a).isNan then f.nan else a % f.signBit, .none)
def fNeg (f : Fmt) (a : Nat) : Nat × FpFlags :=
  (if (decF f a).isNan then f.nan else if f.signBit ≤ a then a - f.signBit else a + f.signBit, .none)

/-- VFMA, VFMS, VFNMA, VFNMS: ±(a × b) ± c, rounded once (R64, R95). -/
def fFma (f : Fmt) (np nc : Bool) (a b c : Nat) : Nat × FpFlags :=
  let x := decF f a
  let z := decF f c
  fpFma f (if np then x.neg else x) (decF f b) (if nc then z.neg else z)

def vFma (f : Fmt) (np nc : Bool) (mask : W64) (old a b c : VReg) : VReg × FpFlags :=
  let wd := fpWidth f
  let ab := List.zip (lanesOf wd a) (lanesOf wd b)
  let r := lanesF mask (List.zipWith (fun p z => fFma f np nc p.1 p.2 z) ab (lanesOf wd c))
  (ofLanes wd (blend mask (lanesOf wd old) r.1), r.2)

/-- Integer lane operations of class 0x0A on `wd`-bit lanes (R95). -/
def iAdd (wd a b : Nat) : Nat := (a + b) % 2 ^ wd
def iSub (wd a b : Nat) : Nat := (a + 2 ^ wd - b) % 2 ^ wd
def iMul (wd a b : Nat) : Nat := (a * b) % 2 ^ wd
def iAnd (_ a b : Nat) : Nat := a &&& b
def iOr (_ a b : Nat) : Nat := a ||| b
def iXor (_ a b : Nat) : Nat := a ^^^ b
/-- Shift counts are the low 5 bits of a 32-bit lane, the low 4 of a 16-bit lane. -/
def iShl (wd a b : Nat) : Nat := (a <<< (b % wd)) % 2 ^ wd
def iShr (wd a b : Nat) : Nat := a >>> (b % wd)
def iSra (wd a b : Nat) : Nat := toBits (nsigned a wd >>> (b % wd)) wd

def vInt (wd : Nat) (op : Nat → Nat → Nat → Nat) (mask : W64) (old a b : VReg) : VReg :=
  ofLanes wd (blend mask (lanesOf wd old) (List.zipWith (op wd) (lanesOf wd a) (lanesOf wd b)))

/-- A compare: bits of active lanes that satisfy it are 1, all others 0 (R95). -/
def vCmp (wd : Nat) (op : Nat → Nat → Bool × FpFlags) (mask : W64) (a b : VReg) : W64 × FpFlags :=
  let rs := List.zipWith op (lanesOf wd a) (lanesOf wd b)
  let bits := rs.mapIdx (fun j p => if lane mask j && p.1 then 2 ^ j else 0)
  (BitVec.ofNat 64 (bits.foldl (· + ·) 0),
   (rs.mapIdx (fun j p => if lane mask j then p.2 else FpFlags.none)).foldl FpFlags.or FpFlags.none)

/-- VCMPEQ and VCMPUN are quiet: invalid only on a signalling NaN; VCMPLT and VCMPLE on any NaN (R73). -/
def cEq (f : Fmt) (a b : Nat) : Bool × FpFlags :=
  let x := decF f a
  let y := decF f b
  (!x.isNan && !y.isNan && numCmp x y == .eq, .invalid (x.isSnan || y.isSnan))
def cLt (f : Fmt) (a b : Nat) : Bool × FpFlags :=
  let x := decF f a
  let y := decF f b
  (!x.isNan && !y.isNan && numCmp x y == .lt, .invalid (x.isNan || y.isNan))
def cLe (f : Fmt) (a b : Nat) : Bool × FpFlags :=
  let x := decF f a
  let y := decF f b
  (!x.isNan && !y.isNan && numCmp x y != .gt, .invalid (x.isNan || y.isNan))
def cUn (f : Fmt) (a b : Nat) : Bool × FpFlags :=
  let x := decF f a
  let y := decF f b
  (x.isNan || y.isNan, .invalid (x.isSnan || y.isSnan))
def cIeq (a b : Nat) : Bool × FpFlags := (decide (a = b), .none)
def cIlt (wd a b : Nat) : Bool × FpFlags := (decide (nsigned a wd < nsigned b wd), .none)
def cIltu (a b : Nat) : Bool × FpFlags := (decide (a < b), .none)

/-- One level of the pairwise tree (R97): a node with one active input passes it on, one with none passes nothing. -/
def treeLevel (op : Nat → Nat → Nat × FpFlags) : List (Option Nat) → List (Option Nat) × FpFlags
  | x :: y :: l =>
    let r := treeLevel op l
    match x, y with
    | some a, some b => let n := op a b; (some n.1 :: r.1, n.2.or r.2)
    | some a, none => (some a :: r.1, r.2)
    | none, some b => (some b :: r.1, r.2)
    | none, none => (none :: r.1, r.2)
  | l => (l, .none)

/-- The whole tree, by levels (fuel: their number). -/
def treeRun (op : Nat → Nat → Nat × FpFlags) : Nat → List (Option Nat) → FpFlags → Option Nat × FpFlags
  | 0, l, fl => (l.headD none, fl)
  | k + 1, l, fl => let r := treeLevel op l; treeRun op k r.1 (fl.or r.2)

/-- A reduction into lane 0, +0 in every other lane; no active lane gives +0; a NaN passed on is canonical (R97, R35). A signalling NaN
that is the only active input meets no operation: whether it signals the rules do not say, and the model signals nothing (DESIGN CHOICE,
log entry 77). -/
def vReduce (f : Fmt) (op : Nat → Nat → Nat × FpFlags) (mask : W64) (a : VReg) : VReg × FpFlags :=
  let wd := fpWidth f
  let ls := (lanesOf wd a).mapIdx (fun j x => if lane mask j then some x else none)
  let r := treeRun op 6 ls .none
  let x := match r.1 with
    | none => 0
    | some x => if (decF f x).isNan then f.nan else x
  (BitVec.ofNat 1024 x, r.2)

/-- Lane moves of class 0x0D (R95). -/
def vPerm (wd : Nat) (mask : W64) (old a b : VReg) : VReg :=
  let la := lanesOf wd a
  ofLanes wd (blend mask (lanesOf wd old) ((lanesOf wd b).map (fun i => la.getD (i % (1024 / wd)) 0)))
def vSlideUp (wd k : Nat) (mask : W64) (old a : VReg) : VReg :=
  ofLanes wd (blend mask (lanesOf wd old) ((List.replicate k 0 ++ lanesOf wd a).take (1024 / wd)))
def vSlideDn (wd k : Nat) (mask : W64) (old a : VReg) : VReg :=
  ofLanes wd (blend mask (lanesOf wd old) ((lanesOf wd a).drop k ++ List.replicate k 0))

/-- Class 0x0E moves: every active lane takes the low bits of a g register; or lanes of another register (R95). -/
def vBcast (wd : Nat) (mask : W64) (old : VReg) (x : Nat) : VReg :=
  ofLanes wd (blend mask (lanesOf wd old) (List.replicate (1024 / wd) (x % 2 ^ wd)))
def vMove (mask : W64) (old a : VReg) : VReg := ofLanes 32 (blend mask (lanesOf 32 old) (lanesOf 32 a))
def vInsert (mask : W64) (old : VReg) (k : Nat) (x : W64) : VReg :=
  ofLanes 32 ((lanesOf 32 old).mapIdx (fun j o => if j = k ∧ lane mask j then x.toNat % 2 ^ 32 else o))
def vExtract (a : VReg) (k : Nat) : W64 := BitVec.ofNat 64 (nbits a.toNat (32 * k) 32)

/-- Conversions: bit j of the predicate governs binary32 or int32 lane j (R80); NaN becomes canonical (R58). -/
def vCvtHS (high : Bool) (mask : W64) (old a : VReg) : VReg × FpFlags :=
  let r := lanesF mask ((lanesOf 32 a).map (fun x =>
    let v := decF b32 x
    let e := encF b16 v
    (e.1, e.2.or (.invalid v.isSnan))))
  let lo := lanesOf 16 old
  let half := blend mask (if high then lo.drop 32 else lo.take 32) r.1
  (ofLanes 16 (if high then lo.take 32 ++ half else half ++ lo.drop 32), r.2)
def vCvtSH (high : Bool) (mask : W64) (old a : VReg) : VReg × FpFlags :=
  let src := if high then (lanesOf 16 a).drop 32 else (lanesOf 16 a).take 32
  let r := lanesF mask (src.map (fun x =>
    let v := decF b16 x
    ((encF b32 v).1, .invalid v.isSnan)))
  (ofLanes 32 (blend mask (lanesOf 32 old) r.1), r.2)
def vCvtSW (mask : W64) (old a : VReg) : VReg × FpFlags :=
  let r := lanesF mask ((lanesOf 32 a).map (fun x => fpOfInt b32 (nsigned x 32)))
  (ofLanes 32 (blend mask (lanesOf 32 old) r.1), r.2)
def vCvtWS (mask : W64) (old a : VReg) : VReg × FpFlags :=
  let r := lanesF mask ((lanesOf 32 a).map (fun x => let c := fpToInt32 (decF b32 x); (toBits c.1 32, c.2)))
  (ofLanes 32 (blend mask (lanesOf 32 old) r.1), r.2)

/-- The five flags as bits [4:0]: NV, DZ, OF, UF, NX from bit 4 down (spec/02, CORE_FPSTAT). -/
def FpFlags.bits (f : FpFlags) : Nat := b2n f.nx + 2 * b2n f.uf + 4 * b2n f.of + 8 * b2n f.dz + 16 * b2n f.nv

end Sys2Proof.Machine
end

