-- ==== Sys2Proof/Machine/CarCalc.lean ====
section
/-!
DEFINITION. What the carrel commands compute and where they write it (spec/07, "What the commands compute"): operands of each
command, spans over refresh slots (R221, R232), and the writes of a command as (BCLK, bytes).
-/
namespace Sys2Proof.Machine

/-! ### Fields of a record (spec/07, "Command record, 32 bytes") -/

def crOp (r : CarRec) : Nat := fieldOf r.w0 0 8
def crFlags (r : CarRec) : Nat := fieldOf r.w0 8 8
def crDelta (r : CarRec) : Nat := fieldOf r.w0 16 16
def crA (r : CarRec) : Nat := fieldOf r.w1 0 26
def crB (r : CarRec) : Nat := fieldOf r.w2 0 26
def crS (r : CarRec) : Nat := fieldOf r.w3 0 18
def crDst (r : CarRec) : Nat := fieldOf r.w4 0 26
def crN (r : CarRec) : Nat := fieldOf r.w5 0 24
def crP0 (r : CarRec) : Nat := r.w6.toNat
def crP1 (r : CarRec) : Nat := r.w7.toNat
/-- FLAGS[i]. -/
def crBit (r : CarRec) (i : Nat) : Bool := nbit (crFlags r) i

def up (n d : Nat) : Nat := (n + d - 1) / d

/-! ### Addresses -/

def carBm (hw : Hw) (c o : Nat) : Nat := 0x1000000000 + c * groupSize hw + o
def carScr (c s : Nat) : Nat := 0x3800000000 + c * 0x40000 + s
def csmAt (b : Nat) : Nat := 0x2000000000 + b

/-! ### The refresh calendar and spans -/

/-- BCLK `b` lies in the refresh slot of group `g` (R221). -/
def refreshBclk (g b : Nat) : Bool := decide (390 * (g % 4) ≤ b % 1560 ∧ b % 1560 < 390 * (g % 4) + 48)

/-- The first BCLK after `d` BCLK outside the refresh slots of `g`, counted from `b` (fuel: periods) (R232). -/
def spanRun (g : Nat) : Nat → Nat → Nat → Nat
  | 0, b, d => b + d
  | k + 1, b, d =>
    let x := b % 1560
    let s := 390 * (g % 4)
    if d = 0 then b
    else if s ≤ x ∧ x < s + 48 then spanRun g k (b + (s + 48 - x)) d
    else
      let room : Nat := if x < s then s - x else 1560 - x + s
      if d ≤ room then b + d else spanRun g k (b + room) (d - room)

/-- E of a command that uses P: T0 and its duration, over the refresh slots of its group (R232). -/
def spanEnd (g t0 d : Nat) : Nat := spanRun g (2 * (d / 1512) + 4) t0 d

/-- The BCLK of beat `j` of such a span. -/
def spanBeat (g t0 j : Nat) : Nat := spanEnd g t0 (j + 1) - 1

/-- How many of the BCLK before `n` lie in refresh slots of `g`. -/
def refreshCount (g n : Nat) : Nat := n / 1560 * 48 + min 48 (n % 1560 - 390 * (g % 4))

/-- Which BCLK of a span from `t0` outside refresh slots BCLK `b` is. -/
def spanIndex (g t0 b : Nat) : Nat := (b - t0) - (refreshCount g b - refreshCount g t0)

/-! ### Matrices (R239, R240) -/

/-- Elements of a unit of the carrel matrix format, and of a block; none for binary16. -/
def matUnit (fmt : Nat) : Nat := if fmt = 0 then 4096 else 8192
def matBlk (fmt : Nat) : Nat := if fmt = 0 then 16 else 32
/-- X of a DOT. -/
def dotX (fmt nk : Nat) : Nat := if fmt < 2 then up nk (matUnit fmt) else 0

/-- Duration D of the command table. -/
def carD (r : CarRec) : Nat :=
  let n := crN r
  match crOp r with
  | 0x01 => n * crP0 r / 128 + dotX (crFlags r % 4) (n * crP0 r)
  | 0x02 => n / 32
  | 0x03 => n / 32
  | 0x04 => n / 32
  | 0x05 => n / 8
  | 0x06 => n / 32
  | 0x07 => 16 * n
  | 0x08 => 16 * n
  | 0x09 => n / 256
  | 0x0A => up n 32 + 2 * crP0 r
  | 0x0B => 16 * n
  | 0x0C => n / 256
  | 0x10 => n / 128
  | 0x11 => n / 256
  | 0x12 => n / 128
  | 0x18 => 1
  | 0x1A => 1
  | _ => 0

/-- The resources a command uses: 1 P, 2 L, 3 XR, 4 XW (R231). -/
def carUses (r : CarRec) : List Nat :=
  match crOp r with
  | 0x01 => [1, 2]
  | 0x02 => [1, 2]
  | 0x03 => [1, 2]
  | 0x04 => [1, 2]
  | 0x05 => [1, 2]
  | 0x06 => [1, 2]
  | 0x07 => if crBit r 5 then [1, 4] else [1]
  | 0x08 => [1]
  | 0x09 => [1]
  | 0x0A => if crBit r 0 then [1, 2] else [2]
  | 0x0B => [1, 2]
  | 0x0C => [1]
  | 0x10 => [3]
  | 0x11 => [3]
  | 0x12 => [4]
  | 0x18 => [4]
  | 0x1A => [4]
  | _ => []

/-- BCLK from E to the result (command table). -/
def carLat (r : CarRec) : Nat :=
  let csm := crBit r 5
  match crOp r with
  | 0x01 => if csm then 20 else 8
  | 0x04 => 16
  | 0x07 => if csm then 20 else 8
  | 0x10 => 12
  | 0x11 => 12
  | 0x12 => 20
  | 0x18 => 0
  | 0x1A => 0
  | _ => 8

/-- Unit size of GATHER and SCATTER (R246). -/
def carU (r : CarRec) : Nat := 256 * 2 ^ (crFlags r % 4)

/-- Bytes of `n` elements in the carrel matrix format. -/
def matBytes (b32f : Bool) (n : Nat) : Nat :=
  let fmt : Nat := if b32f then 1 else 0
  2 * n + 256 * up n (matUnit fmt)

/-- BM ranges a command reads, as (offset, bytes); the units of GATHER, SCATTER and ATOM come from their lists. -/
def carBmReads (r : CarRec) : List (Nat × Nat) :=
  let n := crN r
  match crOp r with
  | 0x01 => [(crA r, 2 * n * crP0 r + 256 * dotX (crFlags r % 4) (n * crP0 r))]
  | 0x02 => [(crA r, 4 * n)]
  | 0x03 => [(crA r, 4 * n)]
  | 0x04 => [(crA r, 4 * n)]
  | 0x05 => [(crA r, 12 * n), (crB r, if crBit r 1 then 2 * n else 4 * n)]
  | 0x06 => [(crA r, if crBit r 1 then 2 * n else 4 * n)]
  | 0x09 => [(crA r, n)]
  | 0x0A => if crBit r 0 then [(crA r, 256 * up n 64)] else []
  | 0x0C => if crBit r 0 then [] else [(crA r, n)]
  | _ => []

/-- BM ranges a command writes. -/
def carBmWrites (r : CarRec) : List (Nat × Nat) :=
  let n := crN r
  match crOp r with
  | 0x02 => [(crA r, 4 * n)]
  | 0x03 => [(crA r, 4 * n)]
  | 0x05 => [(crA r, 12 * n), (crDst r, matBytes (crBit r 0) n)]
  | 0x06 => [(crB r, matBytes (crBit r 0) n)]
  | 0x0C => if crBit r 0 then [(crA r, n)] else []
  | _ => []

/-- Bytes of the result at DST. -/
def carDstLen (r : CarRec) : Nat :=
  match crOp r with
  | 0x01 => if crBit r 4 then 2 * crN r else 4 * crN r
  | 0x04 => 4
  | 0x07 => carU r * crN r
  | 0x09 => 4
  | 0x0A => 8 * crP0 r
  | _ => 0

/-- Scratch ranges a command reads. -/
def carScrReads (r : CarRec) : List (Nat × Nat) :=
  let n := crN r
  match crOp r with
  | 0x01 => (crS r, 2 * crP0 r) :: (if crBit r 2 && !crBit r 5 then [(crDst r, 4 * n)] else [])
  | 0x02 => [(crS r, 4 * n)]
  | 0x05 => [(crS r, 32)]
  | 0x07 => [(crS r, 4 * n)]
  | 0x08 => [(crS r, 4 * n), (crP0 r, carU r * n)]
  | 0x0A => if crBit r 0 then [] else [(crS r, 4 * n)]
  | 0x0B => [(crS r, 16 * n)]
  | 0x0C => if crBit r 0 then [(crS r, n)] else []
  | 0x12 => [(crS r, n)]
  | _ => []

/-- Scratch ranges a command writes. -/
def carScrWrites (r : CarRec) : List (Nat × Nat) :=
  let n := crN r
  match crOp r with
  | 0x0B => [(crS r, 16 * n)]
  | 0x0C => if crBit r 0 then [] else [(crS r, n)]
  | 0x10 => [(crS r, n)]
  | 0x11 => [(crS r, n)]
  | _ => if crBit r 5 ∨ carDstLen r = 0 then [] else [(crDst r, carDstLen r)]

/-- CSM ranges a command reads. -/
def carCsmReads (r : CarRec) : List (Nat × Nat) :=
  match crOp r with
  | 0x01 => if crBit r 2 && crBit r 5 then [(crDst r, 4 * crN r)] else []
  | 0x10 => [(crB r, crN r)]
  | 0x11 => [(crB r, crN r)]
  | _ => []

/-- CSM ranges a command writes. -/
def carCsmWrites (r : CarRec) : List (Nat × Nat) :=
  match crOp r with
  | 0x12 => [(crB r, crN r)]
  | _ => if crBit r 5 ∧ carDstLen r ≠ 0 then [(crDst r, carDstLen r)] else []

/-! ### Computing -/

/-- The word `i` of `k` bytes at an address. -/
def word (hw : Hw) (a k i : Nat) : Nat := hw.num (a + k * i) k

def f32s (hw : Hw) (a n : Nat) : List Nat := (List.range n).map (word hw a 4)

/-- A binary32 or binary16 array as numbers. -/
def floats (hw : Hw) (half : Bool) (a n : Nat) : List Num :=
  (List.range n).map (fun i => if half then decF b16 (word hw a 2 i) else decF b32 (word hw a 4 i))

/-- The address of DST. -/
def carDst (c : Nat) (r : CarRec) : Nat := if crBit r 5 then csmAt (crDst r) else carScr c (crDst r)

/-- Element e of a matrix at `a` (R239). -/
def matVal (hw : Hw) (fmt a e : Nat) : Num :=
  if fmt = 2 then decF b16 (hw.num (a + 2 * e) 2)
  else
    let u := matUnit fmt
    let base := a + e / u * (256 + 2 * u)
    rhVal (hw.num (base + 256 + 2 * (e % u)) 2) (hw.byte (base + e % u / matBlk fmt))

/-- One element of a matrix-vector product (R77, R240). -/
def dotRow (hw : Hw) (fmt a x k row acc : Nat) : Nat :=
  let n := if fmt = 0 then 16 else 32
  (List.range (k / n)).foldl (fun acc i =>
    dotStep acc ((List.range n).map (fun j =>
      (matVal hw fmt a (row * k + i * n + j), decF b16 (hw.num (x + 2 * (i * n + j)) 2))))) acc

/-- A zero that leaves the lanes is +0 (R61). -/
def plusZero (f : Fmt) (y : Nat) : Nat := if y = f.signBit then 0 else y

/-- What RELU and OUT16 do to a result (R240). -/
def dotOut (r : CarRec) (y : Nat) : List Byte :=
  let pos := match decF b32 y with
    | .fin s m _ => !s && decide (m ≠ 0)
    | .inf s => !s
    | .nan _ => false
  let z := if crBit r 3 && !pos then 0 else y
  if crBit r 4 then leBytes (plusZero b16 (encF b16 (decF b32 z)).1) 2 else leBytes (plusZero b32 z) 4

/-- DOT: the accumulator of row i starts at `acc` i. -/
def carDot (hw : Hw) (c : Nat) (r : CarRec) (acc : Nat → Nat) : List Byte :=
  (List.range (crN r)).flatMap (fun row =>
    dotOut r (dotRow hw (crFlags r % 4) (carBm hw c (crA r)) (carScr c (crS r)) (crP0 r) row (acc row)))

/-- A DOT that adds to what CSM holds reads its y there, as lines of its own (log entry 10). -/
def dotReads (r : CarRec) : Bool := decide (crOp r = 0x01) && crBit r 2 && crBit r 5

/-- Where such a DOT keeps its results until they are written; no address of the cluster. -/
def dotPlace : Nat := 2 ^ 50

/-- Lines of such a y. -/
def dotLines (r : CarRec) : Nat := up (4 * crN r) 128

/-- a × x + y: whether the product is rounded before the sum is open; log entry 9. -/
def carMad (a x y : Nat) : Nat :=
  if Config.carrelFused then (fFma b32 false false a x y).1 else (fAdd b32 (fMul b32 a x).1 y).1

def carAxpy (hw : Hw) (c : Nat) (r : CarRec) : List Byte :=
  (List.range (crN r)).flatMap (fun i =>
    leBytes (carMad (crP0 r) (word hw (carScr c (crS r)) 4 i) (word hw (carBm hw c (crA r)) 4 i)) 4)

def carScale (hw : Hw) (c : Nat) (r : CarRec) : List Byte :=
  (List.range (crN r)).flatMap (fun i => leBytes (carMad (crP0 r) (word hw (carBm hw c (crA r)) 4 i) (crP1 r)) 4)

/-- The lanes of REDUCE and their tree (R242, R97). -/
def carReduce (hw : Hw) (c : Nat) (r : CarRec) : List Byte :=
  let xs := f32s hw (carBm hw c (crA r)) (crN r)
  let lane (j : Nat) : Option Nat :=
    let el := (List.range (xs.length / 32)).map (fun i => xs.getD (32 * i + j) 0)
    if crBit r 0 then
      match el with
      | [] => none
      | x :: l => some (l.foldl (fun a b => (fMax b32 a b).1) x)
    else some (el.foldl (fun a b => (fAdd b32 a b).1) 0)
  let op := if crBit r 0 then fMax b32 else fAdd b32
  leBytes ((treeRun op 5 ((List.range 32).map lane) .none).1.getD 0) 4

/-- One element of OPT: new w, m, v (R241). -/
def optOne (p : List Nat) (w m v g : Nat) : Nat × Nat × Nat :=
  let at_ (i : Nat) : Nat := p.getD i 0
  let mul (a b : Nat) : Nat := (fMul b32 a b).1
  let fma (a b c : Nat) : Nat := (fFma b32 false false a b c).1
  let m' := fma (at_ 0) m (mul (at_ 1) g)
  let v' := fma (at_ 2) v (mul (at_ 3) (mul g g))
  let u := (fDiv b32 m' (fAdd b32 (fSqrt b32 v').1 (at_ 5)).1).1
  ((fSub b32 w (fma (at_ 4) u (mul (at_ 6) w))).1, m', v')

/-- Values packed in the carrel matrix format (R239, R59). -/
def matPack (b32f : Bool) (vals : List Num) : List Byte :=
  let fmt : Nat := if b32f then 1 else 0
  (chunks (matUnit fmt) vals.length vals).flatMap (fun u =>
    let bs := (chunks (matBlk fmt) u.length u).map packBlock
    bytesAt (bs.map (fun b => b.2)) 0 256 ++ bs.flatMap (fun b => b.1.flatMap (fun x => leBytes x 2)))

/-- OPT: the new state and the copy. -/
def carOpt (hw : Hw) (c : Nat) (r : CarRec) : List Byte × List Byte :=
  let a := carBm hw c (crA r)
  let n := crN r
  let p := f32s hw (carScr c (crS r)) 8
  let g (i : Nat) : Nat :=
    if crBit r 1 then (encF b32 (decF b16 (word hw (carBm hw c (crB r)) 2 i))).1 else word hw (carBm hw c (crB r)) 4 i
  let l := (List.range n).map (fun i => optOne p (word hw a 4 i) (word hw (a + 4 * n) 4 i) (word hw (a + 8 * n) 4 i) (g i))
  (l.flatMap (fun x => leBytes x.1 4) ++ l.flatMap (fun x => leBytes x.2.1 4) ++ l.flatMap (fun x => leBytes x.2.2 4),
   matPack (crBit r 0) (l.map (fun x => decF b32 x.1)))

def carRerange (hw : Hw) (c : Nat) (r : CarRec) : List Byte :=
  matPack (crBit r 0) (floats hw (crBit r 1) (carBm hw c (crA r)) (crN r))

/-- Rank of TOPK: NaN above every number, −0 below +0, of equal values the lower index first (R243). -/
def topBefore (x y : Nat × Nat) : Bool :=
  let a := decF b32 x.1
  let b := decF b32 y.1
  if a.isNan ∨ b.isNan then (if a.isNan && b.isNan then decide (x.2 < y.2) else a.isNan)
  else if numLtZ b a then true
  else if numLtZ a b then false
  else decide (x.2 < y.2)

def topIns (x : Nat × Nat) : List (Nat × Nat) → List (Nat × Nat)
  | [] => [x]
  | y :: l => if topBefore x y then x :: y :: l else y :: topIns x l

def carTopk (hw : Hw) (c : Nat) (r : CarRec) : List Byte :=
  let src := if crBit r 0 then carBm hw c (crA r) else carScr c (crS r)
  let l := (List.range (crN r)).foldl (fun l i => (topIns (word hw src 4 i, i) l).take (crP0 r)) []
  l.flatMap (fun x => leBytes (if (decF b32 x.1).isNan then b32.nan else x.1) 4 ++ leBytes x.2 4)

/-- The group offset of the word an ATOM entry names, and its size (R244). -/
def atomWord (hw : Hw) (c : Nat) (r : CarRec) (j : Nat) : Nat × Nat :=
  (crA r + hw.num (carScr c (crS r) + 16 * j) 4, if crFlags r % 4 = 0 ∨ crFlags r % 4 = 3 then 8 else 4)

/-- The value an ATOM entry leaves in its word. -/
def atomNew (op old x : Nat) : Nat :=
  match op with
  | 0 => (old + x) % 2 ^ 64
  | 1 => (fAdd b32 old (x % 2 ^ 32)).1
  | 2 => (fMax b32 old (x % 2 ^ 32)).1
  | _ => x

/-- Index `j` of a GATHER or SCATTER list. -/
def carIdx (hw : Hw) (c : Nat) (r : CarRec) (j : Nat) : Nat := word hw (carScr c (crS r)) 4 j

/-- A unit lies in the visible part of its group, outside the reserved region (R235). -/
def inGroup (hw : Hw) (o len : Nat) : Bool := decide (o + len ≤ reservedFrom hw)

/-- The fault class of entry `j` of a GATHER, SCATTER or ATOM list as scratch holds it now: 0 where the entry may be performed (R235,
R244, R246). -/
def carEntryBad (hw : Hw) (c : Nat) (r : CarRec) (j : Nat) : Nat :=
  if crOp r = 0x0B then
    let w := atomWord hw c r j
    if hw.num (carScr c (crS r) + 16 * j + 4) 4 ≠ 0 then cILLEGAL_INSTR
    else if w.1 % w.2 ≠ 0 then cACCESS_ALIGN
    else if inGroup hw w.1 w.2 then 0 else cACCESS_RANGE
  else if inGroup hw (crA r + carU r * carIdx hw c r j) (carU r) then 0 else cACCESS_RANGE

/-! ### Beats at the group port -/

/-- Beat `k` of a sequence of unit runs, each a first offset and a number of units. -/
def runBeat : List (Nat × Nat) → Nat → Option Nat
  | [], _ => none
  | x :: l, k => if k < x.2 then some (x.1 + 256 * k) else runBeat l (k - x.2)

/-- The beats of OPT and RERANGE, unit of the matrix format by unit: the sources one after the other, then the results (log entry 10). -/
def seqBeat (r : CarRec) (j : Nat) : Option Nat :=
  let nb : Nat := if crBit r 0 then 8192 else 4096
  let copy := 1 + nb / 128
  let src := if crBit r 1 then nb / 128 else nb / 64
  let at_ (a k : Nat) (blk : Nat) : Nat × Nat := (a + 256 * k * blk, k)
  let st (blk : Nat) : List (Nat × Nat) := (List.range 3).map (fun i => at_ (crA r + 4 * i * crN r) (nb / 64) blk)
  if crOp r = 0x05 then
    let blk := j / (nb / 8)
    runBeat (st blk ++ at_ (crB r) src blk :: (st blk ++ [at_ (crDst r) copy blk])) (j % (nb / 8))
  else
    let blk := j / (nb / 32)
    runBeat [at_ (crA r) src blk, at_ (crB r) copy blk] (j % (nb / 32))

/-- BCLK `j` of its span carries a beat of the command. A command that reads or writes fewer units than its span has BCLK reads in the
first of them (log entry 10). -/
def carUsesBclk (r : CarRec) (j : Nat) : Bool :=
  match crOp r with
  | 0x04 => decide (j < crN r / 64)
  | 0x05 => (seqBeat r j).isSome
  | 0x06 => (seqBeat r j).isSome
  | 0x07 => decide (j % 16 < carU r / 256)
  | 0x08 => decide (j % 16 < carU r / 256)
  | 0x0A => decide (j < up (crN r) 64)
  | 0x0B => decide (j % 16 < 2)
  | _ => true

/-- The group offset of that beat, where the command fixes it. -/
def carBeatOff (hw : Hw) (c : Nat) (r : CarRec) (j : Nat) : Option Nat :=
  if !carUsesBclk r j then none
  else match crOp r with
  | 0x02 => some (crA r + 256 * (j / 2))
  | 0x03 => some (crA r + 256 * (j / 2))
  | 0x05 => seqBeat r j
  | 0x06 => seqBeat r j
  | 0x07 => some (crA r + carU r * carIdx hw c r (j / 16) + 256 * (j % 16))
  | 0x08 => some (crA r + carU r * carIdx hw c r (j / 16) + 256 * (j % 16))
  | 0x0B => some ((atomWord hw c r (j / 16)).1 / 256 * 256)
  | _ => some (crA r + 256 * j)

/-- The command has a beat at the group port in BCLK `b`. -/
def carHolds (c : Nat) (o : CarOp) (b : Nat) : Bool :=
  decide (1 ∈ carUses o.cmd ∧ o.t0 ≤ b ∧ b < o.e) && !refreshBclk c b && carUsesBclk o.cmd (spanIndex c o.t0 b)

/-- 256-byte writes of a BM range, the i-th of `w` at the last BCLK of its share of the span (log entry 10). -/
def spread (g t0 d : Nat) (l : List (Nat × List Byte)) : List (Nat × List (Nat × Byte)) :=
  let us := l.flatMap (fun x => (chunks 256 x.2.length x.2).mapIdx (fun i b => (x.1 + 256 * i, b)))
  us.mapIdx (fun i u => (spanBeat g t0 ((i + 1) * d / us.length - 1), atAddr u.1 u.2))

/-- One write or captured read that a command performs: its BCLK, its address and length, and what it moves. -/
structure CarMove where
  at_ : Nat
  wr : Bool
  addr : Nat
  len : Nat
  data : BeatData
deriving DecidableEq, Repr

/-- A result that is known: into scratch at its landing; into CSM one line in each of the last BCLK before it (log entry 10). -/
def toDst (c : Nat) (r : CarRec) (land : Nat) (l : List Byte) : List CarMove :=
  if crBit r 5 then
    let ls := chunks 128 l.length l
    ls.mapIdx (fun i x =>
      let a := csmAt (crDst r) + 128 * i
      ⟨land - ls.length + i, true, a, x.length, .bytes (atAddr a x)⟩)
  else [⟨land, true, carScr c (crDst r), l.length, .bytes (atAddr (carScr c (crDst r)) l)⟩]

/-- Writes of bytes at their BCLK. -/
def toMoves (l : List (Nat × List (Nat × Byte))) : List CarMove :=
  l.map (fun w => ⟨w.1, true, (w.2.headD (0, 0)).1, w.2.length, .bytes w.2⟩)

/-- Captured bytes go to their place: one line at a time, a CSM line in each of the last BCLK before the landing. -/
def gotMoves (dst : Nat) (csm : Bool) (land n : Nat) (src : Nat) : List CarMove :=
  (List.range (up n 128)).map (fun i =>
    ⟨if csm then land - up n 128 + i else land, true, dst + 128 * i, min 128 (n - 128 * i), .got (src + 128 * i)⟩)

/-- What a command does to memory from T0 on, from its operands as they stand there; the entries of a list are read and performed as
their BCLK comes (R231, R232, R239–R246), and a DOT that reads y from CSM computes once it has the last line. Lines of CSM that are read,
and those of STV, are there from issue on (`carLines`). -/
def carMoves (hw : Hw) (c : Nat) (op : CarOp) : List CarMove :=
  let r := op.cmd
  let land := op.e + carLat r
  let d := carD r
  let steps (k : Nat) : List CarMove := (List.range k).map (fun j => ⟨spanBeat c op.t0 (16 * j), true, 0, 0, .step j⟩)
  match crOp r with
  | 0x01 =>
    if dotReads r then
      ⟨op.t0 + dotLines r, true, 0, 0, .step 0⟩ :: gotMoves (carDst c r) true land (carDstLen r) dotPlace
    else toDst c r land (carDot hw c r (fun i => if crBit r 2 then hw.num (carDst c r + 4 * i) 4 else 0))
  | 0x02 => toMoves (spread c op.t0 d [(carBm hw c (crA r), carAxpy hw c r)])
  | 0x03 => toMoves (spread c op.t0 d [(carBm hw c (crA r), carScale hw c r)])
  | 0x04 => toDst c r land (carReduce hw c r)
  | 0x05 =>
    let x := carOpt hw c r
    toMoves (spread c op.t0 d [(carBm hw c (crA r), x.1), (carBm hw c (crDst r), x.2)])
  | 0x06 => toMoves (spread c op.t0 d [(carBm hw c (crB r), carRerange hw c r)])
  | 0x07 => steps (crN r) ++ gotMoves (carDst c r) (crBit r 5) land (carU r * crN r) (carDst c r)
  | 0x08 => steps (crN r)
  | 0x09 => toDst c r land (leBytes (crc32c (if crBit r 0 then some (crP0 r) else none) (hw.bytes (carBm hw c (crA r)) (crN r))) 4)
  | 0x0A => toDst c r land (carTopk hw c r)
  | 0x0B =>
    (List.range (crN r)).flatMap (fun j =>
      let e := carScr c (crS r) + 16 * j + 8
      [⟨spanBeat c op.t0 (16 * j), true, 0, 0, .step (2 * j)⟩, ⟨spanBeat c op.t0 (16 * j + 1), true, 0, 0, .step (2 * j + 1)⟩,
       ⟨land, true, e, 8, .got e⟩])
  | 0x0C =>
    if crBit r 0 then toMoves (spread c op.t0 d [(carBm hw c (crA r), hw.bytes (carScr c (crS r)) (crN r))])
    else [⟨land, true, carScr c (crS r), crN r, .bytes (atAddr (carScr c (crS r)) (hw.bytes (carBm hw c (crA r)) (crN r)))⟩]
  | _ => []

/-- The lines of LDV, LDB and STV and of a DOT that reads y from CSM, known from issue on: one line in each BCLK from T0, LDB two, and
what LDV and LDB read lands in scratch at E + 12 (R231, R247; log entry 10). -/
def carLines (c : Nat) (op : CarOp) : List CarMove :=
  let r := op.cmd
  let b := csmAt (crB r)
  let sc := carScr c (crS r)
  let js := List.range (crN r / 128)
  let landed := js.map (fun j => (⟨op.e + carLat r, true, sc + 128 * j, 128, .got (b + 128 * j)⟩ : CarMove))
  match crOp r with
  | 0x01 =>
    if dotReads r then
      (List.range (dotLines r)).map (fun j =>
        ⟨op.t0 + j, false, csmAt (crDst r) + 128 * j, min 128 (4 * crN r - 128 * j), .read⟩)
    else []
  | 0x10 => js.map (fun j => ⟨op.t0 + j, false, b + 128 * j, 128, .read⟩) ++ landed
  | 0x11 => js.map (fun j => ⟨op.t0 + j / 2, false, b + 128 * j, 128, .read⟩) ++ landed
  | 0x12 => js.map (fun j => ⟨op.t0 + j, true, b + 128 * j, 128, .mem (sc + 128 * j)⟩)
  | _ => []

/-- The operands that a command reads at T0, and which must be good there. -/
def carOperands (hw : Hw) (c : Nat) (r : CarRec) : List (Nat × Nat) :=
  if dotReads r ∨ crOp r = 0x07 ∨ crOp r = 0x08 ∨ crOp r = 0x0B then []
  else (carBmReads r).map (fun x => (carBm hw c x.1, x.2)) ++ (carScrReads r).map (fun x => (carScr c x.1, x.2))

/-- The first uncorrectable word among ranges (R196). -/
def rangesBad (hw : Hw) (rs : List (Nat × Nat)) : Option Nat := rs.findSome? (fun x => badByte hw x.1 x.2)

/-- The words of ranges that a read corrects (R195). -/
def correctAll (rs : List (Nat × Nat)) (hw : Hw) : Hw := rs.foldl (fun h x => correct x.1 x.2 h) hw

/-! ### The engine -/

def noCar : Car := ⟨.idle, 0, 0, 0, false, none, [], [], []⟩
def Hw.car (hw : Hw) (c : Nat) : Car := hw.cars.getD c noCar
def Hw.modCar (c : Nat) (f : Car → Car) (hw : Hw) : Hw := { hw with cars := hw.cars.setIfInBounds c (f (hw.car c)) }

/-- An engine stops with a fault: the record, and CAR_PC at the command (R234). -/
def carFault (c : Nat) (r : FaultRec) (hw : Hw) : Hw :=
  (raise { r with unit := 0x40 + c } hw).modCar c (fun e =>
    { e with st := .stoppedFault, pc := r.instr, lastClass := r.cls, wait := none, ended := false })

/-- Take command `id` and the later ones of its engine away, with every beat, signal and arrival of theirs that has not been performed,
and with what the meter was to charge for those that have not begun (R219, R234, R236). -/
def carCancel (c id : Nat) (hw : Hw) : Hw :=
  let gone := ((hw.car c).ops.filter (fun o => decide (id ≤ o.id))).map (fun o => o.id)
  let sigs := ((hw.car c).ops.filter (fun o => decide (id ≤ o.id ∧ (crOp o.cmd = 0x18 ∨ crOp o.cmd = 0x1A)))).map (fun o => 2 * o.t0)
  let hw1 := { hw with
    beats := hw.beats.filter (fun b => b.fin || decide (b.unit ≠ 0x40 + c ∨ b.id ∉ gone))
    sync := { hw.sync with
      signals := hw.sync.signals.filter (fun s => s.added.isSome || decide (s.unit ≠ 0x40 + c ∨ s.add - 8 ∉ sigs))
      arrivals := hw.sync.arrivals.filter (fun a => decide (a.unit ≠ 0x40 + c ∨ a.cyc ∉ sigs)) } }
  let never := (hw.car c).ops.filter (fun o => decide (id ≤ o.id ∧ hw.now < 2 * o.t0))
  hw1.modCar c (fun e => { e with
    ops := e.ops.filter (fun o => decide (o.id < id))
    charges := e.charges.filter (fun x => !never.any (fun o => decide (o.pc = x.pc ∧ frameOf (2 * o.t0) = x.first))) })

/-- A command that meets a fault after its issue performs nothing more (R219, R234). -/
def carAbort (c : Nat) (op : CarOp) (r : FaultRec) (hw : Hw) : Hw := carCancel c op.id (carFault c { r with instr := op.pc } hw)

/-- The uncorrectable word at `a` stops the command that reads it (R196, R234). -/
def carPoison (c : Nat) (op : CarOp) (a : Nat) (hw : Hw) : Hw :=
  let key := wordOf (physOf hw a)
  countBad key (carAbort c op
    { cls := badClass key, sev := 2, unit := 0, instr := op.pc, addr := a, syn := Config.eccSyndrome key % 2 ^ 32 } hw)

/-- The carrels that an LDB names: bits of its mask (R247). -/
def ldbMask (r : CarRec) : Nat := crP0 r + 2 ^ 32 * crP1 r

/-- Two LDB have the same B, S and N. -/
def ldbSame (x y : CarRec) : Bool := decide (crOp x = 0x11 ∧ crOp y = 0x11 ∧ crB x = crB y ∧ crS x = crS y ∧ crN x = crN y)

/-- Every carrel that an LDB names has issued its own in the same BCLK (R247). -/
def ldbWhole (hw : Hw) (op : CarOp) : Bool :=
  (List.range 64).all (fun k => !nbit (ldbMask op.cmd) k || (hw.car k).ops.any (fun o => decide (o.t0 = op.t0) && ldbSame o.cmd op.cmd))

/-- A command's port and lanes reach its operands: what it writes is fixed from here on but for the entries of a list. A command that
meets an uncorrectable operand writes nothing and stops its engine (R196, R234). -/
def carStart (c : Nat) (op : CarOp) (hw : Hw) : Hw × List CarMove :=
  let hw1 := hw.modCar c (fun e => { e with ops := e.ops.map (fun o => if o.id = op.id then { o with started := true } else o) })
  if crOp op.cmd = 0x11 ∧ !ldbWhole hw op then
    (carAbort c op { cls := cSCHED_SLOT_CONFLICT, sev := 2, unit := 0, exp := hw.frame, act := hw.frame, syn := 0x32000005 } hw1, [])
  else
    let rs := carOperands hw c op.cmd
    match rangesBad hw rs with
    | some a => (carPoison c op a hw1, [])
    | none => (if crOp op.cmd = 0x12 then hw1 else correctAll rs hw1, carMoves hw c op)

/-- Capture `l` for operation `id` under the address `a`. -/
def capture (id a : Nat) (l : List Byte) (hw : Hw) : Hw :=
  let g : Got := ⟨id, a, l, none⟩
  { hw with got := hw.got ++ [g] }

/-- A byte that an operation's read beats returned. -/
def gotByte (gs : List Got) (a : Nat) : Byte :=
  match gs.find? (fun g => decide (g.addr ≤ a ∧ a < g.addr + g.bytes.length)) with
  | some g => g.bytes.getD (a - g.addr) 0
  | none => 0

/-- The first address of an operation whose word was uncorrectable (R196). -/
def gotBad (gs : List Got) : Option Nat := gs.findSome? (fun g => g.bad)

/-- The lines of a range of bytes. -/
def rangeOf (x : Nat × Nat) : List Nat := (List.range ((x.1 % 128 + x.2 + 127) / 128)).map (fun i => x.1 - x.1 % 128 + 128 * i)

/-- The handoff check of a command that reads the ranges `rd`, at its issue in BCLK `t`, and writes `wr`, at their landing in BCLK `land`
(R273). -/
def carRanges (hw : Hw) (c t land pc : Nat) (rd wr : List (Nat × Nat)) : Option FaultRec × Hw :=
  let u := 0x40 + c
  if hw.handoff.isEmpty ∧ hw.chkErr.isEmpty then (none, hw)
  else
    let read := firstEarly u (frameOf (2 * t)) pc (rd.flatMap rangeOf) hw
    match read.1 with
    | some _ => read
    | none => ((wr.flatMap rangeOf).findSome? (fun a => handoffFault hw u (frameOf (2 * land)) a pc true), read.2)

/-- GATHER, SCATTER and ATOM take their units from a list in scratch. -/
def isList (r : CarRec) : Bool := decide (crOp r = 0x07 ∨ crOp r = 0x08 ∨ crOp r = 0x0B)

/-- What entry `i` of a list reads and writes in BM, as scratch holds it now. -/
def listUnit (hw : Hw) (c : Nat) (r : CarRec) (i : Nat) : Nat × Nat :=
  if crOp r = 0x0B then
    let w := atomWord hw c r i
    (carBm hw c w.1, w.2)
  else (carBm hw c (crA r + carU r * carIdx hw c r i), carU r)
def listReads (r : CarRec) : Bool := decide (crOp r = 0x07 ∨ crOp r = 0x0B)
def listWrites (r : CarRec) : Bool := decide (crOp r = 0x08 ∨ crOp r = 0x0B)

/-- A DOT that has read the last line of its y from CSM computes (R240). -/
def dotStepAll (c : Nat) (op : CarOp) (hw : Hw) : Hw :=
  let r := op.cmd
  let rs := (carBmReads r).map (fun x => (carBm hw c x.1, x.2)) ++ (carScrReads r).map (fun x => (carScr c x.1, x.2))
  let gs := hw.got.filter (fun g => decide (g.id = op.id))
  match (gotBad gs).or (rangesBad hw rs) with
  | some a => carPoison c op a hw
  | none =>
    let y (i : Nat) : Nat := leNat ((List.range 4).map (fun k => gotByte gs (carDst c r + 4 * i + k)))
    capture op.id dotPlace (carDot hw c r y) (correctAll rs hw)

/-- Step `j` of a GATHER, SCATTER or ATOM, in its BCLK: its entry is read from scratch and judged then (log entry 58), its unit or word
is read and, for SCATTER and ATOM, written (R244, R246). -/
def listStep (c : Nat) (op : CarOp) (j : Nat) (hw : Hw) : Hw :=
  let r := op.cmd
  let i := if crOp r = 0x0B then j / 2 else j
  let bad := carEntryBad hw c r i
  let lst := if crOp r = 0x0B then (carScr c (crS r) + 16 * i, 16) else (carScr c (crS r) + 4 * i, 4)
  let u := listUnit hw c r i
  let rd := if crOp r = 0x08 then (carScr c (crP0 r + carU r * i), carU r) else u
  if crOp r = 0x0B ∧ j % 2 = 1 then
    match hw.got.find? (fun g => decide (g.id = op.id ∧ g.addr = lst.1 + 8)) with
    | some g => (hw.write (atAddr u.1 (leBytes (atomNew (crFlags r % 4) (leNat g.bytes) (hw.num (lst.1 + 8) 8)) u.2)) none).1
    | none => hw
  else match rangesBad hw [lst] with
  | some a => carPoison c op a hw
  | none =>
    if bad ≠ 0 then carAbort c op { cls := bad, sev := 2, unit := 0, exp := hw.frame, act := hw.frame } hw
    else
      let chk := if op.open_ then
          carRanges hw c (op.t0 - 24) (op.e + carLat r) op.pc (if listReads r then [u] else []) (if listWrites r then [u] else [])
        else (none, hw)
      match chk.1, rangesBad hw [rd] with
      | some f, _ => carAbort c op f chk.2
      | none, some a => carPoison c op a chk.2
      | none, none =>
        let hw1 := correctAll [lst, rd] chk.2
        if crOp r = 0x08 then (hw1.write (atAddr u.1 (hw.bytes rd.1 rd.2)) none).1
        else if crOp r = 0x07 then capture op.id (carDst c r + carU r * i) (hw.bytes u.1 u.2) hw1
        else capture op.id (lst.1 + 8) (leBytes (hw.num u.1 u.2) 8) hw1

/-- A step of a command in its BCLK. -/
def carStep (c : Nat) (op : CarOp) (j : Nat) (hw : Hw) : Hw :=
  if crOp op.cmd = 0x01 then dotStepAll c op hw else listStep c op j hw

/-- Operations of all engines that have reached T0 by cycle `t` and not started, first T0 first. -/
def carDue (hw : Hw) (t : Nat) : List (Nat × CarOp) :=
  let all := (hw.cars.toList.mapIdx (fun c e => (e.ops.filter (fun o => !o.started && decide (2 * o.t0 ≤ t))).map (fun o => (c, o)))).flatten
  all.foldl (fun l x =>
    (l.takeWhile (fun y => decide (y.2.t0 ≤ x.2.t0))) ++ x :: (l.dropWhile (fun y => decide (y.2.t0 ≤ x.2.t0)))) []

/-- From cycle `cyc` on, a command performs nothing more, for the reason that `syn` tells (R219). -/
def CarOp.lose (cyc syn : Nat) (o : CarOp) : CarOp :=
  { o with lost := some (match o.lost with
    | some l => if l.1 ≤ cyc then l else (cyc, syn)
    | none => (cyc, syn)) }

/-- The command has lost a beat by cycle `cyc`. -/
def CarOp.gone (cyc : Nat) (o : CarOp) : Bool :=
  match o.lost with
  | some l => decide (l.1 ≤ cyc)
  | none => false

/-- The command in whose beat of cycle `cyc` carrel `c` is engaged, if any. -/
def carAt (hw : Hw) (c cyc : Nat) : Option CarOp := (hw.car c).ops.find? (fun o => carHolds c o (cyc / 2) && !o.gone cyc)

end Sys2Proof.Machine
end

