-- ==== Sys2Proof/Machine/Meter.lean ====
section
/-!
DEFINITION. The power meter (spec/08, R269–R272): what each unit is charged for in a frame, and the first cycle of a frame in which the charge passes
PEAK or a unit is charged outside its mask.
-/
namespace Sys2Proof.Machine

/-! ### Charges (R134, R236, R269) -/

/-- A core's charge that covers frame `f` and has begun by cycle `t`; mode 1 is the array, 0 the vector unit. -/
def coreCharge (c : Core) (mode f t : Nat) : Option Charge :=
  c.charges.find? (fun x => decide (x.mode = mode ∧ x.first ≤ 6 * f + 5 ∧ 6 * f ≤ x.last ∧ x.first ≤ t))

def coreTokens (c : Core) (f t : Nat) : Nat :=
  (if (coreCharge c 1 f t).isSome then 28 else 0) + (if (coreCharge c 0 f t).isSome then 6 else 0)

/-- A beat of another unit that the group of carrel `c` served in frame `f`, up to cycle `t`. -/
def passed (hw : Hw) (c f t : Nat) : Bool :=
  hw.beats.any (fun b => decide (b.port = 512 + c ∧ frameOf b.cyc = f ∧ b.cyc ≤ t))

/-- The commands of a carrel that are charged in frame `f`. -/
def carCovers (hw : Hw) (c f t : Nat) : List Charge :=
  (hw.car c).charges.filter (fun x => decide (x.first ≤ f ∧ f ≤ x.last ∧ x.first ≤ frameOf t))

/-- The mode a carrel is charged for in frame `f`: 0 none, 1 pass-through, 2 binary32, 3 dot (R236). -/
def carCharge (hw : Hw) (c f t : Nat) : Nat := (carCovers hw c f t).foldl (fun m x => max m x.mode) (b2n (passed hw c f t))

/-- Tokens of a mode: dot 3, the others 2. -/
def modeTokens (m : Nat) : Nat := if m = 3 then 3 else if m = 0 then 0 else 2

/-- The charge of each unit in frame `f`: unit number and tokens, in ascending order. -/
def unitTokens (hw : Hw) (f t : Nat) : List (Nat × Nat) :=
  (List.finRange 8).map (fun n => (n.val, coreTokens (hw.core n) f t)) ++
  (List.range 64).map (fun c => (0x40 + c, modeTokens (carCharge hw c f t)))

def frameTokens (hw : Hw) (f t : Nat) : Nat := ((unitTokens hw f t).map (fun u => u.2)).sum

/-! ### Masks and attribution (R271, R272) -/

/-- A unit is charged outside the masks of the phase. -/
def outsideMask (hw : Hw) (f t u : Nat) : Bool :=
  let m := (hw.reg 0x200008).toNat
  if h : u < 8 then
    let c := hw.core ⟨u, h⟩
    ((coreCharge c 1 f t).isSome && !nbit m u) || ((coreCharge c 0 f t).isSome && !nbit m (8 + u))
  else carCharge hw (u - 0x40) f t ≠ 0 && !nbit (hw.reg64 0x200018) (u - 0x40)

/-- A unit's charge rose from the frame before. -/
def chargeRose (hw : Hw) (f t u : Nat) : Bool :=
  if h : u < 8 then decide ((f = 0 ∨ coreTokens (hw.core ⟨u, h⟩) (f - 1) (6 * f - 1) < coreTokens (hw.core ⟨u, h⟩) f t) ∧
    0 < coreTokens (hw.core ⟨u, h⟩) f t)
  else decide ((f = 0 ∨ modeTokens (carCharge hw (u - 0x40) (f - 1) (6 * f - 1)) < modeTokens (carCharge hw (u - 0x40) f t)) ∧
    0 < modeTokens (carCharge hw (u - 0x40) f t))

/-- The charge of a core that a TOKEN_OVERRUN is about: outside its mask, else the one that rose, else any. -/
def overCharge (hw : Hw) (c : Core) (u f t : Nat) : Option Charge :=
  let m := (hw.reg 0x200008).toNat
  let arr := coreCharge c 1 f t
  let vec := coreCharge c 0 f t
  let rose (mode : Nat) : Bool := f = 0 || (coreCharge c mode (f - 1) (6 * f - 1)).isNone
  if arr.isSome ∧ !nbit m u then arr
  else if vec.isSome ∧ !nbit m (8 + u) then vec
  else if arr.isSome ∧ rose 1 then arr
  else if vec.isSome ∧ rose 0 then vec
  else arr.or vec

/-- The address of the instruction, or the scratch offset of the record, whose issue raised the charge. -/
def chargePc (hw : Hw) (f t u : Nat) : Nat :=
  if h : u < 8 then (overCharge hw (hw.core ⟨u, h⟩) u f t).elim 0 (fun x => x.pc)
  else ((carCovers hw (u - 0x40) f t).find? (fun x => decide (x.mode = carCharge hw (u - 0x40) f t))).elim 0 (fun x => x.pc)

/-- The TOKEN_OVERRUN of frame `f`, if its conditions hold in cycle `t`. -/
def meterFault (hw : Hw) (f t : Nat) : Option FaultRec :=
  let us := unitTokens hw f t
  let sum := (us.map (fun u => u.2)).sum
  let peak := hw.fld 0x200004 0 9
  let out := us.find? (fun u => outsideMask hw f t u.1)
  if sum ≤ peak ∧ out.isNone then none
  else
    let rose := us.find? (fun u => chargeRose hw f t u.1)
    let u : Nat := (out.or (rose.or (us.find? (fun u => decide (0 < u.2))))).elim 0 (fun x => x.1)
    let pc := chargePc hw f t u
    some { cls := cTOKEN_OVERRUN, sev := 2, unit := u, instr := if u < 8 then pc else 0, act := f, addr := if u < 8 then 0 else pc,
           syn := sum % 512 + peak * 0x10000 + b2n out.isSome * 2 ^ 31 }

/-! ### When it is raised -/

/-- The cycles of frame `f` at which a charge begins, or is there from its first cycle on. -/
def chargeStarts (hw : Hw) (f : Nat) : List Nat :=
  let near (x : Charge) : List Nat := if x.first ≤ 6 * f + 5 ∧ 6 * f ≤ x.last then [max x.first (6 * f)] else []
  let cars := hw.cars.toList.flatMap (fun e => e.charges.flatMap (fun x => if x.first ≤ f ∧ f ≤ x.last then [6 * f] else []))
  let beats := hw.beats.flatMap (fun b => if 512 ≤ b.port ∧ b.port < 576 ∧ frameOf b.cyc = f then [b.cyc] else [])
  hw.cores.toList.flatMap (fun c => c.charges.flatMap near) ++ cars ++ beats

/-- The first cycle of the present frame, up to cycle `t`, in which the meter raises its fault; at most one in a frame (R271). -/
def meterFirst (hw : Hw) (t : Nat) : Option (Nat × FaultRec) :=
  let f := hw.frame
  if hw.tok = f + 1 then none
  else
    ((chargeStarts hw f).filter (fun x => decide (x ≤ t))).foldl (fun (m : Option (Nat × FaultRec)) x =>
      match m, meterFault hw f x with
      | some y, some r => if x < y.1 then some (x, r) else some y
      | some y, none => some y
      | none, some r => some (x, r)
      | none, none => none) none

/-- The meter has stopped unit `u` in a cycle before `t`: it issues nothing in cycle `t` (R272). -/
def meterStops (hw : Hw) (u t : Nat) : Bool :=
  match meterFirst hw (t - 1) with
  | some x => decide (x.2.unit = u ∧ x.1 < t)
  | none => false

end Sys2Proof.Machine
end

