-- ==== Sys2Proof/Machine/Cache.lean ====
section
/-!
DEFINITION. The data cache of a compute core (R198–R204): lookup at a load's bank slot, fill at landing, stride streams. The
cache holds which lines are valid; it never changes a value (R199), so no bytes stand in it.
-/
namespace Sys2Proof.Machine

def dcctl (hw : Hw) (n : Fin 8) (bit : Nat) : Bool := nbit (hw.reg (coreReg n 0x600)).toNat bit

/-- The set of a line number: address bits [12:7]. -/
def setOf (line : Nat) : Nat := line % 64

/-- The cache entry that holds a line: 8 × set + way. -/
def findLine (c : Core) (line : Nat) : Option (Nat × DLine) :=
  c.dlines.findSome? (fun e => match e.2 with
    | some d => if e.1 / 8 = setOf line ∧ d.tag = line / 64 then some (e.1, d) else none
    | none => none)

/-- The way of a set to fill: an invalid one, else the least recently used (R200). -/
def victimWay (c : Core) (set : Nat) : Nat :=
  let at_ (w : Nat) : Option DLine := tabGet (fun _ => none) c.dlines (8 * set + w)
  match (List.range 8).find? (fun w => (at_ w).isNone) with
  | some w => w
  | none =>
    ((List.range 8).foldl (fun (m : Nat × Option Nat) w => match at_ w, m.2 with
      | some d, some a => if d.age < a then (w, some d.age) else m
      | some d, none => (w, some d.age)
      | none, _ => m) (0, none)).1

def setLine (c : Core) (k : Nat) (d : Option DLine) : Core :=
  { c with dlines := tabPut (fun _ => none) k d c.dlines }

/-- Allocate a line, if it is not there already. -/
def fillLine (c : Core) (line : Nat) : Core :=
  match findLine c line with
  | some (k, d) => setLine { c with dclock := c.dclock + 1 } k (some { d with age := c.dclock })
  | none =>
    let k := 8 * setOf line + victimWay c (setOf line)
    setLine { c with dclock := c.dclock + 1 } k (some ⟨line / 64, false, c.dclock⟩)

/-- A miss of the load at `pc` on `line`, seen by the stride prefetcher: at most eight streams, the least recently seen gives
way (R204). -/
def seeMiss (c : Core) (pc line : Nat) : Core :=
  let others := c.streams.filter (fun s => decide (s.pc ≠ pc))
  let s' : PfStream := match c.streams.find? (fun s => decide (s.pc = pc)) with
    | none => ⟨pc, line, 0, 0, 0⟩
    | some s =>
      let d : Int := (line : Int) - s.line
      if d = s.stride ∧ 1 ≤ d ∧ d ≤ 8 then ⟨pc, line, d, s.hits + 1, s.ahead - 1⟩ else ⟨pc, line, d, 1, 0⟩
  { c with streams := s' :: others.take 7 }

/-- Does the cache serve a region? (spec/06: lines of CSM and of BM, in either view) -/
def cacheable (hw : Hw) (a : Nat) : Option Bool :=
  match regionOf hw a with
  | .bm _ _ => some true
  | .csm => some false
  | _ => none

/-- Lines of a range of bytes. -/
def rangeLines (r : RangeOp) (line : Nat) : Bool := decide (r.base / 128 ≤ line ∧ line ≤ (r.base + r.len - 1) / 128)

/-- An invalidation by the range engine is in progress and covers the line (R208). -/
def invalidating (c : Core) (line : Nat) : Bool :=
  match c.range with
  | some r => decide (r.op = 0 ∨ r.op = 2) && rangeLines r line
  | none => false

/-- CORE_RNG_STAT.DROPS counts `k` more marked fills. -/
def countDrops (n : Fin 8) (k : Nat) (hw : Hw) : Hw :=
  hw.setFld (coreReg n 0x618) 2 8 (min 255 (hw.fld (coreReg n 0x618) 2 8 + k))

/-- The load's lookup at its bank slot (R198, R200): a hit touches the line; a line with a parity error is invalidated and
counted, and served as a miss; a miss marks the load to fill its line if its memory is enabled, and a fill that an invalidation has
marked counts as dropped (R208). -/
def lookUp (unit id : Nat) (hw : Hw) : Hw :=
  if h : unit < 8 then
    let n : Fin 8 := ⟨unit, h⟩
    let c := hw.core n
    match c.loads.find? (fun o => decide (o.id = id)) with
    | none => hw
    | some o =>
      match o.dst, cacheable hw o.addr with
      | .chain _, _ => hw
      | _, none => hw
      | _, some bm =>
        let line := o.addr / 128
        let en := dcctl hw n (if bm then 1 else 0)
        let missed (c : Core) : Core :=
          let c := { c with loads := c.loads.map (fun x => if x.id = id then { x with alloc := en } else x) }
          if dcctl hw n 2 then seeMiss c o.pc line else c
        let count (h : Hw) : Hw := if en && o.rng then countDrops n 1 h else h
        match findLine c line with
        | none => count (hw.setCore n (missed c))
        | some (k, d) =>
          if d.perr then count ((hw.setCore n (missed (setLine c k none))).bump (coreReg n 0x604) 16 8)
          else hw.setCore n (fillLine c line)
  else hw

end Sys2Proof.Machine
end

