-- ==== Sys2Proof/Machine/Beats.lean ====
section
/-!
DEFINITION. Bank beats: which port an access uses and when (spec/08, "Travel times"), what a beat breaks at issue (R193, R219, R227),
meetings of exact-class requests at their cycle (R16, R193), the group port and the bank calendar (R217–R222), performing the beats
that have come due, and the handoff checks (R273). Beats are performed when something that depends on memory next happens, in the
order of their cycles.
-/
namespace Sys2Proof.Machine

/-- The bank port of an address: LM banks 0–127, CSM banks from 256, groups from 512, scratches from 1024 (R192, R193), the register space
4096, the tightly coupled memory 4097 (R523). -/
def portOf (hw : Hw) (a : Nat) : Nat :=
  match regionOf hw a with
  | .lm n => n * 16 + nbits a 7 4
  | .csm => 256 + nbits a 7 5
  | .bm g _ => 512 + g
  | .scratch c => 1024 + c
  | .tcm => 4097
  | _ => 4096

/-- The cycle of a load's or store's beat for port cycle `j` of an access issued at `c` (spec/08, "Travel times"). -/
def beatCyc (hw : Hw) (a c j : Nat) : Nat :=
  match regionOf hw a with
  | .lm _ => c + 1 + j
  | .csm => c + 9 + j
  | .bm _ _ => bclkAt (c + 40 + j)
  | _ => c + 1 + j

/-- The cycles a beat occupies its port: two for a CSM line (R193). -/
def beatSpan (hw : Hw) (a : Nat) : Nat :=
  match regionOf hw a with
  | .csm => 2
  | _ => 1

/-- L_mem of an address: 4, 22 or 96 cycles for LM, CSM or BM (R100, R194). -/
def latMem (hw : Hw) (a : Nat) : Nat :=
  match regionOf hw a with
  | .csm => 22
  | .bm _ _ => 96
  | _ => 4

/-- A read beat. -/
def readBeat (hw : Hw) (unit id pc c j a k : Nat) : Beat :=
  ⟨beatCyc hw a c j, beatSpan hw a, portOf hw a, unit, id, pc, none, false, a, k, .read, false⟩

/-- A write beat of the bytes `l`, whose first address is `a`. -/
def writeBeat (hw : Hw) (unit id pc c j a : Nat) (own : Option Nat) (l : List (Nat × Byte)) : Beat :=
  ⟨beatCyc hw a c j, beatSpan hw a, portOf hw a, unit, id, pc, own, true, a, l.length, .bytes l, false⟩

/-- Two beats meet at one port (R16, R193). -/
def meets (x y : Beat) : Bool :=
  decide (x.port = y.port ∧ x.port < 1024 ∧ x.cyc < y.cyc + y.span ∧ y.cyc < x.cyc + x.span)

/-- A beat of a group port. -/
def isGroup (b : Beat) : Bool := decide (512 ≤ b.port ∧ b.port < 576)

/-- The 256-byte unit of its group that an address lies in, in either view (R191, R217). -/
def groupUnit (hw : Hw) (a : Nat) : Nat :=
  match regionOf hw a with
  | .bm _ o => o / 256
  | _ => a / 256

/-- Two accesses of one requester that share one beat: one 256-byte unit of one group (R227). -/
def shares (hw : Hw) (x y : Beat) : Bool :=
  isGroup x && decide (x.unit = y.unit ∧ x.cyc = y.cyc) && decide (groupUnit hw x.addr = groupUnit hw y.addr)

/-- Two beats cannot both be performed. -/
def clashes (hw : Hw) (x y : Beat) : Bool := meets x y && !shares hw x y

/-- The row and bank a group beat reaches. -/
def beatRow (hw : Hw) (b : Beat) : Nat :=
  match regionOf hw b.addr with
  | .bm _ o => rowOf o
  | _ => 0
def beatBank (hw : Hw) (b : Beat) : Nat :=
  match regionOf hw b.addr with
  | .bm _ o => bankOf hw o
  | _ => 0

/-- A beat opens its bank unless the port's beat in the previous BCLK was to the same row (R218). -/
def opensBank (hw : Hw) (all : List Beat) (b : Beat) : Bool :=
  !all.any (fun p => decide (p.port = b.port ∧ p.cyc + 2 = b.cyc) && decide (beatRow hw p = beatRow hw b))

/-- `b` opens a bank that `p` opened less than 16 BCLK before (R218). -/
def breaks (hw : Hw) (all : List Beat) (p b : Beat) : Bool :=
  isGroup b && decide (p.port = b.port ∧ p.cyc < b.cyc ∧ b.cyc < p.cyc + 32) && decide (beatBank hw p = beatBank hw b) &&
    opensBank hw all b && opensBank hw all p

/-- Cycle `cyc` lies in the refresh slot of group `g`: 48 BCLK from BCLK 390 × (g mod 4) of each 1560 (R221). -/
def inRefresh (g cyc : Nat) : Bool :=
  let k := (cyc / 2) % 1560
  decide (390 * (g % 4) ≤ k ∧ k < 390 * (g % 4) + 48)

/-- The syndrome of a meeting at a port (R16, R193, R219). -/
def meetSyn (port reason : Nat) : Nat :=
  if port < 128 then 0x33000000 + (port / 16) * 256 + port % 16
  else if port < 512 then 0x33000000 + 8 * 256 + (port - 256)
  else 0x31000000 + (port - 512) * 256 + reason

/-- The beats that a carrel command has at its group port in BCLK `lo` to `lo + n − 1`, where it fixes their address. -/
def carBeats (hw : Hw) (c : Nat) (o : CarOp) (lo n : Nat) : List Beat :=
  (List.range n).filterMap (fun i =>
    let b := lo + i
    if carHolds c o b && !o.gone (2 * b) then
      (carBeatOff hw c o.cmd (spanIndex c o.t0 b)).map (fun x =>
        ⟨2 * b, 1, 512 + c, 0x40 + c, o.id, o.pc, none, false, carBm hw c x, 256, .read, false⟩)
    else none)

/-- Those of all commands of carrel `c` that tell whether a beat of cycle `cyc` keeps R218: the 16 BCLK before and after, and the one
before these. -/
def carNear (hw : Hw) (c cyc : Nat) : List Beat := (hw.car c).ops.flatMap (fun o => carBeats hw c o (cyc / 2 - 17) 34)

/-! ### What is known at issue -/

/-- The first new beat that breaks a rule known at issue: a meeting within one operation, or two units in one BCLK from one requester
(R193, R227); a refresh slot; an opening less than 16 BCLK after one already placed, of `all` or of a carrel command (R219). -/
def firstBad (hw : Hw) (old all : List Beat) (cars : Beat → List Beat) : List Beat → Option (Nat × Nat)
  | [] => none
  | b :: l =>
    let near := if isGroup b then all ++ cars b else []
    if l.any (fun p => clashes hw b p) || (isGroup b && old.any (fun p => decide (p.unit = b.unit) && clashes hw b p)) then
      some (meetSyn b.port 4, b.addr)
    else if isGroup b && inRefresh (b.port - 512) b.cyc then some (meetSyn b.port 1, b.addr)
    else if near.any (fun p => breaks hw near p b) then some (meetSyn b.port 2, b.addr)
    else firstBad hw old all cars l

/-- The fault at the issue of an operation with the beats `new`: syndrome and address. -/
def beatsBad (hw : Hw) (new : List Beat) : Option (Nat × Nat) :=
  firstBad hw hw.beats (hw.beats ++ new) (fun b => carNear hw (b.port - 512) b.cyc) new

/-- The same for a descriptor, of which only what lies within it and the refresh slots are known at its start (R219, R304). -/
def descBad (hw : Hw) (new : List Beat) : Option (Nat × Nat) := firstBad hw [] new (fun _ => []) new

/-- Beats stand in the order of cycle and unit; of one cycle, writes come first (R199). -/
def beatBefore (x y : Beat) : Bool :=
  decide (x.cyc < y.cyc) || (decide (x.cyc = y.cyc) && ((x.wr && !y.wr) ||
    (decide (x.wr = y.wr) && decide (x.unit < y.unit ∨ (x.unit = y.unit ∧ x.id ≤ y.id)))))

def insBeat (b : Beat) : List Beat → List Beat
  | [] => [b]
  | p :: l => if beatBefore p b then p :: insBeat b l else b :: p :: l

/-- A beat of another unit at a group port takes the beat that a carrel command has in that BCLK, and an opening of a bank those that
open it again too soon (R16, R219). -/
def takeSpan (hw : Hw) (b : Beat) : Hw :=
  let g := b.port - 512
  if !isGroup b ∨ 0x40 ≤ b.unit then hw
  else
    let lose (o : CarOp) : CarOp :=
      let o := if carHolds g o (b.cyc / 2) then o.lose b.cyc (meetSyn b.port 3) else o
      let near := hw.beats ++ carNear hw g b.cyc
      match (carBeats hw g o (b.cyc / 2 + 1) 15).find? (fun v => breaks hw near b v) with
      | some v => o.lose v.cyc (meetSyn b.port 2)
      | none => o
    hw.modCar g (fun e => { e with ops := e.ops.map lose })

/-- Place the beats of an operation. -/
def placeBeats (new : List Beat) (hw : Hw) : Hw :=
  let hw1 := { hw with beats := new.foldl (fun l b => insBeat b l) hw.beats }
  new.foldl takeSpan hw1

/-! ### Meetings at their cycle (R16, R193) -/

/-- Insert by unit number, an earlier operation of one unit first (log entry 74). -/
def insUnit (b : Beat) : List Beat → List Beat
  | [] => [b]
  | p :: l => if p.unit < b.unit ∨ (p.unit = b.unit ∧ p.id ≤ b.id) then p :: insUnit b l else b :: p :: l

/-- The beats of a port that are performed: those already performed, then in ascending unit number each that meets none of them (R193). -/
def chosen (hw : Hw) (ps : List Beat) : List Beat :=
  ((ps.filter (fun b => !b.fin)).foldl (fun l b => insUnit b l) []).foldl
    (fun cs b => if cs.any (fun p => clashes hw b p) then cs else cs ++ [b]) (ps.filter (fun b => b.fin))

/-- A step of a list command would open its bank too soon: its address is known only now (R218). -/
def stepBad (hw : Hw) (b : Beat) : Bool :=
  let c := b.unit - 0x40
  match b.data, (hw.car c).ops.find? (fun o => decide (o.id = b.id)) with
  | .step _, some o =>
    decide (crOp o.cmd ≠ 0x01) &&
    let before := hw.beats.filter (fun p => decide (p.port = 512 + c) && p.fin) ++ carNear hw c b.cyc
    (carBeats hw c o (b.cyc / 2) 1).any (fun v => before.any (fun p => breaks hw before p v))
  | _, _ => false

/-- Why a beat whose cycle has come is not performed, if so: the syndrome of a meeting lost, or of a bank opened too soon. -/
def beatLost (hw : Hw) (b : Beat) : Option Nat :=
  if 8192 ≤ b.port then (if stepBad hw b then some (meetSyn (512 + (b.unit - 0x40)) 2) else none)
  else if 1024 ≤ b.port then none
  else
    let ps := hw.beats.filter (fun p => decide (p.port = b.port))
    let cs := chosen hw ps
    if b ∉ cs then some (meetSyn b.port (if cs.any (fun p => decide (p.unit = b.unit) && clashes hw b p) then 4 else 3))
    else
      let near := if isGroup b then b :: ps.filter (fun p => p.fin) ++ carNear hw (b.port - 512) b.cyc else []
      if near.any (fun p => breaks hw near p b) then some (meetSyn b.port 2) else none

/-- What a write beat writes: its bytes, or the good data its operation read at an address; nothing if that read was lost or bad. -/
def beatBytes (hw : Hw) (b : Beat) : List (Nat × Byte) :=
  match b.data with
  | .bytes l => l
  | .got a =>
    let gs := hw.got.filter (fun g => decide (g.id = b.id ∧ g.addr ≤ a ∧ a < g.addr + g.bytes.length) && g.bad.isNone)
    if gs.isEmpty then [] else (List.range b.len).map (fun i => (b.addr + i, gotByte gs (a + i)))
  | .mem a => atAddr b.addr (hw.bytes a b.len)
  | .read => []
  | .given => []
  | .step _ => []

/-- Capture the uncorrectable word of address `a` for an operation. -/
def captureBad (id a : Nat) (hw : Hw) : Hw :=
  let g : Got := ⟨id, a, [], some a⟩
  { hw with got := hw.got ++ [g] }

/-- A move of a carrel command as a beat of its engine: a CSM line at its bank, anything else off the ports (its beats at the group port
are known by `carHolds`). -/
def carBeat (hw : Hw) (c : Nat) (op : CarOp) (m : CarMove) : Beat :=
  let csm := decide (regionOf hw m.addr = .csm)
  ⟨2 * m.at_, if csm then 2 else 1, if csm then portOf hw m.addr else 8192 + c, 0x40 + c, op.id, op.pc, none, m.wr, m.addr, m.len, m.data,
   false⟩

/-- Write the bytes of a write beat; the operation learns of the first byte that a bad word refuses (R197). -/
def writeOut (l : List (Nat × Byte)) (b : Beat) (hw : Hw) : Hw :=
  let r := hw.write l b.own
  match refusedBytes hw l with
  | [] => r.1
  | x :: _ => captureBad b.id x.1 r.1

/-- Perform one beat; a `given` one is a load that its cache serves, without a look at memory's check bits (R200). -/
def performBeat (hw : Hw) (b : Beat) : Hw :=
  match b.data with
  | .step j =>
    (match (hw.car (b.unit - 0x40)).ops.find? (fun o => decide (o.id = b.id)) with
     | some o => carStep (b.unit - 0x40) o j hw
     | none => hw)
  | .read =>
    let g : Got := ⟨b.id, b.addr, hw.bytes b.addr b.len, badByte hw b.addr b.len⟩
    lookUp b.unit b.id { correct b.addr b.len hw with got := hw.got ++ [g] }
  | .given =>
    let g : Got := ⟨b.id, b.addr, hw.bytes b.addr b.len, none⟩
    lookUp b.unit b.id { hw with got := hw.got ++ [g] }
  | .mem a =>
    (match badByte hw a b.len with
     | some e => captureBad b.id e hw
     | none => writeOut (beatBytes hw b) b (correct a b.len hw))
  | _ => writeOut (beatBytes hw b) b hw

/-- The read beat finds its line in the core's cache: the bank slot is free for a waiting request (R200). -/
def slotGiven (hw : Hw) (b : Beat) : Bool :=
  if h : b.unit < 8 then
    let c := hw.core ⟨b.unit, h⟩
    !b.wr && c.loads.any (fun o => decide (o.id = b.id) && !o.dst.isChain) && (cacheable hw b.addr).isSome &&
      (match findLine c (b.addr / 128) with
       | some (_, d) => !d.perr
       | none => false)
  else false

/-- A core stops with state `s`: it issues nothing from the cycle after `t` on, and an SWAIT is abandoned with CORE_PC at its address
(R106, R108). -/
def Core.stop (s : UState) (t : Nat) (c : Core) : Core :=
  { c with
    st := s
    pc := match c.wait with
      | some w => w.pc
      | none => c.pc
    grace := if c.st = .run ∧ !c.halting then some t else c.grace
    halting := false
    wait := none }

/-- A fault detected after issue, in the present cycle (R106). -/
def coreStopNow (n : Fin 8) (r : FaultRec) (hw : Hw) : Hw :=
  (raise { r with unit := n.val } hw).modCore n (fun c => { c.stop .stoppedFault hw.now with lastClass := r.cls })

/-- A unit loses a beat (R16, R219): a core stops as R106 states; a descriptor ends with the fault's status (R296, R304); a carrel command
performs nothing more, and every command of its broadcast load with it (R219, R247). -/
def loseBeat (syn : Nat) (b : Beat) (hw : Hw) : Hw :=
  let r : FaultRec :=
    { cls := cSCHED_SLOT_CONFLICT, sev := 2, unit := b.unit, instr := b.pc, exp := frameOf b.cyc,
      act := frameOf b.cyc, addr := b.addr, syn := syn }
  if h : b.unit < 8 then coreStopNow ⟨b.unit, h⟩ r hw
  else if b.unit < 0x18 then
    let mark (f : Flight) : Flight :=
      if f.id = b.id ∧ f.status = 0 then { f with status := r.cls, fail := b.addr, syn := r.syn, slotFrame := frameOf b.cyc } else f
    { hw with tes := hw.tes.map (fun ch => { ch with flights := ch.flights.map mark }) }
  else
    let with_ (o x : CarOp) : Bool := decide (x.id = o.id ∨ (crOp o.cmd = 0x11 ∧ crOp x.cmd = 0x11 ∧ x.t0 = o.t0 ∧ crB x.cmd = crB o.cmd))
    match (hw.car (b.unit - 0x40)).ops.find? (fun o => decide (o.id = b.id)) with
    | none => hw
    | some o =>
      { hw with cars := hw.cars.map (fun e => { e with ops := e.ops.map (fun x => if with_ o x then x.lose b.cyc syn else x) }) }

/-- The carrel command behind a beat has lost an earlier one. -/
def carGone (hw : Hw) (b : Beat) : Bool :=
  decide (0x40 ≤ b.unit) && ((hw.car (b.unit - 0x40)).ops.any (fun o => decide (o.id = b.id) && o.gone b.cyc))

/-- The beat's cycle has come: it is performed or lost, in its own cycle. One that a cache serves keeps its place among exact-class beats
(R193, R265). -/
def beatComes (hw : Hw) (b : Beat) : Hw :=
  if b ∉ hw.beats then hw
  else if carGone hw b then { hw with beats := hw.beats.erase b }
  else match beatLost hw b with
    | some syn => Hw.asOf b.cyc (loseBeat syn b) { hw with beats := hw.beats.erase b }
    | none =>
      let b' := if slotGiven hw b then { b with data := .given } else b
      Hw.asOf b.cyc (fun h => performBeat h b') { hw with beats := hw.beats.map (fun x => if x = b then { b' with fin := true } else x) }

/-- Every beat due by cycle `t` comes, in order; performed beats stay known for 16 BCLK, for R218. -/
def settleBeats (t : Nat) (hw : Hw) : Hw :=
  let due := hw.beats.filter (fun b => !b.fin && decide (b.cyc ≤ t))
  if due.isEmpty then hw
  else
    let hw1 := due.foldl beatComes hw
    { hw1 with beats := hw1.beats.filter (fun b => decide (t < b.cyc + 32)) }

/-- A carrel command starts after the beats of the cycles before its T0 (R231). -/
def startCar (hw : Hw) (x : Nat × CarOp) : Hw :=
  let r := carStart x.1 x.2 (settleBeats (2 * x.2.t0 - 1) hw)
  placeBeats (r.2.map (carBeat hw x.1 x.2)) r.1

/-- Everything that happens to memory by cycle `t`. -/
def settle (t : Nat) (hw : Hw) : Hw := settleBeats t ((carDue hw t).foldl startCar hw)

/-- Something happens to memory before cycle `t`. -/
def beatsDue (hw : Hw) (t : Nat) : Bool :=
  hw.beats.any (fun b => !b.fin && decide (b.cyc < t)) || hw.cars.any (fun e => e.ops.any (fun o => !o.started && decide (2 * o.t0 < t)))

/-- What happens to memory before cycle `t`, if anything does. -/
def settleBefore (t : Nat) (hw : Hw) : Hw := if beatsDue hw t then settle (t - 1) hw else hw

/-- What an operation's read beats returned so far. -/
def gotOf (hw : Hw) (id : Nat) : List Got := hw.got.filter (fun g => decide (g.id = id))

/-- Forget what an operation's beats returned. -/
def dropGot (id : Nat) (hw : Hw) : Hw := { hw with got := hw.got.filter (fun g => decide (g.id ≠ id)) }

end Sys2Proof.Machine
end

