-- ==== Sys2Proof/Machine/Operands.lean ====
section
/-!
DEFINITION. Instruction words: which instruction a 32-bit word is (R90, R91; the encoding tables of spec/03, spec/04, spec/05
and spec/13), its fields, and the rules of pairing (R81).
-/
namespace Sys2Proof.Machine

/-- The instructions of a compute core and of the control core. -/
inductive Mn where
  | add | sub | and | or | xor | sll | srl | sra | slt | sltu | min | max | minu | maxu | addw | subw | jalr
  | addi | andi | ori | xori | slti | slli | srli | srai
  | ldb | ldh | ldw | ldd | ldbu | ldhu | ldwu | stb | sth | stw | std
  | beq | bne | blt | bge | bltu | bgeu | jal | ldk | ldks | shk
  | mul | mulh | mulhu | div | divu | rem | remu | clz | ctz | popc
  | vadd | vsub | vmul | vmin | vmax | vabs | vneg | vdiv | vsqrt | vfma | vfms | vfnma | vfnms
  | viadd | visub | vimul | vand | vor | vxor | vshl | vshr | vsra
  | vcmpeq | vcmplt | vcmple | vcmpun | vicmpeq | vicmplt | vicmpltu | pand | por | pxor | pnot
  | vld | vst | vldb32 | vldb16 | vredadd | vredmax | vredmin | vperm | vslideup | vslidedn
  | vbcast32 | vbcast16 | vext | vins | vmov | vcvths | vcvtsh | vcvtsw | vcvtws
  | fcfg | fld | fldx | fst | fstx | frel | fsave | frstr | frsm | mma | mmaDual | mmaSeq | mmac | ard | chn
  | ssig | swait | stake | barr | txq | trap | eret | fence | idle | halt | mfsr | mtsr | rdfrm | rdpos
  | wpush | wpop | tret | wspill | wfill | bcopy | csave | wfi | ktrap
deriving DecidableEq, Repr

/-! ### Fields -/

/-- Bits [lo + n − 1 : lo] of an instruction word. -/
def wf (w : W32) (lo n : Nat) : Nat := fieldOf w lo n

/-- Major class, bits [31:27] (R90). -/
def classOf (w : W32) : Nat := wf w 27 5
def rdOf (w : W32) : Nat := wf w 22 5
def rs1Of (w : W32) : Nat := wf w 17 5
def rs2Of (w : W32) : Nat := wf w 12 5
/-- imm13 of format I, sign-extended. -/
def imm13Of (w : W32) : Int := nsigned (wf w 0 13) 13
/-- imm14 of formats M and B, sign-extended. -/
def imm14Of (w : W32) : Int := nsigned (wf w 0 14) 14
/-- imm22 of format J, sign-extended. -/
def imm22Of (w : W32) : Int := nsigned (wf w 0 22) 22
/-- imm16 of format K. -/
def imm16Of (w : W32) : Nat := wf w 4 16
/-- imm12 of format S. -/
def imm12Of (w : W32) : Nat := wf w 0 12
/-- Predicate field of format V. -/
def pgOf (w : W32) : Nat := wf w 9 3
/-- func[8], the width selector of format V: true for 16-bit lanes. -/
def wideOf (w : W32) : Bool := nbit w.toNat 8

/-! ### Decoding (R90, R91) -/

/-- The row of a list that stands at a place, if there is one. -/
def nthMn (l : List Mn) (i : Nat) : Option Mn := l[i]?

/-- Class 0x00, func[11:0]. -/
def decR0 (f : Nat) : Option Mn :=
  if f = 0x010 then some .addw else if f = 0x011 then some .subw else if f = 0x040 then some .jalr
  else nthMn [.add, .sub, .and, .or, .xor, .sll, .srl, .sra, .slt, .sltu, .min, .max, .minu, .maxu] f

/-- Class 0x07, func[11:0]. -/
def decR7 (f : Nat) : Option Mn :=
  if f < 3 then nthMn [.mul, .mulh, .mulhu] f
  else if 4 ≤ f ∧ f < 8 then nthMn [.div, .divu, .rem, .remu] (f - 4)
  else if 0x10 ≤ f then nthMn [.clz, .ctz, .popc] (f - 0x10)
  else none

/-- Class 0x0B: a destination, and for the predicate logic also a source, above p7 is illegal (R91). -/
def decCmp (w : W32) : Option Mn :=
  let f := wf w 0 8
  if rdOf w > 7 then none
  else if f < 4 then nthMn [.vcmpeq, .vcmplt, .vcmple, .vcmpun] f
  else if 8 ≤ f ∧ f < 11 then nthMn [.vicmpeq, .vicmplt, .vicmpltu] (f - 8)
  else if f = 0x13 then (if rs1Of w > 7 then none else some .pnot)
  else if 0x10 ≤ f ∧ f < 0x13 then
    (if rs1Of w > 7 ∨ rs2Of w > 7 then none else nthMn [.pand, .por, .pxor] (f - 0x10))
  else none

/-- Class 0x0E, func[8:0]. -/
def decVE (f : Nat) : Option Mn :=
  if f < 5 then nthMn [.vbcast32, .vbcast16, .vext, .vins, .vmov] f
  else if 0x10 ≤ f then nthMn [.vcvths, .vcvths, .vcvtsh, .vcvtsh, .vcvtsw, .vcvtws] (f - 0x10)
  else none

/-- Classes 0x11 and 0x12 (R116, R119). -/
def decFolio (w : W32) (a b : Mn) : Option Mn :=
  let op := wf w 8 2
  let conv := wf w 11 3
  if wf w 0 8 ≠ 0 ∨ op > 1 ∨ conv > 4 then none
  else if op = 0 then some a
  else if conv = 0 then some b else none

/-- Class 0x13. -/
def decSave (w : W32) : Option Mn :=
  let op := wf w 24 3
  if wf w 0 11 ≠ 0 ∨ (op ≠ 0 ∧ wf w 16 8 ≠ 0) ∨ ((op = 0 ∨ op = 3) ∧ wf w 11 5 ≠ 0) then none
  else nthMn [.frel, .fsave, .frstr, .frsm] op

/-- Class 0x14: MMA in its four forms. -/
def decMma (w : W32) : Option Mn :=
  if wf w 0 2 ≠ 0 then none
  else if nbit w.toNat 10 then (if wf w 11 16 ≠ 0 then none else some .mmaSeq)
  else if (nbit w.toNat 15 && nbit w.toNat 17) || (!nbit w.toNat 15 && decide (wf w 18 3 ≠ 0)) then none
  else if nbit w.toNat 14 then (if wf w 2 4 ≠ 0 then none else some .mmac)
  else if nbit w.toNat 15 then some .mmaDual
  else some .mma

/-- Class 0x1F, the control core's own instructions (spec/13): fields an operation does not use must be 0. -/
def decKc (w : W32) : Option Mn :=
  let op := rs2Of w
  if rdOf w ≠ 0 ∨ rs1Of w ≠ 0 ∨ (op ≠ 0 ∧ op ≠ 8 ∧ imm12Of w ≠ 0) then none
  else nthMn [.wpush, .wpop, .tret, .wspill, .wfill, .bcopy, .csave, .wfi, .ktrap] op

/-- Classes 0x00–0x07, which compute cores and the control core share (R406). -/
def decScalar (w : W32) : Option Mn :=
  match classOf w with
  | 0x00 => decR0 (wf w 0 12)
  | 0x01 => nthMn [.addi, .andi, .ori, .xori, .slti, .slli, .srli, .srai] (wf w 13 4)
  | 0x02 => nthMn [.ldb, .ldh, .ldw, .ldd, .ldbu, .ldhu, .ldwu] (wf w 14 3)
  | 0x03 => nthMn [.stb, .sth, .stw, .std] (wf w 14 3)
  | 0x04 => nthMn [.beq, .bne, .blt, .bge, .bltu, .bgeu] (wf w 14 3)
  | 0x05 => some .jal
  | 0x06 => if wf w 20 2 ≠ 0 then none else nthMn [.ldk, .ldks, .shk] (wf w 0 4)
  | 0x07 => decR7 (wf w 0 12)
  | _ => none

/-- The vector and special classes of a compute core. -/
def decVector (w : W32) : Option Mn :=
  match classOf w with
  | 0x08 => nthMn [.vadd, .vsub, .vmul, .vmin, .vmax, .vabs, .vneg, .vsqrt, .vdiv] (wf w 0 9)
  | 0x09 => nthMn [.vadd, .vsub, .vmul, .vmin, .vmax, .vabs, .vneg, .vsqrt, .vdiv] (wf w 0 9)
  | 0x0A => nthMn [.viadd, .visub, .vimul, .vand, .vor, .vxor, .vshl, .vshr, .vsra] (wf w 0 8)
  | 0x0B => decCmp w
  | 0x0C => nthMn [.vld, .vst, .vldb32, .vldb16] (wf w 14 3)
  | 0x0D =>
    let f := wf w 0 8
    if f < 3 then nthMn [.vredadd, .vredmax, .vredmin] f
    else if 0x10 ≤ f then nthMn [.vperm, .vslideup, .vslidedn] (f - 0x10) else none
  | 0x0E => decVE (wf w 0 9)
  | 0x0F => if wf w 0 1 ≠ 0 then none else nthMn [.vfma, .vfms, .vfnma, .vfnms] (wf w 2 2)
  | _ => none

/-- Classes 0x10–0x16. -/
def decArray (w : W32) : Option Mn :=
  match classOf w with
  | 0x10 => if wf w 22 2 = 3 ∨ wf w 19 3 > 3 ∨ wf w 0 5 ≠ 0 then none else some .fcfg
  | 0x11 => decFolio w .fld .fldx
  | 0x12 => decFolio w .fst .fstx
  | 0x13 => decSave w
  | 0x14 => decMma w
  | 0x15 => if wf w 0 23 ≠ 0 then none else some .ard
  | 0x16 => if wf w 0 20 ≠ 0 then none else some .chn
  | _ => none

/-- Classes 0x18, 0x1A and 0x1E; a count field of 0 is illegal. -/
def decSys (w : W32) : Option Mn :=
  let op := rs2Of w
  match classOf w with
  | 0x18 => if op < 3 ∧ imm12Of w = 0 then none else nthMn [.ssig, .swait, .stake, .barr] op
  | 0x1A => if op = 0 then some .txq else none
  | 0x1E =>
    if op = 3 ∧ imm12Of w = 0 then none
    else nthMn [.trap, .eret, .fence, .idle, .halt, .mfsr, .mtsr, .rdfrm, .rdpos] op
  | _ => none

/-- The instruction a compute core reads from a word; none where R91 makes it illegal. -/
def decodeCore (w : W32) : Option Mn :=
  let c := classOf w
  if c < 0x08 then decScalar w
  else if c < 0x10 then decVector w
  else if c < 0x17 then decArray w
  else decSys w

/-- The instruction the control core reads from a word (R406). -/
def decodeKc (w : W32) : Option Mn :=
  if classOf w < 0x08 then decScalar w else if classOf w = 0x1F then decKc w else none

/-! ### Pairing (R81) -/

/-- The word accesses memory, for R81: scalar and vector loads and stores, folio transfers, saves and CHN. -/
def isMemWord (w : W32) : Bool :=
  let c := classOf w
  decide (c = 0x02 ∨ c = 0x03 ∨ c = 0x0C ∨ c = 0x11 ∨ c = 0x12 ∨ c = 0x16 ∨ (c = 0x13 ∧ (wf w 24 3 = 1 ∨ wf w 24 3 = 2)))
def isVecWord (w : W32) : Bool := decide (0x08 ≤ classOf w ∧ classOf w ≤ 0x0F)
def isArrWord (w : W32) : Bool := decide (0x10 ≤ classOf w ∧ classOf w ≤ 0x16)

/-- Conditional branch, JAL, JALR, TRAP or ERET. -/
def isTransfer (m : Mn) : Bool :=
  match m with
  | .beq | .bne | .blt | .bge | .bltu | .bgeu | .jal | .jalr | .trap | .eret => true
  | _ => false

/-- Of class 0x18 or 0x1A, or a system instruction other than IDLE: it issues alone. -/
def issuesAlone (w : W32) (m : Mn) : Bool :=
  decide (classOf w = 0x18 ∨ classOf w = 0x1A) || (decide (classOf w = 0x1E) && decide (m ≠ .idle))

/-- The words of an aligned pair issue in one cycle (R81). -/
def pairs (w0 w1 : W32) : Bool :=
  match decodeCore w0, decodeCore w1 with
  | some m0, some m1 =>
    !(isMemWord w0 && isMemWord w1) && !(isVecWord w0 && isVecWord w1) && !(isArrWord w0 && isArrWord w1) &&
    !isTransfer m0 && !issuesAlone w0 m0 && !issuesAlone w1 m1
  | _, _ => false

end Sys2Proof.Machine
end

