-- ==== Sys2Proof/Machine/CoreIssue.lean ====
section
/-!
DEFINITION. How a compute core issues an instruction (R81–R89), what it checks (R85–R87, R98, R99, R120, R190) and how a fault
stops it (R105, R106).
-/
namespace Sys2Proof.Machine

/-! ### Faults of a core -/

/-- Raise a phase-fatal fault at the issue of the instruction at `pc`: it and all younger ones take no effect, CORE_PC holds its
address, the core stops (R105). -/
def coreFault (n : Fin 8) (r : FaultRec) (hw : Hw) : Hw :=
  (raise { r with unit := n.val } hw).modCore n (fun c =>
    { c with st := .stoppedFault, pc := r.instr, lastClass := r.cls, slot0 := none, idle := none, grace := none, halting := false })

/-- A record of a core's fault at cycle `cyc`: expected and actual frame are the frame of the cycle unless given. -/
def atIssue (n : Fin 8) (cls pc cyc addr syn : Nat) : FaultRec :=
  { cls := cls, sev := 2, unit := n.val, instr := pc, exp := frameOf cyc, act := frameOf cyc, addr := addr, syn := syn }

/-- A record with no frames. -/
def plainFault (n : Fin 8) (cls pc addr syn : Nat) : FaultRec :=
  { cls := cls, sev := 2, unit := n.val, instr := pc, addr := addr, syn := syn }

/-! ### Issue -/

/-- The cycle in which the core would issue the word at its pc: with its slot-0 partner if they pair (R81), else alone. -/
def issueCyc (c : Core) (w : W32) : Nat :=
  match c.slot0 with
  | some (t, w0) => if nbit c.pc 2 && pairs w0 w then t else c.next
  | none => c.next

/-! ### Folios, flags, and what rows do on their way -/

/-- Put bytes into a sparse table of bytes. -/
def tabBytes (l : List (Nat × Byte)) (t : List (Nat × Byte)) : List (Nat × Byte) :=
  l.foldl (fun t p => tabPut memReset p.1 p.2 t) t

def noFolio : Folio := ⟨0, [], [], false, false, landAt 0, landAt 0, [], []⟩
def Core.fol (c : Core) (f : Nat) : Folio := c.folios.getD f noFolio
def Core.setFol (f : Nat) (x : Folio) (c : Core) : Core := { c with folios := c.folios.setIfInBounds f x }

/-- Bits that operations set in the latest cycle that set any, with those that one sets in cycle `cyc`. -/
def setAt (cyc bits : Nat) (s : Nat × Nat) : Nat × Nat :=
  if bits = 0 then s
  else if s.1 = cyc then (cyc, s.2 ||| bits)
  else if s.1 < cyc then (cyc, bits)
  else s

/-- An operation sets flags of CORE_FPSTAT in cycle `cyc`; a write that clears them in that cycle does not (R75). -/
def setFp (n : Fin 8) (cyc bits : Nat) (hw : Hw) : Hw :=
  if bits = 0 then hw
  else (hw.orReg (coreReg n 0x404) bits).modCore n (fun c => { c with fpSet := setAt cyc bits c.fpSet })

/-- The same of CORE_CHNSTAT (R187). -/
def setChn (n : Fin 8) (cyc bits : Nat) (hw : Hw) : Hw :=
  if bits = 0 then hw
  else (hw.orReg (coreReg n 0x140) bits).modCore n (fun c => { c with chnSet := setAt cyc bits c.chnSet })

/-- The line of a state folio that a row writes (R182). -/
def Core.pass (e : RowEff) (c : Core) : Core :=
  match e.upd with
  | none => c
  | some u => c.setFol u.1 { c.fol u.1 with data := tabBytes (atAddr (u.2.1 * 128) u.2.2) (c.fol u.1).data }

/-- CORE_FPCTL.STRICT (R74). -/
def strict (hw : Hw) (n : Fin 8) : Bool := nbit (hw.reg (coreReg n 0x400)).toNat 0

/-- One row or slice passes a stage; outside strict mode it changes no flag of CORE_FPSTAT (R74). -/
def rowPasses (n : Fin 8) (e : RowEff) (hw : Hw) : Hw :=
  setFp n e.cyc (if strict hw n then e.fp else 0) (setChn n e.cyc e.chn (hw.modCore n (Core.pass e)))

/-- What rows and slices do in chains of core `n` by cycle `t`. -/
def rowsTo (n : Fin 8) (t : Nat) (hw : Hw) : Hw :=
  let es := (hw.core n).rows.filter (fun e => decide (e.cyc ≤ t))
  if es.isEmpty then hw
  else (es.foldl (fun h e => rowPasses n e h) hw).modCore n (fun c => { c with rows := c.rows.filter (fun e => decide (t < e.cyc)) })

/-! ### When an instruction issues -/

/-- Something of the core that comes before an issue in cycle `cyc` has not been reported: such an issue is not the next thing to happen.
What lands in a cycle can be read in it (R87, R121, R132). -/
def landingDue (c : Core) (cyc : Nat) : Bool :=
  c.loads.any (fun o => decide (o.land ≤ cyc)) || c.floads.any (fun o => decide (o.land ≤ cyc)) ||
  c.ops.any (fun o => decide (o.land ≤ cyc)) || c.mmacs.any (fun m => decide (m.at_ < cyc)) ||
  (match c.seq with
   | some q => decide (q.at_ < cyc)
   | none => false) ||
  (match c.restore with
   | some r => decide (r.land ≤ cyc)
   | none => false)

/-- The code word at an address of the resident code (R89, R205). -/
def fetchWord (c : Core) (a : Nat) : W32 :=
  BitVec.ofNat 32 (leNat ((List.range 4).map (fun i => tabGet memReset c.icode (a + i))))

/-- The address lies in the resident code (R205). -/
def resident (hw : Hw) (n : Fin 8) (a : Nat) : Bool :=
  let lo := (hw.reg (coreReg n 0x620)).toNat
  let base := (lo / 128) * 128 + 2 ^ 32 * hw.fld (coreReg n 0x624) 0 9
  let len := hw.fld (coreReg n 0x628) 0 17
  nbit lo 0 && decide (base ≤ a ∧ a < base + len)

/-- The core still issues in cycle `cyc`: it runs, or it was stopped in that cycle or later (R106, R108). -/
def Core.live (c : Core) (cyc : Nat) : Bool :=
  decide (c.st = .run) || (match c.grace with
    | some t => decide ((c.st = .stoppedFault ∨ c.st = .stopping) ∧ cyc ≤ t)
    | none => false)

/-- The core can issue: it runs, neither a hold (R279) nor the meter (R272) stops it, and nothing of it is due before. -/
def canIssue (hw : Hw) (n : Fin 8) (w : W32) : Bool :=
  let c := hw.core n
  let cyc := issueCyc c w
  c.live cyc && !c.halting && !hw.hold.held && coreOn hw n.val && !landingDue c cyc && !meterStops hw n.val cyc

/-- What the last instruction of a core that has stopped leaves: it stays stopped, an SWAIT is abandoned, and a HALT in the cycle of a
STOP ends in IDLE (R106, R108, R109). -/
def Core.stopped (s : UState) (c : Core) : Core :=
  if c.halting ∧ s = .stopping then { c with st := .run }
  else
    { c with
      st := if c.st = .stoppedFault then .stoppedFault else s
      pc := match c.wait with
        | some w => w.pc
        | none => c.pc
      halting := false
      wait := none }

/-- Issue the word `w` at core `n` as instruction `m`, and continue with its cycle and address. A word outside the resident code,
in a code word with an uncorrectable error, or one that R91 makes illegal, faults; a core that cannot issue, or whose next
instruction is another one, leaves everything as it is. -/
def withIssue (n : Fin 8) (m : Mn) (w : W32) (hw0 : Hw) (k : Nat → Nat → Hw → Hw) : Hw :=
  let t := issueCyc (hw0.core n) w
  let hw := rowsTo n (t - 1) (settleBefore t hw0)
  if !canIssue hw n w then (if meterStops hw n.val t then hw.at t else hw)
  else
    let c := hw.core n
    let cyc := issueCyc c w
    let v := checkKnown n.val 6 c.pc (frameOf cyc) (!resident hw n c.pc) (hw.at cyc)
    let hw1 := if c.pc / 8 ∈ c.isoft then Hw.bump (0xB00230 + 4 * n.val) 0 16 v.2 else v.2
    if v.1 then coreFault n (atIssue n cSCHED_LATE c.pc cyc c.pc 0x03000000) hw1
    else if c.ibad.any (fun a => decide (a = c.pc / 8)) then
      coreFault n (plainFault n cSRAM_UNCORRECTABLE c.pc c.pc 0) (hw1.bump 0xB00250 0 16)
    else if fetchWord c c.pc ≠ w then hw
    else match decodeCore w with
      | none => coreFault n (plainFault n cILLEGAL_INSTR c.pc 0 0) hw1
      | some m' =>
        if m' ≠ m then hw
        else if c.st = .run then k cyc c.pc hw1
        else (k cyc c.pc (hw1.setCore n { c with st := .run })).modCore n (Core.stopped c.st)

/-- Go on to the next instruction: sequential flow (R81, R82). -/
def advance (n : Fin 8) (w : W32) (cyc : Nat) (hw : Hw) : Hw :=
  hw.modCore n (fun c =>
    { c with
      pc := (c.pc + 4) % 2 ^ 41
      next := max c.next (cyc + 1)
      idle := match c.idle with
        | some t => if cyc < t ∧ nbit c.pc 2 then some t else none
        | none => none
      slot0 := if nbit c.pc 2 then none else some (cyc, w) })

/-- Transfer control: the target issues `d` cycles later (R82, R83, R103). Where an IDLE in slot 0 has the transfer as its partner, R82's
distance holds and the IDLE's count is dropped: a DESIGN CHOICE (log entry 83). -/
def jumpTo (n : Fin 8) (target cyc d : Nat) (hw : Hw) : Hw :=
  hw.modCore n (fun c => { c with pc := target % 2 ^ 41, next := cyc + d, slot0 := none, idle := none })

/-! ### Registers and their landings: file 0 is g, 1 is v, 2 is p -/

def regKey (file i : Nat) : Nat := file * 32 + i

def landOf (c : Core) (file i : Nat) : Land := tabGet (fun _ => landAt 0) c.sb (regKey file i)

/-- g0 reads as zero (R78). -/
def Core.gr (c : Core) (i : Nat) : W64 := if i = 0 then 0 else c.g.getD i 0
def Core.vr (c : Core) (i : Nat) : VReg := c.v.getD i 0
/-- p0 reads as all ones (R79). -/
def Core.pr (c : Core) (i : Nat) : W64 := if i = 0 then BitVec.allOnes 64 else c.p.getD i 0

/-- Write a register; writes to g0 and p0 are discarded (R78, R79). -/
def Core.setG (i : Nat) (x : W64) (c : Core) : Core := if i = 0 then c else { c with g := c.g.setIfInBounds i x }
def Core.setV (i : Nat) (x : VReg) (c : Core) : Core := { c with v := c.v.setIfInBounds i x }
def Core.setP (i : Nat) (x : W64) (c : Core) : Core := if i = 0 then c else { c with p := c.p.setIfInBounds i x }

/-- A register that never has a landing: g0 and p0. -/
def isFixed (r : Nat × Nat) : Bool := decide (r.2 = 0 ∧ r.1 ≠ 1)

/-- The syndrome of R85 and R86. -/
def regSyn (r : Nat × Nat) (early : Nat) : Nat := r.1 * 2 ^ 24 + r.2 * 2 ^ 16 + min early 255

/-- Check every register that the instruction reads (R85): the first that has not landed faults. -/
def withReads (n : Fin 8) (pc cyc : Nat) (rs : List (Nat × Nat)) (hw : Hw) (k : Hw → Hw) : Hw :=
  match rs with
  | [] => k hw
  | r :: l =>
    if isFixed r then withReads n pc cyc l hw k
    else
      let ld := landOf (hw.core n) r.1 r.2
      let v := checkLand n.val r.1 pc cyc ld hw
      if v.1 then
        coreFault n { cls := cSCHED_LATE, sev := 2, unit := n.val, instr := pc, exp := frameOf ld.cyc, act := frameOf cyc,
                      syn := regSyn r (ld.cyc - cyc) } v.2
      else withReads n pc cyc l v.2 k

/-- How many results may land in a register file in one cycle (R87). -/
def landLimit (file : Nat) : Nat := if file = 0 then 4 else 2

/-- Registers of a file whose result lands at `t`. -/
def landingsAt (c : Core) (file t : Nat) : Nat :=
  (c.sb.filter (fun e => decide (e.1 / 32 = file ∧ e.2.cyc = t))).length

/-- Check and enter the register that the instruction writes: a pending older result, or an excess landing, is a conflict (R86,
R87). -/
def withWrite (n : Fin 8) (pc cyc : Nat) (wr : Option (Nat × Nat)) (lat : Nat) (hw : Hw) (k : Hw → Hw) : Hw :=
  match wr with
  | none => k hw
  | some r =>
    if isFixed r then k hw
    else
      let c := hw.core n
      if cyc < (landOf c r.1 r.2).cyc ∨ landLimit r.1 ≤ landingsAt c r.1 (cyc + lat) then
        coreFault n (atIssue n cSCHED_SLOT_CONFLICT pc cyc 0 (regSyn r 0)) hw
      else k (hw.modCore n (fun c => { c with sb := tabPut (fun _ => landAt 0) (regKey r.1 r.2) (landAt (cyc + lat)) c.sb }))

/-- Issue an instruction that reads the registers `rs` and writes `wr` after `lat` cycles, and then changes the core by `f`. -/
def simple (n : Fin 8) (m : Mn) (w : W32) (rs : List (Nat × Nat)) (wr : Option (Nat × Nat)) (lat : Nat)
    (f : Nat → Hw → Hw) (hw : Hw) : Hw :=
  withIssue n m w hw (fun cyc pc hw =>
    withReads n pc cyc rs hw (fun hw =>
      withWrite n pc cyc wr lat hw (fun hw => f cyc (advance n w cyc hw))))

/-! ### Addresses and ports of loads and stores -/

/-- What R189 lets a core's instruction reach. -/
def corePerm (hw : Hw) (n : Fin 8) (a : Nat) : Bool :=
  match regionOf hw a with
  | .bm _ o => decide (o < reservedFrom hw)
  | .csm => true
  | .lm k => decide (k = n.val)
  | _ => false

/-- Alignment, range and permission of an effective address (R98, R99, R190). Of an address that is both misaligned and beyond 41 bits
the rules give no order: the model raises ACCESS_ALIGN, a DESIGN CHOICE (log entry 75). -/
def withAddr (n : Fin 8) (pc al : Nat) (ea : W64) (hw : Hw) (k : Nat → Hw) : Hw :=
  let a := ea.toNat
  if a % al ≠ 0 then coreFault n (plainFault n cACCESS_ALIGN pc (a % 2 ^ 59) 0) hw
  else if 2 ^ 41 ≤ a then coreFault n (plainFault n cACCESS_RANGE pc (a % 2 ^ 59) 0) hw
  else if !corePerm hw n a then coreFault n (plainFault n cACCESS_RANGE pc a 0) hw
  else k a

/-- The read port is free from `cyc` on (R120). -/
def withReadPort (n : Fin 8) (pc cyc : Nat) (hw : Hw) (k : Hw → Hw) : Hw :=
  if cyc < (hw.core n).rdPort then coreFault n (atIssue n cSCHED_SLOT_CONFLICT pc cyc 0 0x30000002) hw else k hw

/-- The write port is free in cycles `from` to `from + len − 1` (R120, R171). -/
def portFree (ps : List (Nat × Nat)) (start len : Nat) : Bool :=
  ps.all (fun p => decide (p.2 ≤ start ∨ start + len ≤ p.1))

def withWritePort (n : Fin 8) (pc cyc start len : Nat) (hw : Hw) (k : Hw → Hw) : Hw :=
  if portFree (hw.core n).wrPort start len then
    k (hw.modCore n (fun c => { c with wrPort := (start, start + len) :: c.wrPort.filter (fun p => decide (cyc < p.2)) }))
  else coreFault n (atIssue n cSCHED_SLOT_CONFLICT pc cyc 0 0x30000003) hw

/-- The beats of an access break no rule known at issue (R193, R219, R227), or the access faults there and performs nothing. -/
def withBeats (n : Fin 8) (pc cyc : Nat) (new : List Beat) (hw : Hw) (k : Hw → Hw) : Hw :=
  match beatsBad hw new with
  | some (syn, a) => coreFault n (atIssue n cSCHED_SLOT_CONFLICT pc cyc a syn) hw
  | none => k hw

/-- Check the lines of an access, with the cycle each lands at, against the handoff table (R273); a breach is recorded and stops the core
as R106 states. -/
def handoffCheck (n : Fin 8) (pc cyc : Nat) (wr : Bool) (lines : List (Nat × Nat)) (hw : Hw) : Hw :=
  if wr then
    match lines.findSome? (fun l => handoffFault hw n.val (frameOf l.2) l.1 pc true) with
    | some r => coreStopNow n r hw
    | none => hw
  else
    match firstEarly n.val (frameOf cyc) pc (lines.map (fun l => l.1)) hw with
    | (some r, h) => coreStopNow n r h
    | (none, h) => h

end Sys2Proof.Machine
end

