-- ==== Sys2Proof/Machine/Slots.lean ====
section
/-!
DEFINITION. Bank slots that the schedule leaves unassigned, and the background and ingress requests that wait for them (R17, R18,
R200, R217–R222, R264, R523); the walk of the range engine (R208).
-/
namespace Sys2Proof.Machine

/-! ### Unassigned slots -/

/-- A command of carrel `c` has its scratch port in BCLK `b`: from T0 to its span's end, and at its landing (log entry 78). -/
def carScratch (hw : Hw) (c b : Nat) : Bool :=
  (hw.car c).ops.any (fun o =>
    let wr := !(carScrWrites o.cmd).isEmpty
    ((wr || !(carScrReads o.cmd).isEmpty) && decide (o.t0 ≤ b ∧ b < o.e)) || (wr && decide (b = o.e + carLat o.cmd)))

/-- A beat of a background request as the port sees it. -/
def bgBeat (hw : Hw) (unit t a k : Nat) : Beat := ⟨t, beatSpan hw a, portOf hw a, unit, 0, 0, none, true, a, k, .read, true⟩

/-- A beat at `a` in cycle `t` keeps R218 against the compiled beats before and after it (R220). -/
def keepsSpacing (hw : Hw) (g t a : Nat) : Bool :=
  let b := bgBeat hw 0x18 t a 1
  let all := hw.beats.filter (fun p => decide (p.port = b.port ∧ p.cyc ≠ t)) ++ carNear hw g t
  !all.any (fun p => breaks hw (b :: all) p b || breaks hw (b :: all) b p)

/-- Cycle `t` is an unassigned slot of the port of address `a`, or one that a cache hit gives back, and serves an access there (R17, R200,
R220, R222, R523). -/
def slotFree (hw : Hw) (t a : Nat) : Bool :=
  let b := bgBeat hw 0x18 t a 1
  let used := hw.beats.any (fun p =>
    decide (p.port = b.port ∧ p.cyc < t + b.span ∧ t < p.cyc + p.span) && decide (p.data ≠ .given ∨ p.cyc ≠ t))
  match regionOf hw a with
  | .lm _ => !used
  | .csm => !used
  | .bm g _ => decide (t % 2 = 0) && !inRefresh g t && !used && (carAt hw g t).isNone && keepsSpacing hw g t a
  | .scratch c => decide (t % 2 = 0) && !used && !carScratch hw c (t / 2)
  | .tcm => !used
  | .regs _ => !used
  | .unpopulated => true

/-! ### Requests -/

def BgAcc.addr (x : BgAcc) : Nat :=
  match x with
  | .rd a _ => a
  | .wr a _ => a
  | .cp a _ _ => a

/-- Bytes of a slot at an address: a 256-byte unit of BM, a 128-byte line elsewhere (R217, R193). -/
def slotUnit (hw : Hw) (a : Nat) : Nat :=
  match regionOf hw a with
  | .bm _ _ => 256
  | _ => 128

/-- `k` bytes from `a`, cut at the units of the slots: place, address, length (fuel: more than the pieces). -/
def slotCut (hw : Hw) : Nat → Nat → Nat → Nat → List (Nat × Nat × Nat)
  | 0, _, _, _ => []
  | f + 1, off, a, k =>
    if k = 0 then []
    else
      let n := min k (slotUnit hw a - a % slotUnit hw a)
      (off, a, n) :: slotCut hw f (off + n) (a + n) (k - n)

def readAccs (hw : Hw) (a k : Nat) : List BgAcc := (slotCut hw (k + 1) 0 a k).map (fun x => .rd x.2.1 x.2.2)
def writeAccs (hw : Hw) (a : Nat) (l : List Byte) : List BgAcc :=
  (slotCut hw (l.length + 1) 0 a l.length).map (fun x => .wr x.2.1 (bytesAt l x.1 x.2.2))
def copyAccs (hw : Hw) (a k : Nat) : List BgAcc := (slotCut hw (k + 1) 0 a k).map (fun x => .cp x.2.1 x.2.2 x.1)

/-- A new request of a unit. -/
def bgNew (hw : Hw) (unit : Nat) (todo : List BgAcc) (what : BgWhat) : BgReq :=
  ⟨if what = .ring then 0 else unit + 1, unit, todo, [], none, [], hw.now, false, what, 0⟩

def bgAdd (b : BgReq) (hw : Hw) : Hw := { hw with bg := hw.bg ++ [b] }

/-- Firmware (unit 0x18) or the queue engine (0x19) writes bytes: the write waits for free slots (R17); once it is written the register
`reg` counts it, if one is named. -/
def post (unit reg a : Nat) (l : List Byte) (hw : Hw) : Hw := bgAdd (bgNew hw unit (writeAccs hw a l) (.post hw.nid reg)) hw.newId

/-- Posted writes that wait and that a register will count. -/
def posted (hw : Hw) (reg : Nat) : Nat :=
  (hw.bg.filter (fun b => match b.what with
    | .post _ r => decide (r = reg)
    | _ => false)).length

/-- The posted writes of a unit that wait are written now. -/
def postsNow (unit : Nat) (hw : Hw) : Hw :=
  hw.bg.foldl (fun h b => match b.what with
    | .post _ reg =>
      if b.unit ≠ unit then h
      else
        let h1 := b.todo.foldl (fun x y => match y with
          | .wr a l => x.store a l
          | _ => x) { h with bg := h.bg.erase b }
        if reg = 0 then h1 else h1.setReg reg (h1.reg reg + 1#32)
    | _ => h) hw

/-- No posted write of a unit waits. -/
def postsDone (hw : Hw) (unit : Nat) : Bool :=
  hw.bg.all (fun b => match b.what with
    | .post _ _ => decide (b.unit ≠ unit)
    | _ => true)

/-- Memory as firmware and the queue engine know it: with their own writes that still wait. -/
def Hw.seen (hw : Hw) (a k : Nat) : List Byte :=
  let laid (l : List Byte) (x : BgAcc) : List Byte := match x with
    | .wr p d => l.mapIdx (fun i v => if p ≤ a + i ∧ a + i < p + d.length then d.getD (a + i - p) 0 else v)
    | _ => l
  hw.bg.foldl (fun l b => match b.what with
    | .post _ _ => b.todo.foldl laid l
    | _ => l) (hw.bytes a k)

/-- The request of a kind, once its last access is served. -/
def bgDone (hw : Hw) (what : BgWhat) : Option BgReq := hw.bg.find? (fun b => decide (b.what = what) && b.todo.isEmpty)
def bgWaits (hw : Hw) (what : BgWhat) : Bool := hw.bg.any (fun b => decide (b.what = what))
def bgDrop (what : BgWhat) (hw : Hw) : Hw := { hw with bg := hw.bg.filter (fun b => decide (b.what ≠ what)) }

/-- The words of a range that are uncorrectable. -/
def badWords (hw : Hw) (a k : Nat) : List Nat :=
  if hw.bad.isEmpty then [] else ((List.range k).filterMap (fun i => if hw.isBad (a + i) then some (wordOf (physOf hw (a + i))) else none)).eraseDups

/-- The queue that records of a request's accesses name: none for ingress (R479). -/
def BgReq.source (b : BgReq) : QSrc :=
  match b.what with
  | .mesh _ _ => .none
  | .far _ _ _ _ => .none
  | _ => .auto

/-- Perform one access: the request after it, and the state (R195–R197). -/
def bgAccess (x : BgAcc) (b : BgReq) (hw : Hw) : BgReq × Hw :=
  let write (a : Nat) (l : List Byte) : BgReq × Hw :=
    let r := (hw.write (atAddr a l) none b.source).1
    match refusedBytes hw (atAddr a l) with
    | [] => (b, r)
    | e :: _ => ({ b with bad := b.bad.or (some e.1) }, countBad (wordOf (physOf hw e.1)) r)
  match x with
  | .rd a k =>
    let ws := badWords hw a k
    ({ b with bad := b.bad.or (badByte hw a k), bads := b.bads ++ ws, got := b.got ++ hw.bytes a k },
     ws.foldl (fun h w => countBad w h) (correct a k hw b.source))
  | .wr a l => write a l
  | .cp a k off => if b.bad.isSome then (b, hw) else write a (bytesAt b.got off k)

/-- The beat of a served access stays known at its port (R217, R218, R236). -/
def bgMark (unit t a k : Nat) (hw : Hw) : Hw :=
  { hw with beats := insBeat (bgBeat hw unit t a k) (hw.beats.filter (fun p => !p.fin || decide (t < p.cyc + 32))) }

/-- A prefetched line fills the cache, unless an invalidation of it is in progress (R200, R203, R208). -/
def prefetched (n : Fin 8) (line : Nat) (bad : Bool) (hw : Hw) : Hw :=
  if bad then hw
  else if invalidating (hw.core n) line then countDrops n 1 hw
  else hw.setCore n (fillLine (hw.core n) line)

/-- Loads that a cache serves in cycle `t` return what memory holds after every write of that cycle (R199). -/
def hitsAgain (t : Nat) (hw : Hw) : Hw :=
  let hits := hw.beats.filter (fun p => decide (p.cyc = t ∧ p.data = .given))
  if hits.isEmpty then hw
  else
    { hw with got := hw.got.map (fun g =>
        if hits.any (fun p => decide (p.id = g.id ∧ p.addr = g.addr ∧ g.bad = none)) then { g with bytes := hw.bytes g.addr g.bytes.length } else g) }

/-- The access of a completion record states in DONE the frame in which it is written (R345). -/
def dated (t : Nat) (w : BgWhat) (x : BgAcc) : BgAcc :=
  match w, x with
  | .cqe _, .wr a l => .wr a (overlay l 0x10 (leBytes (frameOf t) 8))
  | _, _ => x

/-- Serve the first access of request `b` in cycle `t`; `fin` is what a request of ingress does after its last one. -/
def bgServeAcc (fin : BgReq → Hw → Hw) (t : Nat) (b : BgReq) (hw : Hw) : Hw :=
  match b.todo with
  | [] => hw
  | x :: l =>
    let r := (fun (y : BgReq × Hw) => (y.1, hitsAgain t y.2)) (bgAccess (dated t b.what x) b (bgMark b.unit t x.addr 1 hw))
    let b' := { r.1 with todo := l, since := t, warned := false }
    let gone := { r.2 with bg := r.2.bg.erase b }
    let kept := { r.2 with bg := r.2.bg.map (fun y => if y = b then b' else y) }
    if !l.isEmpty then kept
    else match b.what with
      | .mesh _ _ => fin b' gone
      | .far _ _ _ _ => fin b' gone
      | .post _ reg => if reg = 0 then gone else gone.setReg reg (gone.reg reg + 1#32)
      | .prefetch n line => if h : n < 8 then prefetched ⟨n, h⟩ line b'.bad.isSome gone else gone
      | _ => kept

/-! ### The walk of the range engine (R208) -/

/-- Lines that a walk visits: those of the range, or all 512 entries of the cache for a longer one. -/
def walkLen (r : RangeOp) : Nat := (min r.len 0x10000 + 127) / 128

/-- The step of the walk that reaches a line of the range: the line itself, or its set (and the way of a cache entry). -/
def walkStep (r : RangeOp) (line way : Nat) : Nat := if r.len ≤ 0x10000 then line - r.base / 128 else 8 * setOf line + way

/-- The walk goes on to cycle `t`: visited lines leave the cache, and fills of them in flight are marked and counted. -/
def walkTo (n : Fin 8) (t : Nat) (hw0 : Hw) : Hw :=
  match (hw0.core n).range with
  | none => hw0
  | some r0 =>
    match (if r0.op = 0 ∨ r0.op = 2 then r0.walkAt else none) with
    | none => hw0
    | some w =>
      if t < w then hw0
      else
        let hw := settleBefore (t + 1) hw0
        let c := hw.core n
        let stop := min (walkLen r0) (t - w + 1)
        let now (s : Nat) : Bool := decide (r0.pos ≤ s ∧ s < stop)
        let keep (e : Nat × Option DLine) : Bool := match e.2 with
          | some d =>
            let line := d.tag * 64 + e.1 / 8
            !(rangeLines r0 line && now (walkStep r0 line (e.1 % 8)))
          | none => true
        let hits (o : LoadOp) : Bool :=
          !o.drop && !o.dst.isChain && (cacheable hw o.addr).isSome && rangeLines r0 (o.addr / 128) &&
            (now (walkStep r0 (o.addr / 128) 0) && decide (w + walkStep r0 (o.addr / 128) 0 < o.land))
        let early (o : LoadOp) : Bool := hw.beats.any (fun b => decide (b.id = o.id) && !b.fin)
        let mark (o : LoadOp) : LoadOp :=
          if !hits o then o
          else if early o then { o with drop := true, rng := true }
          else { o with drop := o.alloc }
        let k := (c.loads.filter (fun o => hits o && !early o && o.alloc)).length
        countDrops n k (hw.setCore n { c with
          dlines := c.dlines.filter keep, loads := c.loads.map mark, range := some { r0 with pos := stop } })

end Sys2Proof.Machine
end

