-- ==== Sys2Proof/Machine/CoreScalar.lean ====
section
/-!
DEFINITION. The scalar instructions as a compute core executes them: arithmetic, control transfers (R82, R83), the divider (R94),
loads and stores (R88, R98–R100, R201).
-/
namespace Sys2Proof.Machine

/-- rd := f rs1 rs2, class 0x00 and 0x07 (R92). -/
def coreRR (m : Mn) (lat : Nat) (f : W64 → W64 → W64) (n : Fin 8) (w : W32) (hw : Hw) : Hw :=
  simple n m w [(0, rs1Of w), (0, rs2Of w)] (some (0, rdOf w)) lat
    (fun _ hw => hw.modCore n (fun c => c.setG (rdOf w) (f (c.gr (rs1Of w)) (c.gr (rs2Of w))))) hw

/-- rd := f rs1. -/
def coreR1 (m : Mn) (lat : Nat) (f : W64 → W64) (n : Fin 8) (w : W32) (hw : Hw) : Hw :=
  simple n m w [(0, rs1Of w)] (some (0, rdOf w)) lat
    (fun _ hw => hw.modCore n (fun c => c.setG (rdOf w) (f (c.gr (rs1Of w))))) hw

/-- rd := f rs1 imm13, class 0x01 (R92). -/
def coreRI (m : Mn) (f : W64 → W64 → W64) (n : Fin 8) (w : W32) (hw : Hw) : Hw :=
  coreR1 m 1 (fun a => f a (xImm (imm13Of w))) n w hw

/-- rd := a value of the word and the issue cycle alone. -/
def coreK (m : Mn) (lat : Nat) (x : Nat → W64) (n : Fin 8) (w : W32) (hw : Hw) : Hw :=
  simple n m w [] (some (0, rdOf w)) lat (fun cyc hw => hw.modCore n (fun c => c.setG (rdOf w) (x cyc))) hw

/-- SHK both reads and writes rd. -/
def coreShk (n : Fin 8) (w : W32) (hw : Hw) : Hw :=
  simple n .shk w [(0, rdOf w)] (some (0, rdOf w)) 1
    (fun _ hw => hw.modCore n (fun c => c.setG (rdOf w) ((c.gr (rdOf w) <<< 16) ||| BitVec.ofNat 64 (imm16Of w)))) hw

/-- Division: one every 20 cycles, latency 20 (R93, R94). -/
def coreDiv (m : Mn) (f : W64 → W64 → W64) (n : Fin 8) (w : W32) (hw : Hw) : Hw :=
  withIssue n m w hw (fun cyc pc hw =>
    withReads n pc cyc [(0, rs1Of w), (0, rs2Of w)] hw (fun hw =>
      if cyc < (hw.core n).divFree then coreFault n (atIssue n cSCHED_SLOT_CONFLICT pc cyc 0 0x30000008) hw
      else withWrite n pc cyc (some (0, rdOf w)) 20 hw (fun hw =>
        (advance n w cyc hw).modCore n (fun c =>
          { c.setG (rdOf w) (f (c.gr (rs1Of w)) (c.gr (rs2Of w))) with divFree := cyc + 20 }))))

/-- Conditional branches: format B names rs1 in [26:22] and rs2 in [21:17]; the offset counts from the branch (R82, R90). -/
def coreBranch (m : Mn) (f : W64 → W64 → Bool) (n : Fin 8) (w : W32) (hw : Hw) : Hw :=
  withIssue n m w hw (fun cyc pc hw =>
    withReads n pc cyc [(0, rdOf w), (0, rs1Of w)] hw (fun hw =>
      let c := hw.core n
      if f (c.gr (rdOf w)) (c.gr (rs1Of w)) then
        jumpTo n (((pc : Int) + 4 * imm14Of w) % (2 ^ 41 : Int)).toNat cyc 3 hw
      else advance n w cyc hw))

/-- JAL: link in rd, target 3 cycles later (R82). -/
def coreJal (n : Fin 8) (w : W32) (hw : Hw) : Hw :=
  simple n .jal w [] (some (0, rdOf w)) 1 (fun cyc hw =>
    let pc : Nat := ((hw.core n).pc + (2 ^ 41 - 4)) % 2 ^ 41
    jumpTo n (((pc : Int) + 4 * imm22Of w) % (2 ^ 41 : Int)).toNat cyc 3
      (hw.modCore n (fun c => c.setG (rdOf w) (BitVec.ofNat 64 c.pc)))) hw

/-- JALR: target rs1 with bits [1:0] cleared. -/
def coreJalr (n : Fin 8) (w : W32) (hw : Hw) : Hw :=
  simple n .jalr w [(0, rs1Of w)] (some (0, rdOf w)) 1 (fun cyc hw =>
    let t := ((hw.core n).gr (rs1Of w)).toNat
    jumpTo n (t - t % 4) cyc 3 (hw.modCore n (fun c => c.setG (rdOf w) (BitVec.ofNat 64 c.pc)))) hw

/-! ### Loads and stores -/

/-- The effective address of format M: rs1 plus imm14 in 64 bits. -/
def eaM (c : Core) (w : W32) : W64 := c.gr (rs1Of w) + xImm (imm14Of w)

/-- Enter a load: its beat, its record, the handoff check. The data comes with LOAD_RETURN (R88, R106). -/
def startLoad (n : Fin 8) (w : W32) (pc cyc a : Nat) (bt : List Beat) (dst : LoadDst) (hw : Hw) : Hw :=
  let inv := !dst.isChain && (cacheable hw a).isSome && invalidating (hw.core n) (a / 128)
  let ld : LoadOp := ⟨hw.nid, pc, cyc + latMem hw a, a, dst, false, inv, inv⟩
  handoffCheck n pc cyc false [(a, cyc)]
    ((advance n w cyc (placeBeats bt hw.newId)).modCore n (fun c => { c with loads := c.loads ++ [ld] }))

/-- A scalar load of `k` bytes. Where several faults apply at issue, the rules give no order: the model takes the registers read, the
address, the read port, the bank beat, then the register written, here and in every instruction of a core (DESIGN CHOICE, log entry
76). -/
def coreLoad (m : Mn) (k : Nat) (signed : Bool) (n : Fin 8) (w : W32) (hw : Hw) : Hw :=
  withIssue n m w hw (fun cyc pc hw =>
    withReads n pc cyc [(0, rs1Of w)] hw (fun hw =>
      withAddr n pc k (eaM (hw.core n) w) hw (fun a =>
        let bt := [readBeat hw n.val hw.nid pc cyc 0 a k]
        withReadPort n pc cyc hw (fun hw =>
          withBeats n pc cyc bt hw (fun hw =>
            withWrite n pc cyc (some (0, rdOf w)) (latMem hw a) hw (startLoad n w pc cyc a bt (.g (rdOf w) k signed)))))))

/-- Enter a store of bytes: its beat, its record, the handoff check at its landing (R100, R201, R273). -/
def startStore (n : Fin 8) (w : W32) (pc cyc a : Nat) (bt : List Beat) (hw : Hw) : Hw :=
  let st : StoreOp := ⟨hw.nid, pc, cyc + latMem hw a, [a]⟩
  handoffCheck n pc cyc true [(a, cyc + latMem hw a)]
    ((advance n w cyc (placeBeats bt hw.newId)).modCore n (fun c => { c with stores := c.stores ++ [st] }))

/-- A scalar store of the low `k` bytes of the register in [26:22]. -/
def coreStore (m : Mn) (k : Nat) (n : Fin 8) (w : W32) (hw : Hw) : Hw :=
  withIssue n m w hw (fun cyc pc hw =>
    withReads n pc cyc [(0, rs1Of w), (0, rdOf w)] hw (fun hw =>
      withAddr n pc k (eaM (hw.core n) w) hw (fun a =>
        let bt := [writeBeat hw n.val hw.nid pc cyc 0 a (some n.val) (atAddr a (leBytes ((hw.core n).gr (rdOf w)).toNat k))]
        withBeats n pc cyc bt hw (fun hw => withWritePort n pc cyc cyc 1 hw (startStore n w pc cyc a bt)))))

/-- The load that lands first. -/
def firstLoad (l : List LoadOp) : Option LoadOp :=
  l.foldl (fun m o => match m with
    | none => some o
    | some x => if o.land < x.land then some o else some x) none

/-- The bytes a load reads. -/
def dstBytes (d : LoadDst) : Nat :=
  match d with
  | .g _ k _ => k
  | .v _ _ => 128
  | .bcast _ _ k => k
  | .chain _ => 256

/-- Deliver a load's bytes to its destination. -/
def deliver (o : LoadOp) (gs : List Got) (c : Core) : Core :=
  let bs (k : Nat) : List Byte := (List.range k).map (fun i => gotByte gs (o.addr + i))
  match o.dst with
  | .g r k s => c.setG r (xLoad (bs k) s)
  | .v r mask =>
    c.setV r (ofLanes 32 (blend mask (lanesOf 32 (c.vr r)) ((chunks 4 32 (bs 128)).map leNat)))
  | .bcast r mask k =>
    let wd := 8 * k
    c.setV r (ofLanes wd (blend mask (lanesOf wd (c.vr r)) (List.replicate (1024 / wd) (leNat (bs k)))))
  | .chain sl =>
    let s := c.slots.getD sl ⟨false, [], landAt 0, [], false⟩
    { c with slots := c.slots.setIfInBounds sl { s with full := true, desc := bs 256, perr := false } }

/-- A fill that the range engine marked has landed: BUSY waits for the cycle after (R208). -/
def fillGone (o : LoadOp) (c : Core) : Core :=
  match c.range with
  | some r =>
    if o.drop && o.alloc && invalidating c (o.addr / 128) then { c with range := some { r with fillEnd := max r.fillEnd (o.land + 1) } } else c
  | none => c

/-- The first load that lands reaches its core: its register receives the data and the missed line its place in the cache (R199,
R200, R203); a load that lost a beat delivers nothing (R16); an uncorrectable error stops the core and the register keeps its contents (R106, R196). -/
def loadReturn (n : Fin 8) (hw : Hw) : Hw :=
  match firstLoad (hw.core n).loads with
  | none => hw
  | some o =>
    let hw1 := settle o.land (walkTo n (o.land - 1) (hw.at o.land))
    let gs := gotOf hw1 o.id
    let c := hw1.core n
    let o' := (c.loads.find? (fun x => decide (x.id = o.id))).getD o
    let hw2 := dropGot o.id (hw1.setCore n (fillGone o' { c with loads := c.loads.filter (fun x => decide (x.id ≠ o.id)) }))
    if (gs.map (fun g => g.bytes.length)).sum ≠ dstBytes o.dst then hw2
    else match gotBad gs with
      | some a =>
        let key := wordOf (physOf hw1 a)
        countBad key (Hw.asOf o.land (coreStopNow n (plainFault n (badClass key) o.pc a (Config.eccSyndrome key % 2 ^ 32))) hw2)
      | none =>
        hw2.modCore n (fun c => let c := deliver o' gs c; if o'.alloc && !o'.drop then fillLine c (o'.addr / 128) else c)

/-- The store that is acknowledged first. -/
def firstStore (l : List StoreOp) : Option StoreOp :=
  l.foldl (fun m o => match m with
    | none => some o
    | some x => if o.ack < x.ack then some o else some x) none

/-- A store is acknowledged in cycle `t`: the walk of a DCLINV begins when the last store it waits for is (R207). -/
def storeGone (id t : Nat) (c : Core) : Core :=
  let c := { c with stores := c.stores.filter (fun x => decide (x.id ≠ id)) }
  match c.range with
  | some r =>
    if r.op = 2 ∧ r.walkAt.isNone ∧ c.stores.all (fun x => decide (x.id ∉ r.stores)) then
      { c with range := some { r with walkAt := some (max r.start (t + 1)) } }
    else c
  | none => c

/-- The destination acknowledges the core's first outstanding store; a partial write that met a bad word faults (R100, R197). -/
def storeAck (n : Fin 8) (hw : Hw) : Hw :=
  match firstStore (hw.core n).stores with
  | none => hw
  | some o =>
    let hw1 := settle o.ack (hw.at o.ack)
    let gs := gotOf hw1 o.id
    let hw2 := dropGot o.id (hw1.modCore n (storeGone o.id o.ack))
    match gotBad gs with
    | some a =>
      let key := wordOf (physOf hw1 a)
      countBad key (Hw.asOf o.ack (coreStopNow n (plainFault n (badClass key) o.pc a (Config.eccSyndrome key % 2 ^ 32))) hw2)
    | none => hw2

end Sys2Proof.Machine
end

