-- ==== Sys2Proof/Machine/Egress.lean ====
section
/-!
DEFINITION. What leaves the cluster through its ports (spec/12): routing (R376, R381, R382), hand-over (R266, R267, R306, R388,
R488), departure in calendar slots (R375, R377, R378), maintenance messages, and the sending side of the far channels and their ports
(R383–R387, R391, R395).
-/
namespace Sys2Proof.Machine

/-! ### States of the cluster that the ports look at -/

/-- CLU_STATE.STATE: 1 CATALOGUE, 2 MEMORY_TRAINING, 3 HELD, 4 READY, 5 RUN, 6 ORPHAN, 7 FENCED, 8 ARCHIVING, 9 FAILED. -/
def cluState (hw : Hw) : Nat := hw.fld 0x4 0 4

/-- The power state: 0 ACTIVE, 1 IDLE, 2 SHELVED (R470). -/
def pwrState (hw : Hw) : Nat := hw.fld 0x200034 0 2

/-- Every port carries at most one flit or beat per 64 MCLK: in SHELVED, and until the catalogue is applied (R395, R447). -/
def lowRate (hw : Hw) : Bool := decide (pwrState hw = 2 ∨ cluState hw = 1)

/-! ### Registers of the ports -/

def mshDie (i : Nat) : Nat := 0x700040 + 4 * i
def mshStat (p : Nat) : Nat := 0x700000 + 4 * p
def mshCal (p s : Nat) : Nat := 0x701000 + p * 0x800 + 4 * s
def farReg (c o : Nat) : Nat := 0x800000 + 0x40 * c + o

/-- This cluster's ID (R27). -/
def Hw.cid (hw : Hw) : Nat := hw.fld 0x00000C 0 18

/-- MSH_PORT_STAT.STATE: 0 DOWN, 1 ANNOUNCING, 2 UP, 3 LOST. -/
def portState (hw : Hw) (p : Nat) : Nat := hw.fld (mshStat p) 26 3

/-- FAR_CH_STAT.STATE: 0 DOWN, 1 JOINING, 2 UP, 3 LOST, 4 FENCED. -/
def chanState (hw : Hw) (c : Nat) : Nat := hw.fld (farReg c 8) 0 3

def setChanState (c st : Nat) (hw : Hw) : Hw := hw.setFld (farReg c 8) 0 3 st

/-- Something appears on the pins. -/
def emit (e : Emit) (hw : Hw) : Hw := { hw with out := hw.out ++ [e] }

def Hw.modNet (hw : Hw) (f : Net → Net) : Hw := { hw with net := f hw.net }

def noPort : MeshPort := ⟨0, 0, false, 0, 0, []⟩
def Hw.port (hw : Hw) (p : Nat) : MeshPort := hw.net.ports.getD p noPort
def Hw.modPort (p : Nat) (f : MeshPort → MeshPort) (hw : Hw) : Hw :=
  hw.modNet (fun t => { t with ports := t.ports.setIfInBounds p (f (hw.port p)) })

def noChan : FarCh := ⟨[], [], [], [], 0, 0, 0, 0, none, none⟩
def Hw.chan (hw : Hw) (c : Nat) : FarCh := hw.net.chans.getD c noChan
def Hw.modChan (c : Nat) (f : FarCh → FarCh) (hw : Hw) : Hw :=
  hw.modNet (fun t => { t with chans := t.chans.setIfInBounds c (f (hw.chan c)) })

def Hw.farPort (hw : Hw) (p : Nat) : FarPort := hw.net.farPorts.getD p ⟨31, 0⟩

/-! ### Routing -/

/-- A valid entry of the current die table with an ID (R376). -/
def dieEntry (hw : Hw) (dst : Nat) : Option Nat :=
  (List.range 16).find? (fun i => nbit (hw.reg (mshDie i)).toNat 31 && decide (hw.fld (mshDie i) 0 18 = dst))

/-- Some slot of a port's current calendar names an entry (R377). -/
def hasReservation (hw : Hw) (p i : Nat) : Bool :=
  (List.range 260).any (fun s => nbit (hw.reg (mshCal p s)).toNat 7 && decide (hw.fld (mshCal p s) 0 4 = i))

/-- The route of a mesh transaction: status 0 or the class that ends it, the port, and whether it is diverted (R376, R381, R382,
R400, R267). -/
structure Route where
  status : Nat
  port : Nat
  entry : Nat
  diverted : Bool
deriving DecidableEq, Repr

def meshRoute (hw : Hw) (dst : Nat) (needSlot : Bool) : Route :=
  match dieEntry hw dst with
  | none => if needSlot then ⟨cSCHED_SLOT_CONFLICT, 0, 16, false⟩ else ⟨0, 0, 16, false⟩
  | some i =>
    let p := hw.fld (mshDie i) 22 2
    let alt := hw.fld (mshDie i) 24 2
    if nbit (hw.reg (mshDie i)).toNat 30 then ⟨cPEER_LOST, p, i, false⟩
    else if i ∈ hw.net.dieFenced then ⟨cPEER_FENCED, p, i, false⟩
    else if portState hw p = 3 then
      if nbit (hw.reg (mshDie i)).toNat 26 && decide (portState hw alt ≠ 3) then ⟨0, alt, i, true⟩ else ⟨cPEER_LOST, p, i, false⟩
    else if needSlot && !hasReservation hw p i then ⟨cSCHED_SLOT_CONFLICT, p, i, false⟩
    else ⟨0, p, i, false⟩

/-! ### Far channels: sending -/

/-- Packets that a channel accepted and that wait in their buffers to be performed, in their order. -/
def farWaits (hw : Hw) (c : Nat) : List (List Byte) :=
  hw.bg.filterMap (fun b => match b.what with
    | .far d h _ _ => if d = c then some h else none
    | _ => none)

def farWaiting (hw : Hw) (c : Nat) : Nat := (farWaits hw c).length

/-- The number that acknowledges every packet before it: of those accepted, the ones before the first that is not performed; a READ_REQ
is acknowledged once it is queued (R386). -/
def ackSeq (hw : Hw) (c : Nat) : Nat :=
  (hw.fld (farReg c 0x18) 16 16 + 65536 - ((farWaits hw c).dropWhile (fun h => decide (leAt h 0 1 = 2))).length) % 65536

/-- Bytes 0x00–0x7B of a header beat (R383). -/
def lfcHead (hw : Hw) (c typ seq : Nat) (host : Bool) (tell dst addr len8 txid : Nat) (inl : List Byte) : List Byte :=
  let seqd := decide (typ < 0x10)
  leBytes (typ + hw.fld (farReg c 0) 19 5 * 0x100 + b2n host * 2 ^ 13 + b2n seqd * 2 ^ 14) 4 ++
  leBytes (seq % 65536 + ackSeq hw c * 65536) 4 ++ leBytes (tell % 128) 4 ++ leBytes hw.cid 4 ++ leBytes dst 4 ++
  leBytes (addr % 2 ^ 32 / 8 * 8) 4 ++ leBytes (addr / 2 ^ 32 % 512) 4 ++ leBytes (len8 % 1024 + txid % 2048 * 65536) 4 ++
  List.replicate 32 0 ++ bytesAt inl 0 60

/-- Send a packet: the header carries ACKSEQ and the new grants, the CRC covers header and payload (R384, R386). -/
def sendPacket (c typ seq : Nat) (host : Bool) (dst addr txid : Nat) (inl bytes : List Byte) (hw : Hw) : Hw :=
  let ch := hw.chan c
  let tell := min ch.tell 127
  let h := lfcHead hw c typ seq host tell dst addr (bytes.length / 8) txid inl
  let crc := crc32c none (h ++ bytes)
  (emit (.lfc (hw.fld (farReg c 0) 18 1) c (h ++ leBytes crc 4) bytes) hw).modChan c (fun ch =>
    { ch with tell := ch.tell - tell, lastSent := hw.now, ackDue := none })

/-- A channel carries sequenced packets: UP, or FENCED by its peer, where what was handed over before still goes (R400, R403). -/
def farLive (hw : Hw) (c : Nat) : Bool := decide (chanState hw c = 2 ∨ chanState hw c = 4)

/-- What a channel sends next: an unsequenced packet, a kept packet again, or the first that waits, if the channel holds credit and its
window is open (R385, R387, R391). In which order a channel's own packets go is the model's choice (log entry 111). -/
inductive FarNext where
  | plain (typ : Nat)
  | again (p : FarPkt)
  | first (p : FarPkt)
deriving DecidableEq, Repr

def farNext (hw : Hw) (c : Nat) : Option FarNext :=
  let ch := hw.chan c
  match ch.plain with
  | t :: _ => some (.plain t)
  | [] =>
    if !farLive hw c then none
    else match ch.again.findSome? (fun q => ch.kept.find? (fun p => decide (p.seq = q))) with
      | some p => some (.again p)
      | none => match ch.waitq with
        | p :: _ => if hw.fld (farReg c 8) 16 9 = 0 ∨ 32768 ≤ ch.kept.length then none else some (.first p)
        | [] => none

/-- Send it, in frame `f`: ACK, NAK, KEEPALIVE and ANNOUNCE have no number; a packet sent again is counted in RETRIES; a packet sent for
the first time takes the next number and a credit (R383, R385, R387, R391). -/
def sendNext (c f : Nat) (x : FarNext) (hw : Hw) : Hw :=
  match x with
  | .plain typ =>
    sendPacket c typ 0 false (hw.fld (farReg c 0) 0 18) 0 0 [] [] (hw.modChan c (fun ch => { ch with plain := ch.plain.drop 1 }))
  | .again p =>
    let hw1 := hw.modChan c (fun ch => { ch with
      again := (ch.again.dropWhile (fun q => decide (q ≠ p.seq))).drop 1
      kept := ch.kept.map (fun q => if q.seq = p.seq then { q with sends := q.sends + 1, frame := f } else q) })
    (sendPacket c p.typ p.seq p.host p.dst p.addr p.txid p.inl p.bytes hw1).setFld (farReg c 8) 24 8
      (satInc (hw.fld (farReg c 8) 24 8) 255)
  | .first p =>
    let seq := hw.fld (farReg c 0x18) 0 16
    let hw1 := hw.modChan c (fun ch => { ch with waitq := ch.waitq.drop 1, kept := ch.kept ++ [{ p with seq := seq, sends := 1, frame := f }] })
    let hw2 := (hw1.setFld (farReg c 0x18) 0 16 (seq + 1)).setFld (farReg c 8) 16 9 (hw.fld (farReg c 8) 16 9 - 1)
    sendPacket c p.typ seq p.host p.dst p.addr p.txid p.inl p.bytes hw2

/-- Beats of a packet: its header and its payload (R383). -/
def farBeats (x : FarNext) : Nat :=
  match x with
  | .plain _ => 1
  | .again p => 1 + (p.bytes.length + 127) / 128
  | .first p => 1 + (p.bytes.length + 127) / 128

/-- The channel of a far port whose turn it is: in ascending order after the one last served, the first with a packet to send (R383). -/
def farTurn (hw : Hw) (p : Nat) : Option (Nat × FarNext) :=
  let last := (hw.farPort p).turn
  (List.range 32).findSome? (fun i =>
    let c := (last + 1 + i) % 32
    if hw.fld (farReg c 0) 18 1 = p then (farNext hw c).map (fun x => (c, x)) else none)

/-- A far port sends, packet by packet, what it can begin in half cycles `from_` to that of the present cycle: one beat per MCLK, which
is three half cycles, or per 64 MCLK at the low rate (R383, R395). Fuel: the packets that wait. -/
def farServe (p from_ : Nat) : Nat → Hw → Hw
  | 0, hw => hw
  | k + 1, hw =>
    let t := max (hw.farPort p).free from_
    if 2 * hw.now < t then hw
    else match farTurn hw p with
      | none => hw
      | some (c, x) =>
        let len := (if lowRate hw then 192 else 3) * farBeats x
        let hw1 := sendNext c (t / 12) x { hw with now := min hw.now (t / 2) }
        farServe p from_ k ({ hw1 with now := hw.now }.modNet (fun n => { n with farPorts := n.farPorts.setIfInBounds p ⟨c, t + len⟩ }))

/-- Packets that wait at the ports. -/
def farQueued (hw : Hw) : Nat :=
  ((List.range 32).map (fun c => (hw.chan c).plain.length + (hw.chan c).again.length + (hw.chan c).waitq.length)).sum

/-- The far ports come to the present cycle: what waited for a port to be free has left as it became free (R383). -/
def farTo (hw : Hw) : Hw :=
  let k := farQueued hw
  if k = 0 then hw else farServe 1 0 k (farServe 0 0 k hw)

/-- The port of a channel sends what it can from the present cycle on. -/
def pump (c : Nat) (hw : Hw) : Hw := farServe (hw.fld (farReg c 0) 18 1) (2 * hw.now) (farQueued hw) hw

/-- ACK, NAK, KEEPALIVE or ANNOUNCE: a packet without a number (R383). -/
def sendPlain (c typ : Nat) (hw : Hw) : Hw := pump c ((farTo hw).modChan c (fun ch => { ch with plain := ch.plain ++ [typ] }))

/-- Queue a sequenced packet on a channel and send what can leave. -/
def queuePacket (c : Nat) (p : FarPkt) (hw : Hw) : Hw :=
  pump c ((farTo hw).modChan c (fun ch => { ch with waitq := ch.waitq ++ [p] }))

/-- Resend every kept packet from sequence number `from_` on, in order (R391). -/
def resendFrom (c from_ : Nat) (hw0 : Hw) : Hw :=
  let hw := farTo hw0
  let again := (hw.chan c).kept.filter (fun p => decide ((p.seq + 65536 - from_) % 65536 < 32768))
  pump c (hw.modChan c (fun ch => { ch with again := again.map (fun p => p.seq) }))

/-! ### Hand-over -/

/-- The packet of a transaction. -/
def txnPacket (t : Txn) : FarPkt :=
  let inl := if t.kind = 1 ∨ t.kind = 3 then [] else if t.kind = 2 then leBytes (t.len / 128) 4 else t.bytes
  ⟨0, t.kind, t.host, t.txid, t.dst, t.addr, inl, if t.kind = 1 ∨ t.kind = 3 then t.bytes else [], 0, 0⟩

/-- Hand a transaction to its port: the status that ends it at once, or 0 when it is accepted (R267, R376, R381, R387, R393, R400,
R403, R488). -/
def handOver (t : Txn) (hw : Hw) : Hw × Nat :=
  let t := { t with handed := hw.now, q := queueNow hw }
  if t.far then
    let st := chanState hw t.fc
    if st = 0 ∨ hw.fld (farReg t.fc 0) 0 18 ≠ t.dst then (hw, cADMISSION_REFUSED)
    else if st = 3 then (hw, cPEER_LOST)
    else if st = 1 ∨ st = 4 then (hw, cPEER_FENCED)
    else (queuePacket t.fc (txnPacket t) (hw.modNet (fun n => { n with txns := n.txns ++ [{ t with sent := true }] })), 0)
  else
    let r := meshRoute hw t.dst (t.slotted || decide (t.kind ≠ 3 ∧ t.host = false))
    if r.status ≠ 0 then (hw, r.status) else (hw.modNet (fun n => { n with txns := n.txns ++ [t] }), 0)

/-! ### Departure in a slot -/

/-- The calendar slot of a frame (R375). -/
def slotOf (hw : Hw) (frame : Nat) : Nat := (frame + hw.fld 0x700014 0 13) % 4160 / 16

/-- The first frame at or after `frame` at which a slot begins. -/
def slotBegin (hw : Hw) (frame : Nat) : Nat := frame + (16 - (frame + hw.fld 0x700014 0 13) % 16) % 16

/-- The start of the first slot reserved to an entry that begins at frame `frame` or later (fuel: slots of a period) (R266). -/
def firstSlot (hw : Hw) (p i : Nat) : Nat → Nat → Nat
  | 0, frame => frame
  | k + 1, frame =>
    let f := slotBegin hw frame
    let e := mshCal p (slotOf hw f)
    if nbit (hw.reg e).toNat 7 && decide (hw.fld e 0 4 = i) then f else firstSlot hw p i k (f + 1)

/-- A range of bytes cut where it crosses a multiple of `u` (fuel: its bytes). -/
def cutAt (u a : Nat) : Nat → List Byte → List (Nat × List Byte)
  | 0, _ => []
  | k + 1, l =>
    if l.isEmpty then [] else
      let n := u - a % u
      (a, l.take n) :: cutAt u (a + n) k (l.drop n)

/-- Flits of a transaction: the 128-byte lines of a WRITE, which no flit crosses, those of READ_DATA, else one flit (R368, R369). -/
def txnFlits (hw : Hw) (t : Txn) (slot : Bool) : List Flit :=
  let base (addr len8 : Nat) (last : Bool) (pl : List Byte) : Flit :=
    { typ := t.kind, host := t.host, last := last, slot := slot, dst := t.dst, src := hw.cid, addr := addr, len8 := len8,
      txid := t.txid, payload := pl }
  if t.kind = 1 ∨ t.kind = 3 then
    let ps := cutAt 128 (if t.kind = 1 then t.addr else 0) t.bytes.length t.bytes
    ps.mapIdx (fun i b => base (if t.kind = 1 then b.1 else t.addr + b.1) ((b.2.length + 7) / 8) (i + 1 = ps.length) b.2)
  else if t.kind = 2 then [base t.addr 1 true (leBytes (t.len / 128) 4)]
  else [base 0 1 true t.bytes]

/-- The order in which a reserved slot sends (R377): slotted writes by hand-over and unit, then signals and barrier messages, then
the rest by hand-over. -/
def slotRank (t : Txn) : Nat := if t.kind = 1 ∧ t.slotted then 0 else if t.kind = 4 ∨ t.kind = 6 ∨ t.kind = 7 then 1 else 2

def insTxn (t : Txn) : List Txn → List Txn
  | [] => [t]
  | x :: l =>
    if slotRank x < slotRank t ∨ (slotRank x = slotRank t ∧ (x.handed < t.handed ∨ (x.handed = t.handed ∧ x.unit ≤ t.unit))) then
      x :: insTxn t l
    else t :: x :: l

/-- Take transactions while flits and credit last: those sent, in order (R371, R377). -/
def takeFlits (hw : Hw) (slot : Bool) : Nat → List Txn → List Txn
  | _, [] => []
  | room, t :: l =>
    let n := (txnFlits hw t slot).length
    if n ≤ room then t :: takeFlits hw slot (room - n) l else takeFlits hw slot 0 l

/-- A slotted write that leaves later than planned, or by another port, is recorded (R267, R372, R382). -/
def slotMissed (port planned used : Nat) (t : Txn) (hw : Hw) : Hw :=
  raise { cls := cSCHED_LATE, sev := 1, unit := 0x20 + port, q := .phase, instr := t.pc, exp := planned, act := used,
          addr := t.addr, syn := 0x61000000 + port } hw

/-- The route of a transaction on its way out; an answer to an ID that no entry names leaves by the port it came from. -/
def txnRoute (hw : Hw) (t : Txn) : Route :=
  if t.owner = .answer ∧ (dieEntry hw t.dst).isNone then ⟨0, t.unit - 0x20, 16, false⟩ else meshRoute hw t.dst false

/-- The port of a mesh transaction holds the credit for its flits, or the transaction will be refused (R306, R371). -/
def portCredit (hw : Hw) (t : Txn) : Bool :=
  let r := meshRoute hw t.dst false
  decide (r.status ≠ 0) ||
    decide ((txnFlits hw t true).length ≤ (if r.diverted then (hw.port r.port).credOther else (hw.port r.port).credSlot))

/-- A slotted write, and a read of a transfer engine in a reserved slot, departs 2 frames after its hand-over at the earliest (R266,
R307). -/
def needsLead (t : Txn) (res : Bool) : Bool := decide (slotRank t = 0) || (res && decide (t.kind = 2))

/-- A flit leaves in the slot that begins at frame `start`, against a credit of its pool (R371). -/
def flitOut (p start : Nat) (f : Flit) (hw : Hw) : Hw :=
  (emit (.flit p f) hw).modPort p (fun m =>
    let m := { m with slotAt := start, slotUsed := (if m.slotAt = start then m.slotUsed else 0) + 1 }
    if f.slot then { m with credSlot := m.credSlot - 1 } else { m with credOther := m.credOther - 1 })

/-- Flits that a slot still takes: 64 in all, one at the low rate (R377, R395). -/
def slotRoom (hw : Hw) (p start : Nat) : Nat :=
  (if lowRate hw then 1 else 64) - (if (hw.port p).slotAt = start then (hw.port p).slotUsed else 0)

/-- Flits that are left of the transaction under way leave, in a slot that carries them: flits with SLOT in one of their entry's, others in
an open one (R369, R377, R378, R395). -/
def restDepart (p start : Nat) (res : Bool) (i : Nat) (hw : Hw) : Hw :=
  let m := hw.port p
  match m.rest with
  | [] => hw
  | f :: _ =>
    if f.slot ≠ res ∨ (res ∧ dieEntry hw f.dst ≠ some i) then hw
    else
      let k := min (slotRoom hw p start) (if res then m.credSlot else m.credOther)
      ((m.rest.take k).foldl (fun h x => flitOut p start x h) hw).modPort p (fun m => { m with rest := m.rest.drop k })

/-- A transaction leaves in a slot: its flits, or at the low rate the first of them; an answer is then over; a slotted write that leaves
later than planned is recorded (R266, R267, R377, R395). -/
def txnDepart (p start : Nat) (res : Bool) (t : Txn) (hw : Hw) : Hw :=
  let fl := txnFlits hw t res
  let k := if lowRate hw then 1 else fl.length
  let hw1 := ((fl.take k).foldl (fun h f => flitOut p start f h) hw).modPort p (fun m => { m with rest := fl.drop k })
  let left (l : List Txn) : List Txn :=
    if t.kind = 3 ∨ t.kind = 5 then l.filter (fun x => decide (x ≠ t))
    else l.map (fun x => if x = t then { x with sent := true } else x)
  let hw2 := hw1.modNet (fun n => { n with txns := left n.txns })
  if slotRank t = 0 then
    let r := meshRoute hw t.dst false
    let planned := firstSlot hw (hw.fld (mshDie r.entry) 22 2) r.entry 261 (frameOf t.handed + 2)
    if r.diverted ∨ planned < start then slotMissed p planned start t hw2 else hw2
  else hw2

/-- One calendar slot of a port is in progress and carries what it may: what is left of the transaction under way, then others, 64 flits in
all, or one at the low rate (R266, R371, R377, R378, R395). -/
def slotDepart (p : Nat) (hw0 : Hw) : Hw :=
  if portState hw0 p ≠ 2 then hw0
  else
    let off := (hw0.frame + hw0.fld 0x700014 0 13) % 16
    let start := hw0.frame - off
    let e := mshCal p (slotOf hw0 hw0.frame)
    let res := nbit (hw0.reg e).toNat 7
    let i := hw0.fld e 0 4
    let hw := restDepart p start res i hw0
    let port := hw.port p
    let room := min (slotRoom hw p start) (if res then port.credSlot else port.credOther)
    let mine (t : Txn) : Bool :=
      !t.far && !t.sent &&
      (let r := txnRoute hw t
       (!needsLead t res || decide (frameOf t.handed + 2 ≤ start)) &&
       (if res then decide (r.entry = i ∧ r.port = p) && !r.diverted else decide (r.port = p) && (slotRank t == 2 || r.diverted)))
    let q := (hw.net.txns.filter mine).foldl (fun l t => if res then insTxn t l else l ++ [t]) []
    let go := if !port.rest.isEmpty then [] else if lowRate hw then q.take room else takeFlits hw res room q
    go.foldl (fun h t => txnDepart p start res t h) hw

/-- A maintenance message leaves (R367, R370). -/
def sendMaint (p kind a b : Nat) (hw : Hw) : Hw := emit (.maint p kind a b) hw

end Sys2Proof.Machine
end

