-- ==== Sys2Proof/Machine/CoreVector.lean ====
section
/-!
DEFINITION. The vector instructions of a compute core (R80, R95–R97), their exception flags (R73–R75) and the charge of the
vector unit (R269).
-/
namespace Sys2Proof.Machine

/-- Set the vector flags in CORE_FPSTAT, in strict mode only (R73, R74). No rule states the cycle: the model sets those of a vector
instruction in its issue cycle, a DESIGN CHOICE (log entry 100). -/
def vFlags (n : Fin 8) (cyc : Nat) (f : FpFlags) (hw : Hw) : Hw := if strict hw n then setFp n cyc (f.bits * 256) hw else hw

/-- The vector unit is charged from issue to landing (R269): mode 0. -/
def chargeVec (n : Fin 8) (pc cyc lat : Nat) (hw : Hw) : Hw :=
  hw.modCore n (fun c => { c with charges := c.charges ++ [⟨cyc, cyc + lat, 0, pc⟩] })

/-- The result of a vector instruction: to v, p or g, or nothing. -/
inductive VOut where
  | v (x : VReg)
  | p (x : W64)
  | g (x : W64)
deriving DecidableEq, Repr

def Core.out (i : Nat) (o : VOut) (c : Core) : Core :=
  match o with
  | .v x => c.setV i x
  | .p x => c.setP i x
  | .g x => c.setG i x

/-- A vector instruction that reads `rs`, writes the register in [26:22] of file `file` after `lat` cycles. -/
def vecOp (m : Mn) (lat file : Nat) (rs : List (Nat × Nat)) (f : Core → VOut × FpFlags) (n : Fin 8) (w : W32) (hw : Hw) : Hw :=
  withIssue n m w hw (fun cyc pc hw =>
    withReads n pc cyc rs hw (fun hw =>
      withWrite n pc cyc (some (file, rdOf w)) lat hw (fun hw =>
        let r := f (hw.core n)
        vFlags n cyc r.2 (chargeVec n pc cyc lat ((advance n w cyc hw).modCore n (fun c => c.out (rdOf w) r.1))))))

/-- The divide-and-root unit accepts one instruction every 4 cycles (R96). -/
def vecDiv (m : Mn) (lat : Nat) (rs : List (Nat × Nat)) (f : Core → VOut × FpFlags) (n : Fin 8) (w : W32) (hw : Hw) : Hw :=
  withIssue n m w hw (fun cyc pc hw =>
    withReads n pc cyc rs hw (fun hw =>
      if cyc < (hw.core n).vdivFree then coreFault n (atIssue n cSCHED_SLOT_CONFLICT pc cyc 0 0x30010008) hw
      else withWrite n pc cyc (some (1, rdOf w)) lat hw (fun hw =>
        let r := f (hw.core n)
        vFlags n cyc r.2 (chargeVec n pc cyc lat ((advance n w cyc hw).modCore n (fun c =>
          { c.out (rdOf w) r.1 with vdivFree := cyc + 4 }))))))

/-- Class 0x08 is binary32, class 0x09 binary16. -/
def fmtOf (w : W32) : Fmt := if classOf w = 0x09 then b16 else b32
/-- Lane width by func[8]: classes 0x0A, 0x0B, 0x0D. -/
def widthOf (w : W32) : Nat := if wideOf w then 16 else 32
def fmt8Of (w : W32) : Fmt := if wideOf w then b16 else b32
def vfFmt (w : W32) : Fmt := if nbit w.toNat 1 then b16 else b32
def vcOf (w : W32) : Nat := wf w 7 5
def vfPg (w : W32) : Nat := wf w 4 3

/-- Sources of a predicated instruction on va and vb, and on va alone. -/
def srcAB (w : W32) : List (Nat × Nat) := [(1, rs1Of w), (1, rs2Of w), (2, pgOf w)]
def srcA (w : W32) : List (Nat × Nat) := [(1, rs1Of w), (2, pgOf w)]

/-- Two-operand floating point of classes 0x08 and 0x09. -/
def vecBin (m : Mn) (lat : Nat) (op : Fmt → Nat → Nat → Nat × FpFlags) (n : Fin 8) (w : W32) (hw : Hw) : Hw :=
  vecOp m lat 1 (srcAB w) (fun c =>
    let r := vBin (fmtOf w) (op (fmtOf w)) (c.pr (pgOf w)) (c.vr (rdOf w)) (c.vr (rs1Of w)) (c.vr (rs2Of w))
    (.v r.1, r.2)) n w hw

/-- One-operand floating point: VABS and VNEG. -/
def vecUn (m : Mn) (op : Fmt → Nat → Nat × FpFlags) (n : Fin 8) (w : W32) (hw : Hw) : Hw :=
  vecOp m 1 1 (srcA w) (fun c =>
    let r := vUn (fmtOf w) (op (fmtOf w)) (c.pr (pgOf w)) (c.vr (rdOf w)) (c.vr (rs1Of w))
    (.v r.1, r.2)) n w hw

/-- Latency of divide and root: 14 for binary32, 10 for binary16 (R95). -/
def divLat (w : W32) : Nat := if classOf w = 0x09 then 10 else 14

def coreVdiv (n : Fin 8) (w : W32) (hw : Hw) : Hw :=
  vecDiv .vdiv (divLat w) (srcAB w) (fun c =>
    let r := vBin (fmtOf w) (fDiv (fmtOf w)) (c.pr (pgOf w)) (c.vr (rdOf w)) (c.vr (rs1Of w)) (c.vr (rs2Of w))
    (.v r.1, r.2)) n w hw

def coreVsqrt (n : Fin 8) (w : W32) (hw : Hw) : Hw :=
  vecDiv .vsqrt (divLat w) (srcA w) (fun c =>
    let r := vUn (fmtOf w) (fSqrt (fmtOf w)) (c.pr (pgOf w)) (c.vr (rdOf w)) (c.vr (rs1Of w))
    (.v r.1, r.2)) n w hw

/-- VFMA and its three variants: `np` negates the product, `nc` the addend. -/
def vecFma (m : Mn) (np nc : Bool) (n : Fin 8) (w : W32) (hw : Hw) : Hw :=
  vecOp m 4 1 [(1, rs1Of w), (1, rs2Of w), (1, vcOf w), (2, vfPg w)] (fun c =>
    let r := vFma (vfFmt w) np nc (c.pr (vfPg w)) (c.vr (rdOf w)) (c.vr (rs1Of w)) (c.vr (rs2Of w)) (c.vr (vcOf w))
    (.v r.1, r.2)) n w hw

/-- Integer lanes of class 0x0A. -/
def vecInt (m : Mn) (lat : Nat) (op : Nat → Nat → Nat → Nat) (n : Fin 8) (w : W32) (hw : Hw) : Hw :=
  vecOp m lat 1 (srcAB w) (fun c =>
    (.v (vInt (widthOf w) op (c.pr (pgOf w)) (c.vr (rdOf w)) (c.vr (rs1Of w)) (c.vr (rs2Of w))), .none)) n w hw

/-- Compares of class 0x0B into pd. -/
def vecCmp (m : Mn) (op : W32 → Nat → Nat → Bool × FpFlags) (n : Fin 8) (w : W32) (hw : Hw) : Hw :=
  vecOp m 2 2 (srcAB w) (fun c =>
    let r := vCmp (widthOf w) (op w) (c.pr (pgOf w)) (c.vr (rs1Of w)) (c.vr (rs2Of w))
    (.p r.1, r.2)) n w hw

/-- Predicate logic on whole registers. -/
def vecPred (m : Mn) (two : Bool) (op : W64 → W64 → W64) (n : Fin 8) (w : W32) (hw : Hw) : Hw :=
  vecOp m 1 2 (if two then [(2, rs1Of w), (2, rs2Of w)] else [(2, rs1Of w)]) (fun c =>
    (.p (op (c.pr (rs1Of w)) (c.pr (rs2Of w))), .none)) n w hw

/-- Reductions: 10 cycles in binary32, 12 in binary16 (R95, R97). -/
def vecRed (m : Mn) (op : Fmt → Nat → Nat → Nat × FpFlags) (n : Fin 8) (w : W32) (hw : Hw) : Hw :=
  vecOp m (if wideOf w then 12 else 10) 1 (srcA w) (fun c =>
    let r := vReduce (fmt8Of w) (op (fmt8Of w)) (c.pr (pgOf w)) (c.vr (rs1Of w))
    (.v r.1, r.2)) n w hw

def coreVperm (n : Fin 8) (w : W32) (hw : Hw) : Hw :=
  vecOp .vperm 3 1 (srcAB w) (fun c =>
    (.v (vPerm (widthOf w) (c.pr (pgOf w)) (c.vr (rdOf w)) (c.vr (rs1Of w)) (c.vr (rs2Of w))), .none)) n w hw

def vecSlide (m : Mn) (op : Nat → Nat → W64 → VReg → VReg → VReg) (n : Fin 8) (w : W32) (hw : Hw) : Hw :=
  vecOp m 3 1 (srcA w) (fun c =>
    (.v (op (widthOf w) (rs2Of w) (c.pr (pgOf w)) (c.vr (rdOf w)) (c.vr (rs1Of w))), .none)) n w hw

def vecBcast (m : Mn) (wd : Nat) (n : Fin 8) (w : W32) (hw : Hw) : Hw :=
  vecOp m 2 1 [(0, rs1Of w), (2, pgOf w)] (fun c =>
    (.v (vBcast wd (c.pr (pgOf w)) (c.vr (rdOf w)) (c.gr (rs1Of w)).toNat), .none)) n w hw

def coreVext (n : Fin 8) (w : W32) (hw : Hw) : Hw :=
  vecOp .vext 3 0 [(1, rs1Of w)] (fun c => (.g (vExtract (c.vr (rs1Of w)) (rs2Of w)), .none)) n w hw

def coreVins (n : Fin 8) (w : W32) (hw : Hw) : Hw :=
  vecOp .vins 2 1 [(0, rs1Of w), (2, pgOf w)] (fun c =>
    (.v (vInsert (c.pr (pgOf w)) (c.vr (rdOf w)) (rs2Of w) (c.gr (rs1Of w))), .none)) n w hw

def coreVmov (n : Fin 8) (w : W32) (hw : Hw) : Hw :=
  vecOp .vmov 1 1 (srcA w) (fun c => (.v (vMove (c.pr (pgOf w)) (c.vr (rdOf w)) (c.vr (rs1Of w))), .none)) n w hw

/-- Conversions of class 0x0E; func bit 0 selects the high half (R95). -/
def vecCvt (m : Mn) (op : Bool → W64 → VReg → VReg → VReg × FpFlags) (n : Fin 8) (w : W32) (hw : Hw) : Hw :=
  vecOp m 3 1 (srcA w) (fun c =>
    let r := op (nbit w.toNat 0) (c.pr (pgOf w)) (c.vr (rdOf w)) (c.vr (rs1Of w))
    (.v r.1, r.2)) n w hw

/-! ### Vector loads and stores, class 0x0C -/

def vmPg (w : W32) : Nat := wf w 11 3
/-- imm11, signed, in units of 128 bytes. -/
def eaV (c : Core) (w : W32) : W64 := c.gr (rs1Of w) + xImm (128 * nsigned (wf w 0 11) 11)

/-- A vector or broadcast load of `k` bytes. -/
def coreVload (m : Mn) (k al : Nat) (dst : Nat → W64 → LoadDst) (n : Fin 8) (w : W32) (hw : Hw) : Hw :=
  withIssue n m w hw (fun cyc pc hw =>
    withReads n pc cyc [(0, rs1Of w), (2, vmPg w)] hw (fun hw =>
      withAddr n pc al (eaV (hw.core n) w) hw (fun a =>
        let bt := [readBeat hw n.val hw.nid pc cyc 0 a k]
        withReadPort n pc cyc hw (fun hw =>
          withBeats n pc cyc bt hw (fun hw =>
            withWrite n pc cyc (some (1, rdOf w)) (latMem hw a) hw (fun hw =>
              startLoad n w pc cyc a bt (dst (rdOf w) ((hw.core n).pr (vmPg w))) hw))))))

/-- VST: only the bytes of active lanes are written (R80). -/
def coreVst (n : Fin 8) (w : W32) (hw : Hw) : Hw :=
  withIssue n .vst w hw (fun cyc pc hw =>
    withReads n pc cyc [(0, rs1Of w), (1, rdOf w), (2, vmPg w)] hw (fun hw =>
      withAddr n pc 128 (eaV (hw.core n) w) hw (fun a =>
        let c := hw.core n
        let bs := (atAddr a (leBytes (c.vr (rdOf w)).toNat 128)).filter (fun p => lane (c.pr (vmPg w)) ((p.1 - a) / 4))
        let bt := [writeBeat hw n.val hw.nid pc cyc 0 a (some n.val) bs]
        withBeats n pc cyc bt hw (fun hw => withWritePort n pc cyc cyc 1 hw (startStore n w pc cyc a bt)))))

end Sys2Proof.Machine
end

