-- ==== Sys2Proof/Machine/FolioXfer.lean ====
section
/-!
DEFINITION. Folios (spec/04): shapes (R111–R115), FCFG (R113), the transfers FLD, FLDX, FST and FSTX (R116–R124), their landing,
FREL (R125) and the busy rule (R127).
-/
namespace Sys2Proof.Machine

/-! ### Shapes -/

/-- Fields of an FCFG word. -/
def fcRole (w : W32) : Nat := wf w 22 2
def fcFmt (w : W32) : Nat := wf w 19 3
def fcMn (w : W32) : Nat := wf w 12 7 + 1
def fcK (w : W32) : Nat := wf w 5 7 + 1

def Folio.role (f : Folio) : Nat := fcRole f.fcfg
def Folio.fmt (f : Folio) : Nat := fcFmt f.fcfg
def Folio.mn (f : Folio) : Nat := fcMn f.fcfg
def Folio.kk (f : Folio) : Nat := fcK f.fcfg

/-- Element size: 4 for binary32, 2 otherwise (R112). -/
def elSize (fmt : Nat) : Nat := if fmt = 3 then 4 else 2

/-- RH16/b16 or RH16/b32. -/
def isRh (fmt : Nat) : Bool := decide (fmt = 1 ∨ fmt = 2)

/-- Block length: 16 for RH16/b16, 32 for RH16/b32 and for a plain binary16 operand (R44). -/
def blkLen (fmt : Nat) : Nat := if fmt = 1 then 16 else 32

/-- ⌈n ÷ d⌉. -/
def ceilDiv (n d : Nat) : Nat := (n + d - 1) / d

/-- Blocks of a folio along k. -/
def Folio.blocks (f : Folio) : Nat := ceilDiv f.kk (blkLen f.fmt)

/-- Bytes of the element storage at an offset. -/
def Folio.num (f : Folio) (off k : Nat) : Nat := leNat ((List.range k).map (fun i => tabGet memReset f.data (off + i)))

/-- Bytes from one slice to the next: 128 (R112); a binary32 operand of more than 32 elements, which only a prologue CAST makes
between two stages (R159), has room for them. -/
def Folio.stride (f : Folio) : Nat := if f.fmt = 3 ∧ 32 < f.mn then 256 else 128

/-- The element with index `i` and reduction index `k` (R112), as a pattern. -/
def Folio.el (f : Folio) (i k : Nat) : Nat := f.num (k * f.stride + i * elSize f.fmt) (elSize f.fmt)

/-- The exponent byte of index `i` in block `b` (R112). -/
def Folio.ex (f : Folio) (i b : Nat) : Byte := tabGet memReset f.strip (b * 64 + i)

/-- An interchange format of a folio format: binary32 or binary16. -/
def ieeeOf (fmt : Nat) : Fmt := if fmt = 3 then b32 else b16

/-- Some operation reads the folio, or writes it until its landing, in cycle `t` (R127). -/
def Folio.busyAt (fo : Folio) (t : Nat) : Bool := fo.busy.any (fun e => decide (e.2.1 ≤ t ∧ t < e.2.2))

/-- Operation `id`, issued at `cyc`, holds folio `f` busy from cycle `lo` to before `hi` (R127). -/
def Core.makeBusy (cyc id f lo hi : Nat) (c : Core) : Core :=
  c.setFol f { c.fol f with busy := (id, lo, hi) :: (c.fol f).busy.filter (fun e => decide (cyc < e.2.2)) }

/-- A word of the elements, or of the strip, that an operation on the folio reads has a parity error (R195). -/
def Folio.hurtData (fo : Folio) : Bool :=
  fo.perr.any (fun w => decide (w < 4096 ∧ w / 32 < fo.kk ∧ 4 * (w % 32) < fo.mn * elSize fo.fmt))
def Folio.hurtStrip (fo : Folio) : Bool :=
  fo.perr.any (fun w => decide (4096 ≤ w ∧ (w - 4096) / 16 < fo.blocks ∧ 4 * ((w - 4096) % 16) < fo.mn))

/-- A parity error in what an operation reads inside the core: phase-fatal after its issue (R106, R195). -/
def parityStop (n : Fin 8) (pc : Nat) (hurt : Bool) (hw : Hw) : Hw :=
  if hurt then
    Hw.bump 0xB00250 0 16 (coreStopNow n
      { cls := cSRAM_UNCORRECTABLE, sev := 2, unit := n.val, instr := pc, syn := Config.eccSyndrome pc % 2 ^ 32 } hw)
  else hw

/-- The syndrome of FOLIO_SHAPE and FOLIO_NOT_IN_USE. -/
def folSyn (reason f bank : Nat) (entry : Option Nat) : Nat :=
  reason + f * 0x100 + bank * 0x1000 + (match entry with | some e => e * 0x10000 + 0x100000 | none => 0)

/-- A refusal of class FOLIO_SHAPE at issue. -/
def shapeFault (n : Fin 8) (pc reason f : Nat) (hw : Hw) : Hw :=
  coreFault n (plainFault n cFOLIO_SHAPE pc 0 (folSyn reason f 0 none)) hw

def inUseFault (n : Fin 8) (pc reason f : Nat) (hw : Hw) : Hw :=
  coreFault n (plainFault n cFOLIO_NOT_IN_USE pc 0 (folSyn reason f 0 none)) hw

def conflict (n : Fin 8) (pc cyc syn : Nat) (hw : Hw) : Hw :=
  coreFault n (atIssue n cSCHED_SLOT_CONFLICT pc cyc 0 syn) hw

/-- An instruction that names a busy folio does not execute (R127); an FLDX beside an FLD in flight is one of them, though a worked
example of spec/04 issues it (log entry 79). -/
def withIdleFolio (n : Fin 8) (pc cyc f : Nat) (hw : Hw) (k : Hw → Hw) : Hw :=
  if ((hw.core n).fol f).busyAt cyc then conflict n pc cyc (0x30000004 + f * 0x10000) hw else k hw

/-! ### FCFG and FREL -/

/-- Why FCFG refuses a configuration (R113). -/
def fcfgBad (w : W32) (inUse : Bool) : Option Nat :=
  let fmt := fcFmt w
  let mn := fcMn w
  if fmt = 3 ∧ mn > 32 then some 0x01
  else if fcRole w = 2 ∧ (isRh fmt = true ∨ mn * elSize fmt > 128) then some 0x02
  else if inUse then some 0x03
  else if fcRole w ≠ 2 ∧ fmt ≠ 3 ∧ mn > 64 then some 0x06
  else none

/-- FCFG (R113). Where a busy folio (R127) or several reasons of R113 refuse it, no rule says which is raised: the model takes the busy
folio first, then the reasons in the order of `fcfgBad`, a DESIGN CHOICE (log entry 104). -/
def coreFcfg (n : Fin 8) (w : W32) (hw : Hw) : Hw :=
  let f := wf w 24 3
  withIssue n .fcfg w hw (fun cyc pc hw =>
    withIdleFolio n pc cyc f hw (fun hw =>
      match fcfgBad w ((hw.core n).fol f).inUse with
      | some r => shapeFault n pc r f hw
      | none => (advance n w cyc hw).modCore n (fun c => c.setFol f { c.fol f with fcfg := w })))

/-- The folios that a mask names. -/
def maskFolios (m : Nat) : List Nat := (List.range 8).filter (fun f => nbit m f)

def coreFrel (n : Fin 8) (w : W32) (hw : Hw) : Hw :=
  let fs := maskFolios (wf w 16 8)
  withIssue n .frel w hw (fun cyc pc hw =>
    match fs.find? (fun f => ((hw.core n).fol f).busyAt cyc) with
    | some f => conflict n pc cyc (0x30000004 + f * 0x10000) hw
    | none => (advance n w cyc hw).modCore n (fun c =>
        fs.foldl (fun c f => c.setFol f { c.fol f with inUse := false, stripValid := false }) c))

/-! ### Transfers -/

/-- The fields of classes 0x11 and 0x12. -/
def fxF (w : W32) : Nat := wf w 24 3
def fxRs1 (w : W32) : Nat := wf w 19 5
def fxRs2 (w : W32) : Nat := wf w 14 5
def fxConv (w : W32) : Nat := wf w 11 3
def fxT (w : W32) : Bool := nbit w.toNat 10

/-- The memory element size of a conversion: the folio's own, or 2 or 4 (R119). -/
def memSize (load : Bool) (conv fmt : Nat) : Nat :=
  if conv = 0 then elSize fmt
  else if load then (if conv = 1 ∨ conv = 3 then 2 else 4)
  else (if conv = 1 ∨ conv = 4 then 4 else 2)

/-- The folio format that a conversion needs (R119). -/
def convOk (load : Bool) (conv fmt : Nat) : Bool :=
  decide (conv = 0 ∨ (conv = 1 ∧ fmt = (if load then 3 else 0)) ∨ (conv = 2 ∧ fmt = (if load then 0 else 3)) ∨ conv > 2 ∧ isRh fmt)

/-- C_conv of R119. -/
def convCycles (load : Bool) (conv : Nat) : Nat :=
  if conv = 0 then 0 else if conv < 3 then 2 else if load then 20 else 4

/-- The shape of a transfer: rows, bytes of a row, and C_xfer (R116, R120). -/
structure Xfer where
  rows : Nat
  rowLen : Nat
  cycles : Nat
deriving DecidableEq, Repr

def xferOf (fo : Folio) (load exps tr : Bool) (conv : Nat) : Xfer :=
  let ms := memSize load conv fo.fmt
  if exps then
    let rows := if tr then fo.mn else fo.blocks
    ⟨rows, if tr then fo.blocks else fo.mn, rows⟩
  else
    let rows := if tr then fo.mn else fo.kk
    let len := (if tr then fo.kk else fo.mn) * ms
    let total := rows * (ceilDiv len 128 * 128)
    ⟨rows, len, if load then ceilDiv total 256 else total / 128⟩

/-- A row cut at 128-byte lines: address and length of each piece. -/
def pieces (a len : Nat) : List (Nat × Nat) :=
  (List.range (ceilDiv (a % 128 + len) 128)).map (fun i =>
    let lo := if i = 0 then a else a - a % 128 + 128 * i
    let hi := min (a + len) (a - a % 128 + 128 * (i + 1))
    (lo, hi - lo))

/-- The pieces of a transfer with the port cycle of each: two lines a cycle for FLD, one for FST, one row for FLDX and FSTX. -/
def xferPieces (x : Xfer) (load exps : Bool) (base pitch : Nat) : List (Nat × Nat × Nat) :=
  let rows := (List.range x.rows).map (fun r => (pieces (base + r * pitch) x.rowLen).map (fun p => (r, p.1, p.2)))
  if exps then rows.flatten
  else rows.flatten.mapIdx (fun q p => (if load then q / 2 else q, p.2.1, p.2.2))

/-- The port cycle at which each piece's beat counts: a 256-byte unit of BM that consecutive port cycles touch takes one beat, at
the first of them (log entry 7). -/
def unitCycles (hw : Hw) (last : Option (Nat × Nat × Nat)) : List (Nat × Nat × Nat) → List (Nat × Nat × Nat)
  | [] => []
  | p :: l =>
    match regionOf hw p.2.1 with
    | .bm _ _ =>
      let u := p.2.1 / 256
      match last with
      | some (v, j, j0) =>
        if v = u ∧ p.1 ≤ j + 1 then (j0, p.2) :: unitCycles hw (some (u, p.1, j0)) l
        else p :: unitCycles hw (some (u, p.1, p.1)) l
      | none => p :: unitCycles hw (some (u, p.1, p.1)) l
    | _ => p :: unitCycles hw none l

/-- The kind of memory of an address: 0 LM, 1 CSM, 2 BM. -/
def memKind (hw : Hw) (a : Nat) : Nat :=
  match regionOf hw a with
  | .csm => 1
  | .bm _ _ => 2
  | _ => 0

/-- R117–R119, R99, R118, R190 on a transfer: the fault it raises, if any. Of several no rule says which, nor which address the record of a
misaligned pitch carries: the model takes them in the order written here and carries the base, a DESIGN CHOICE (log entry 103). -/
def xferFault (n : Fin 8) (pc : Nat) (hw : Hw) (f : Nat) (fo : Folio) (load exps tr : Bool) (conv base pitch : Nat) : Option FaultRec :=
  let al := if exps then 8 else 128
  let x := xferOf fo load exps tr conv
  let shape (r : Nat) : Option FaultRec := some (plainFault n cFOLIO_SHAPE pc 0 (folSyn r f 0 none))
  if fo.fcfg = 0 then shape 0x05
  else if exps ∧ isRh fo.fmt = false then shape 0x21
  else if exps = false ∧ convOk load conv fo.fmt = false then shape 0x20
  else if tr ∧ fo.role = 2 then shape 0x23
  else if base % al ≠ 0 ∨ pitch % al ≠ 0 then some (plainFault n cACCESS_ALIGN pc (base % 2 ^ 59) 0)
  else if pitch < x.rowLen then shape 0x22
  else
    let ps := xferPieces x load exps base pitch
    match ps.find? (fun p => decide (2 ^ 41 ≤ p.2.1) || !corePerm hw n p.2.1 || decide (memKind hw p.2.1 ≠ memKind hw base)) with
    | some p => some (plainFault n cACCESS_RANGE pc (p.2.1 % 2 ^ 59) 0)
    | none => none

/-- The bytes a store of a folio writes: element (i, k) or exponent (i, b), converted (R58, R116, R119). -/
def folioElems (fo : Folio) : List (Nat × Nat) :=
  (List.range fo.kk).flatMap (fun k => (List.range fo.mn).map (fun i => (i, k)))

def folioExps (fo : Folio) : List (Nat × Nat) :=
  (List.range fo.blocks).flatMap (fun b => (List.range fo.mn).map (fun i => (i, b)))

/-- Where element (i, k) stands in memory. -/
def elAddr (tr : Bool) (base pitch ms i k : Nat) : Nat := if tr then base + i * pitch + k * ms else base + k * pitch + i * ms

/-- The value of an element of a folio. -/
def Folio.val (fo : Folio) (i k : Nat) : Num :=
  if isRh fo.fmt then rhVal (fo.el i k) (fo.ex i (k / blkLen fo.fmt)) else decF (ieeeOf fo.fmt) (fo.el i k)

/-- An element as an FST writes it. The table of conversions gives an all-zero block +0 and does not say what becomes of an element −0
of another block: the model keeps its sign, a DESIGN CHOICE (log entry 84). -/
def storeEl (fo : Folio) (conv i k : Nat) : Nat :=
  if conv = 0 then fo.el i k
  else (encF (if conv = 1 ∨ conv = 4 then b32 else b16) (fo.val i k)).1

def storeBytes (fo : Folio) (exps tr : Bool) (conv base pitch : Nat) : List (Nat × Byte) :=
  if exps then (folioExps fo).map (fun p => (elAddr tr base pitch 1 p.1 p.2, fo.ex p.1 p.2))
  else
    let ms := memSize false conv fo.fmt
    (folioElems fo).flatMap (fun p => atAddr (elAddr tr base pitch ms p.1 p.2) (leBytes (storeEl fo conv p.1 p.2) ms))

/-- The element patterns and exponent bytes that a load writes, from the bytes that its beats returned (R58–R60, R115). -/
def loadEls (fo : Folio) (conv : Nat) (m : Nat → Nat → Nat) : List (Nat × Byte) × List (Nat × Byte) :=
  let put (i k x : Nat) : List (Nat × Byte) := atAddr (k * 128 + i * elSize fo.fmt) (leBytes x (elSize fo.fmt))
  if conv = 0 then ((folioElems fo).flatMap (fun p => put p.1 p.2 (m p.1 p.2)), [])
  else if conv = 1 then ((folioElems fo).flatMap (fun p => put p.1 p.2 (encF b32 (decF b16 (m p.1 p.2))).1), [])
  else if conv = 2 then ((folioElems fo).flatMap (fun p => put p.1 p.2 (encF b16 (decF b32 (m p.1 p.2))).1), [])
  else
    let src := if conv = 3 then b16 else b32
    let bl := blkLen fo.fmt
    let blocks := (folioExps fo).map (fun p =>
      let i := p.1
      let ks := (List.range (min bl (fo.kk - p.2 * bl))).map (fun d => p.2 * bl + d)
      let r := packBlock (ks.map (fun k => decF src (m i k)))
      ((List.zipWith (fun k x => put i k x) ks r.1).flatten, (p.2 * 64 + i, r.2)))
    (blocks.flatMap (fun b => b.1), blocks.map (fun b => b.2))

/-- A folio that an FLD or FLDX begins to fill (R121, R123, R127). -/
def Folio.filling (fo : Folio) (exps : Bool) (conv id cyc land : Nat) : Folio :=
  let busy := (id, cyc, land) :: fo.busy.filter (fun e => decide (cyc < e.2.2))
  if exps then { fo with stripValid := true, landS := landAt land, busy := busy }
  else { fo with
    inUse := true, landD := landAt land, busy := busy
    stripValid := fo.stripValid || decide (conv ≥ 3)
    landS := if conv ≥ 3 then landAt land else fo.landS }

/-- FLD and FLDX (R116–R124, R127). -/
def coreFload (m : Mn) (exps : Bool) (n : Fin 8) (w : W32) (hw : Hw) : Hw :=
  let f := fxF w
  let conv := if exps then 0 else fxConv w
  let tr := fxT w
  withIssue n m w hw (fun cyc pc hw =>
    withReads n pc cyc [(0, fxRs1 w), (0, fxRs2 w)] hw (fun hw =>
      let c := hw.core n
      let base := (c.gr (fxRs1 w)).toNat
      let pitch := (c.gr (fxRs2 w)).toNat
      let fo := c.fol f
      match xferFault n pc hw f fo true exps tr conv base pitch with
      | some r => coreFault n r hw
      | none =>
        withIdleFolio n pc cyc f hw (fun hw =>
          if (if exps then fo.stripValid else fo.inUse) then shapeFault n pc 0x04 f hw
          else withReadPort n pc cyc hw (fun hw =>
            let x := xferOf fo true exps tr conv
            let ps := unitCycles hw none (xferPieces x true exps base pitch)
            let id := hw.nid
            let land := cyc + latMem hw base + x.cycles +
              (if exps then 0 else convCycles true conv + (if tr then 2 else 0))
            let bt := ps.map (fun p => readBeat hw n.val id pc cyc p.1 p.2.1 p.2.2)
            withBeats n pc cyc bt hw (fun hw =>
              handoffCheck n pc cyc false (ps.map (fun p => (p.2.1, cyc)))
                ((advance n w cyc (placeBeats bt hw.newId)).modCore n (fun c =>
                  let ld : FolioLoad := ⟨id, pc, f, exps, conv, tr, base, pitch, land⟩
                  { c.setFol f (fo.filling exps conv id cyc land) with
                    rdPort := cyc + x.cycles, floads := c.floads ++ [ld] })))))))

/-- The folio syndrome of SCHED_LATE (R132). -/
def folLate (f early : Nat) : Nat := 0x10000000 + f * 0x10000 + min early 255

/-- A folio's data, and its strip where `strip` says so, have landed by `cyc` (R122, R132, R276: checker kind 3). -/
def withLanded (n : Fin 8) (pc cyc f : Nat) (strip : Bool) (hw : Hw) (k : Hw → Hw) : Hw :=
  let fo := (hw.core n).fol f
  let late (ld : Land) (hw : Hw) : Hw :=
    coreFault n { cls := cSCHED_LATE, sev := 2, unit := n.val, instr := pc, exp := frameOf ld.cyc, act := frameOf cyc,
                  syn := folLate f (ld.cyc - cyc) } hw
  let v := checkLand n.val 3 pc cyc fo.landD hw
  if v.1 then late fo.landD v.2
  else if !strip then k v.2
  else
    let u := checkLand n.val 3 pc cyc fo.landS v.2
    if u.1 then late fo.landS u.2 else k u.2

/-- The cycles from the port cycle of a folio store's line to its landing, but for L_mem (R121). -/
def fstDelay (exps tr : Bool) (conv : Nat) : Nat := 1 + (if exps then 0 else convCycles false conv) + (if tr then 2 else 0)

/-- The addresses of the lines of pieces. -/
def lineAddrs (ps : List (Nat × Nat × Nat)) : List Nat := (ps.map (fun p => p.2.1 / 128 * 128)).eraseDups

/-- FST and FSTX (R116–R122, R126). The bytes are those the folio holds at issue: nothing lands in it while it is read (R127). -/
def coreFstore (m : Mn) (exps : Bool) (n : Fin 8) (w : W32) (hw : Hw) : Hw :=
  let f := fxF w
  let conv := if exps then 0 else fxConv w
  let tr := fxT w
  withIssue n m w hw (fun cyc pc hw =>
    withReads n pc cyc [(0, fxRs1 w), (0, fxRs2 w)] hw (fun hw =>
      let c := hw.core n
      let base := (c.gr (fxRs1 w)).toNat
      let pitch := (c.gr (fxRs2 w)).toNat
      let fo := c.fol f
      match xferFault n pc hw f fo false exps tr conv base pitch with
      | some r => coreFault n r hw
      | none =>
        if !fo.inUse then inUseFault n pc 0x01 f hw
        else if exps && !fo.stripValid then inUseFault n pc 0x02 f hw
        else withLanded n pc cyc f (isRh fo.fmt && fo.stripValid) hw (fun hw =>
          let x := xferOf fo false exps tr conv
          let raw := xferPieces x false exps base pitch
          let ps := unitCycles hw none raw
          let bs := storeBytes fo exps tr conv base pitch
          let id := hw.nid
          let dly := fstDelay exps tr conv + latMem hw base
          let bt := ps.map (fun p => writeBeat hw n.val id pc cyc p.1 p.2.1 none
            (bs.filter (fun b => decide (p.2.1 ≤ b.1 ∧ b.1 < p.2.1 + p.2.2))))
          withBeats n pc cyc bt hw (fun hw =>
            withWritePort n pc cyc cyc x.cycles hw (fun hw =>
              parityStop n pc (if exps then fo.hurtStrip else fo.hurtData || (decide (conv ≥ 3) && fo.hurtStrip))
                (handoffCheck n pc cyc true (raw.map (fun p => (p.2.1, cyc + p.1 + dly)))
                  ((advance n w cyc (placeBeats bt hw.newId)).modCore n (fun c =>
                    let st : StoreOp := ⟨id, pc, cyc + x.cycles - 1 + dly, lineAddrs raw⟩
                    { c.makeBusy cyc id f (cyc + 1) (cyc + x.cycles + 1) with stores := c.stores ++ [st] }))))))))

/-- The folio load that lands first. -/
def firstFload (l : List FolioLoad) : Option FolioLoad :=
  l.foldl (fun m o => match m with
    | none => some o
    | some x => if o.land < x.land then some o else some x) none

/-- Deliver a folio load's data to its folio. -/
def deliverFolio (o : FolioLoad) (gs : List Got) (c : Core) : Core :=
  let fo := c.fol o.f
  let whole (strip : Bool) : List Nat :=
    fo.perr.filter (fun w => if w < 4096 then o.exps || !Folio.hurtData { fo with perr := [w] }
                             else !strip || !Folio.hurtStrip { fo with perr := [w] })
  if o.exps then
    c.setFol o.f { fo with
      strip := tabBytes ((folioExps fo).map (fun p => (p.2 * 64 + p.1, gotByte gs (elAddr o.tr o.base o.pitch 1 p.1 p.2)))) fo.strip
      perr := whole true }
  else
    let ms := memSize true o.conv fo.fmt
    let m (i k : Nat) : Nat :=
      let a := elAddr o.tr o.base o.pitch ms i k
      leNat ((List.range ms).map (fun j => gotByte gs (a + j)))
    let r := loadEls fo o.conv m
    c.setFol o.f { fo with data := tabBytes r.1 fo.data, strip := tabBytes r.2 fo.strip, perr := whole (decide (o.conv ≥ 3)) }

end Sys2Proof.Machine
end

