-- ==== Sys2Proof/Machine/Transcend.lean ====
section
/-!
DEFINITION. The functions of the ACT and SOFTMAX stages (R163, R183): exact where the value is rational, and to 512 binary places
where it is not, before the one truncation to A40 (log entry 21).
-/
namespace Sys2Proof.Machine

/-- Binary places of the fixed-point values below. -/
def fixP : Nat := 512

/-- ln 2 × 2^fixP, by Σ 1 ÷ (k 2^k). -/
def ln2Fix : Nat := (List.range 530).foldl (fun a k => a + 2 ^ fixP / ((k + 1) * 2 ^ (k + 1))) 0

/-- e^r for a fixed-point r in [0, 1), by its series (fuel: the number of terms). -/
def expSeries (r : Nat) : Nat → Nat → Nat → Nat → Nat
  | 0, _, _, acc => acc
  | n + 1, k, term, acc =>
    let t := term * r / 2 ^ fixP / k
    expSeries r n (k + 1) t (acc + t)

def expFrac (r : Nat) : Nat := expSeries r 120 1 (2 ^ fixP) (2 ^ fixP)

/-- A dyadic value as a fixed-point integer, toward minus infinity. -/
def toFix (s : Bool) (m : Nat) (x : Int) : Int :=
  let q := x + fixP
  let v : Int := if 0 ≤ q then ((m <<< q.toNat : Nat) : Int) else ((m >>> (-q).toNat : Nat) : Int)
  if s then -v else v

/-- e^y for a fixed-point y, as a magnitude and its weight exponent. -/
def expFix (y : Int) : Nat × Int :=
  let n := y / (ln2Fix : Int)
  let r := (y - n * ln2Fix).toNat
  (expFrac r, n - fixP)

/-- 2^v for a finite dyadic v, truncated to the accumulator format: exact for an integer v. -/
def exp2A (gb : Nat) (s : Bool) (m : Nat) (x : Int) : Nat :=
  if m = 0 then truncA gb false 1 0
  else if topExp m x ≥ 10 then (if s then 0 else accInf gb false)
  else
    let v := toFix s m x
    let n := v / (2 ^ fixP : Nat)
    let f := (v - n * (2 ^ fixP : Nat)).toNat
    if f = 0 then truncA gb false 1 n
    else truncA gb false (expFrac (f * ln2Fix / 2 ^ fixP)) (n - fixP)

/-- A magnitude just below m × 2^x, for a value that falls short of it by less than any kept bit. -/
def justBelow (m : Nat) (x : Int) : Nat × Int := ((m <<< 64) - 1, x - 64)

/-- tanh of a finite nonzero value. -/
def tanhA (gb : Nat) (s : Bool) (m : Nat) (x : Int) : Nat :=
  if m = 0 then 0
  else if topExp m x < -100 then let b := justBelow m x; truncA gb s b.1 b.2
  else if topExp m x ≥ 8 then let b := justBelow 1 0; truncA gb s b.1 b.2
  else
    let e := expFix (2 * toFix false m x)
    let q := min e.2 0
    let en := signedAt false e.1 e.2 q
    let one := signedAt false 1 0 q
    truncA gb s (((en - one).toNat <<< fixP) / (en + one).toNat) (-(fixP : Int))

/-- SiLU, x ÷ (1 + e^−x), of a finite value. -/
def siluA (gb : Nat) (s : Bool) (m : Nat) (x : Int) : Nat :=
  if m = 0 then 0
  else if topExp m x < -100 then
    if s then let b := justBelow m (x - 1); truncA gb s b.1 b.2 else truncA gb s m (x - 1)
  else if topExp m x ≥ 9 then
    if s then 0 else let b := justBelow m x; truncA gb s b.1 b.2
  else
    let e := expFix (if s then toFix false m x else -(toFix false m x))
    let q := min e.2 0
    let en := (signedAt false e.1 e.2 q).toNat
    let one := (signedAt false 1 0 q).toNat
    -- x × one ÷ (one + e^−x)
    truncA gb s (((m * one) <<< (2 * fixP)) / (one + en)) (x - (2 * fixP : Nat))

/-- c1 is the binary32 nearest to sqrt(2 ÷ pi), c2 the binary32 nearest to 0.044715 (R163). -/
def geluC1 : Num := decF b32 0x3F4C422A
def geluC2 : Num := decF b32 0x3D372713

/-- The exact product of two finite values. -/
def mulN (a b : Num) : Num :=
  match a, b with
  | .fin s m x, .fin t n y => .fin (s != t) (m * n) (x + y)
  | _, _ => .nan false

/-- The exact sum of two finite values. -/
def addN (a b : Num) : Num :=
  match a, b with
  | .fin s m x, .fin t n y => let r := addFin s m x t n y; .fin r.1 r.2.1 r.2.2
  | _, _ => .nan false

/-- The exact quotient of two finite values truncated to the accumulator format; the divisor is not zero. -/
def divA (gb : Nat) (a b : Num) : Nat :=
  match a, b with
  | .fin s m x, .fin t n y =>
    if m = 0 ∨ n = 0 then 0 else let r := quotSticky (gb + 8) m x n y; truncA gb (s != t) r.1 r.2
  | _, _ => accNan gb

/-- GELU in the rational form of R163. -/
def geluA (gb : Nat) (v : Num) : Nat :=
  let n (k : Nat) : Num := .fin false k 0
  let u := mulN geluC1 (addN v (mulN geluC2 (mulN v (mulN v v))))
  if numCmp u (n 3) != .lt then encA gb v
  else if numCmp u (.fin true 3 0) != .gt then 0
  else
    let u2 := mulN u u
    let num := mulN u (addN (n 27) u2)
    let den := addN (n 27) (mulN (n 9) u2)
    divA gb (mulN v (addN den num)) (mulN (n 2) den)

/-- ACT (R163): 0 ReLU, 1 GELU, 2 SiLU, 3 tanh, 4 exp2, on an accumulator value. -/
def actA (gb fn : Nat) (v : Num) : Nat :=
  match v with
  | .nan _ => accNan gb
  | .inf s =>
    if fn = 3 then truncA gb s 1 0
    else if s then 0 else accInf gb false
  | .fin s m x =>
    if fn = 0 then (if s then 0 else truncA gb s m x)
    else if fn = 1 then geluA gb v
    else if fn = 2 then siluA gb s m x
    else if fn = 3 then tanhA gb s m x
    else exp2A gb s m x

end Sys2Proof.Machine
end

