-- ==== Sys2Proof/Machine/Chain.lean ====
section
/-!
DEFINITION. Chains (spec/05): the descriptor, the refusals (R153–R158, R164–R167, R186), prologue stages (R159–R161), computing
stages (R162, R163, R71), running softmax (R183–R185), output formats and layout (R168–R172).
-/
namespace Sys2Proof.Machine

/-! ### The descriptor -/

/-- A 32-bit word of a descriptor. -/
def dWord (d : List Byte) (o : Nat) : Nat := leAt d o 4
def dNpro (d : List Byte) : Nat := nbits (dWord d 0) 0 3
def dNepi (d : List Byte) : Nat := nbits (dWord d 0) 3 4

def proStage (d : List Byte) (i : Nat) : ProStage :=
  let w := dWord d (0x10 + 4 * i)
  ⟨nbits w 0 8, nbit w 8, nbits w 9 3, nbit w 12, nbits w 16 7, nbits w 24 8, w⟩

def proStages (d : List Byte) : List ProStage := (List.range (dNpro d)).map (proStage d)

/-- An epilogue stage word. -/
structure EpiStage where
  op : Nat
  sf : Nat
  vec : Nat
  line : Nat
  arg : Nat
  imm : Nat
  raw : Nat
deriving DecidableEq, Repr

def epiStage (d : List Byte) (i : Nat) : EpiStage :=
  let w := dWord d (0x20 + 8 * i)
  ⟨nbits w 0 8, nbits w 8 3, nbits w 11 2, nbits w 16 7, nbits w 24 8, dWord d (0x24 + 8 * i), w⟩

def epiStages (d : List Byte) : List EpiStage := (List.range (dNepi d)).map (epiStage d)

/-- Reserved bits [15:13] and [23] of a stage word. -/
def stageRsv (w : Nat) : Bool := decide (nbits w 13 3 ≠ 0) || nbit w 23

/-- The header and its pads hold a reserved bit, or too many stages (R186, reason 0x40). -/
def headBad (d : List Byte) : Bool :=
  decide (dNpro d > 4 ∨ dNepi d > 8 ∨ nbits (dWord d 0) 7 25 ≠ 0 ∨ leAt d 4 12 ≠ 0 ∨ leAt d 0xC0 64 ≠ 0)

/-- A prologue stage that reason 0x40 refuses: an unknown OP, a reserved bit, a CAST to an unknown format. -/
def proBad (s : ProStage) : Bool :=
  decide (s.op = 0 ∨ s.op > 4) || stageRsv s.raw || (decide (s.op = 4) && decide (s.arg > 1))

/-- VEC values that a stage takes (spec/05, "Epilogue stages"). -/
def vecOk (s : EpiStage) : Bool :=
  match s.op with
  | 0x10 | 0x11 => decide (s.vec ≠ 2)
  | 0x13 | 0x17 => decide (s.vec = 2)
  | 0x15 | 0x16 => true
  | _ => decide (s.vec = 0)

/-- ARG values that a stage takes. -/
def argOk (s : EpiStage) : Bool :=
  match s.op with
  | 0x12 => decide (s.arg < 5)
  | 0x17 => decide (s.arg % 8 = s.arg ∧ nbit s.arg 1 = false)
  | 0x18 | 0x19 => decide (s.arg < 4)
  | 0x1C => decide (nbits s.arg 0 2 < 3 ∧ s.arg < 32)
  | _ => decide (s.arg = 0)

/-- CLAMP's bounds are ordered numbers. -/
def clampOk (s : EpiStage) : Bool :=
  let lo := decF b16 (nbits s.imm 0 16)
  let hi := decF b16 (nbits s.imm 16 16)
  !lo.isNan && !hi.isNan && numCmp lo hi != .gt

def epiBad (s : EpiStage) : Bool :=
  decide (s.op < 0x10 ∨ 0x1C < s.op) || stageRsv s.raw || !vecOk s || !argOk s || (decide (s.op = 0x14) && !clampOk s)

/-- Kind of a STORE stage. -/
def storeKind (s : EpiStage) : Nat := nbits s.arg 0 2

/-- Reserved bits of the store block and of the send block, where a stage uses them. -/
def blockBad (d : List Byte) (ss : List EpiStage) : Bool :=
  (ss.any (fun s => decide (s.op = 0x1C ∧ storeKind s = 0)) &&
    decide (nbits (dWord d 0x64) 9 23 ≠ 0 ∨ nbits (dWord d 0x68) 24 8 ≠ 0 ∨ nbits (dWord d 0x6C) 16 16 ≠ 0 ∨
      nbits (dWord d 0x74) 9 23 ≠ 0 ∨ leAt d 0x78 8 ≠ 0)) ||
  (ss.any (fun s => decide (s.op = 0x1B)) &&
    decide (nbits (dWord d 0x84) 27 5 ≠ 0 ∨ nbits (dWord d 0x88) 24 8 ≠ 0 ∨ nbits (dWord d 0x8C) 16 16 ≠ 0 ∨
      nbits (dWord d 0x94) 27 5 ≠ 0 ∨ nbits (dWord d 0xA0) 6 2 ≠ 0 ∨ nbits (dWord d 0xA0) 10 22 ≠ 0 ∨ leAt d 0xA4 28 ≠ 0))

/-- The first position of a list at which a property holds. -/
def firstPos {α : Type} (f : α → Bool) : Nat → List α → Option Nat
  | _, [] => none
  | i, x :: l => if f x then some i else firstPos f (i + 1) l

/-- The position of the first stage that strict mode does not permit (R71, R72). Whether a SCALE by IMM (VEC 3) is a "row or column scale"
the rule does not say: the model permits it, a DESIGN CHOICE (log entry 85). -/
def strictBadPro (ss : List ProStage) : Option Nat := firstPos (fun s => decide (s.op = 1)) 0 ss
def strictBadEpi (ss : List EpiStage) : Option Nat :=
  firstPos (fun s => decide ((s.op = 0x12 ∧ s.arg ≠ 0) ∨ s.op = 0x17 ∨ s.op = 0x18)) 4 ss

/-! ### Order and streams -/

def isComputing (op : Nat) : Bool := decide (0x10 ≤ op ∧ op ≤ 0x17)
def isWriting (op : Nat) : Bool := decide (op = 0x1B ∨ op = 0x1C)

/-- Kinds that may occur more than once (R164). -/
def mayRepeat (op : Nat) : Bool := decide (op = 0x10 ∨ op = 0x11 ∨ op = 0x12 ∨ op = 0x13 ∨ op = 0x15 ∨ op = 0x16)

/-- Classes of stages in the order R164 asks for: computing, then RERANGE, CAST and XPOSE, then writing. -/
def stageRank (op : Nat) : Nat := if isComputing op then 0 else if isWriting op then 2 else 1

def ranksRise : List Nat → Bool
  | a :: b :: l => decide (a ≤ b) && ranksRise (b :: l)
  | _ => true

/-- R164. -/
def orderOk (ss : List EpiStage) : Bool :=
  let ops := ss.map (fun s => s.op)
  let once := ops.filter (fun o => !mayRepeat o)
  let rr := firstPos (fun s => decide (s.op = 0x18)) 0 ss
  let ca := firstPos (fun s => decide (s.op = 0x19 ∧ 2 ≤ nbits s.arg 0 2)) 0 ss
  let pair := match rr, ca with
    | none, none => true
    | some i, some j => decide (i < j) &&
        (match ss[i]?, ss[j]? with
         | some a, some b => nbit a.arg 1 == nbit b.arg 0
         | _, _ => false)
    | _, _ => false
  ranksRise (ops.map stageRank) && decide once.Nodup && pair && ops.any isWriting

/-- The streams a prologue or an epilogue draws (R165): a folio and a fixed line, or the line of the current row or slice. -/
def proStreams (ss : List ProStage) : List (Nat × Option Nat) :=
  ((ss.filter (fun s => decide (s.op = 3))).map (fun s => (s.sf, if s.bc then some s.line else none))).eraseDups

def drawsStream (s : EpiStage) : Bool :=
  decide (s.op = 0x10 ∨ s.op = 0x11 ∨ s.op = 0x13 ∨ s.op = 0x15 ∨ s.op = 0x16 ∨ s.op = 0x17) && decide (s.vec ≠ 3)

def epiStreams (ss : List EpiStage) : List (Nat × Option Nat) :=
  ((ss.filter drawsStream).map (fun s => (s.sf, if s.vec = 2 then none else some s.line))).eraseDups

/-- Lines, elements and bytes of a line that a stream folio must hold (R167, R182); `rc` rows and columns of the bank. -/
def epiNeeds (rc : Nat) (s : EpiStage) : Nat × Nat × Nat :=
  if s.op = 0x17 then (rc, 0, 16) else (if s.vec = 2 then rc else s.line + 1, rc, 0)

/-- Why a stream folio is refused (R167): a reason of FOLIO_SHAPE (left) or of FOLIO_NOT_IN_USE (right). -/
def streamBad (fo : Folio) (excl : Bool) (need : Nat × Nat × Nat) : Option (Nat × Nat) :=
  if fo.fcfg = 0 then some (cFOLIO_SHAPE, 0x05)
  else if fo.role ≠ 2 ∨ excl then some (cFOLIO_SHAPE, 0x41)
  else if fo.kk < need.1 ∨ fo.mn < need.2.1 ∨ fo.mn * elSize fo.fmt < need.2.2 then some (cFOLIO_SHAPE, 0x42)
  else if !fo.inUse then some (cFOLIO_NOT_IN_USE, 0x01)
  else none

/-- Check stream folios (R167); `fail` takes the fault. -/
def withStreams (n : Fin 8) (pc cyc : Nat) (entry : Option Nat) (l : List (Nat × Bool × (Nat × Nat × Nat)))
    (fail : FaultRec → Hw → Hw) (hw : Hw) (k : Hw → Hw) : Hw :=
  match l with
  | [] => k hw
  | (f, ex, need) :: l =>
    let fo := (hw.core n).fol f
    match streamBad fo ex need with
    | some (cls, r) => fail (plainFault n cls pc 0 (folSyn r f 0 entry)) hw
    | none =>
      let v := checkLand n.val 3 pc cyc fo.landD hw
      if v.1 then
        fail { cls := cSCHED_LATE, sev := 2, unit := n.val, instr := pc, exp := frameOf fo.landD.cyc, act := frameOf cyc,
               syn := folLate f (fo.landD.cyc - cyc) } v.2
      else withStreams n pc cyc entry l fail v.2 k

/-! ### Slots -/

def noSlot : ChainSlot := ⟨false, [], landAt 0, [], false⟩
def Core.slot (c : Core) (i : Nat) : ChainSlot := c.slots.getD i noSlot
def Core.setSlot (i : Nat) (x : ChainSlot) (c : Core) : Core := { c with slots := c.slots.setIfInBounds i x }

/-- The descriptor that a slot holds at cycle `t`, if it is not empty then: that of the last CHN to it that lands by `t`. What such a CHN
has still to read is judged as memory holds it now (R179; log entry 80). -/
def slotDesc (hw : Hw) (n : Fin 8) (i t : Nat) : Option (List Byte) :=
  let c := hw.core n
  match (c.loads.filter (fun o => decide (o.dst = .chain i ∧ o.land ≤ t))).getLast? with
  | some o =>
    let gs := gotOf hw o.id
    some ((List.range 256).map (fun j =>
      if gs.any (fun g => decide (g.addr ≤ o.addr + j ∧ o.addr + j < g.addr + g.bytes.length)) then gotByte gs (o.addr + j)
      else hw.byte (o.addr + j)))
  | none => if (c.slot i).full then some (c.slot i).desc else none

/-- Use a slot (R155): landed by `cyc` (checker kind 4), not empty, and without a parity error (R195). -/
def withSlot (n : Fin 8) (pc cyc i : Nat) (entry : Option Nat) (fail : FaultRec → Hw → Hw) (hw : Hw)
    (k : List Byte → Hw → Hw) : Hw :=
  let s := (hw.core n).slot i
  let v := checkLand n.val 4 pc cyc s.land hw
  if v.1 then
    fail { cls := cSCHED_LATE, sev := 2, unit := n.val, instr := pc, exp := frameOf s.land.cyc, act := frameOf cyc,
           syn := 0x40000000 + i * 0x10000 + min (s.land.cyc - cyc) 255 } v.2
  else match slotDesc v.2 n i cyc with
    | none => fail (plainFault n cFOLIO_SHAPE pc 0 (folSyn 0x47 0 0 entry)) v.2
    | some d =>
      if s.perr then
        fail (plainFault n cSRAM_UNCORRECTABLE pc 0 (Config.eccSyndrome i % 2 ^ 32)) (Hw.bump 0xB00250 0 16 v.2)
      else k d v.2

/-- Operation `id`, issued at `cyc`, holds a slot through cycle `t` (R156). -/
def Core.holdSlot (cyc id i t : Nat) (c : Core) : Core :=
  c.setSlot i { c.slot i with held := (id, t + 1) :: (c.slot i).held.filter (fun e => decide (cyc < e.2)) }

/-! ### Prologue stages (R159–R161) -/

/-- The format of a delivered operand, with its FCFG word changed to match. -/
def Folio.withFmt (fo : Folio) (x : Nat) : Folio := { fo with fcfg := setField fo.fcfg 19 3 x }

/-- Rebuild the elements of an operand. -/
def Folio.setEls (fo : Folio) (fmt : Nat) (g : Nat → Nat → Nat) : Folio :=
  let fo' := fo.withFmt fmt
  { fo' with data := tabBytes ((folioElems fo').flatMap (fun p =>
      atAddr (p.2 * fo'.stride + p.1 * elSize fmt) (leBytes (g p.1 p.2) (elSize fmt)))) [] }

/-- Does a stage accept an operand? (reason 0x46) -/
def proAccepts (s : ProStage) (fo : Folio) : Bool :=
  match s.op with
  | 1 => decide (fo.fmt ≠ 3)
  | 2 => !isRh fo.fmt && decide (fo.mn = fo.kk)
  | 3 => !isRh fo.fmt
  | _ => if s.arg = 0 then decide (fo.fmt = 3) else decide (fo.fmt = 0)

/-- RERANGE of one exponent byte: −128 stays; the sum saturates to −127…127. -/
def reExp (c : Int) (e : Byte) : Byte × Bool :=
  if e = 0x80 then (e, false)
  else
    let v := e.toInt + c
    if v > 127 then (127, true) else if v < -127 then (0x81, true) else (BitVec.ofInt 8 v, false)

/-- What slice `k` does as it passes stage `stage` of the prologue: the flags it signals, a RERANGE that saturates; `late` for the second
B operand of a dual operation, which is read one cycle later (R135). -/
structure ProEv where
  stage : Nat
  k : Nat
  late : Nat
  flags : FpFlags
  sat : Bool
deriving DecidableEq, Repr

/-- The events of a stage that signals `f i k` at element (i, k). -/
def flagEvs (fo : Folio) (stage late : Nat) (f : Nat → Nat → FpFlags) : List ProEv :=
  (List.range fo.kk).filterMap (fun k =>
    let r := (List.range fo.mn).foldl (fun a i => a.or (f i k)) .none
    if r = .none then none else some ⟨stage, k, late, r, false⟩)

/-- One prologue stage on one operand: the operand, and what its slices do; `see s stage k late` is the core as slice `k` finds it. -/
def applyPro (see : ProStage → Nat → Nat → Nat → Core) (s : ProStage) (stage late : Nat) (fo : Folio) : Folio × List ProEv :=
  match s.op with
  | 1 =>
    let a : Int := nsigned s.arg 8
    if isRh fo.fmt then
      let r := (folioExps fo).map (fun p => (p, reExp a (fo.ex p.1 p.2)))
      ({ fo with strip := tabBytes (r.map (fun x => (x.1.2 * 64 + x.1.1, x.2.1))) [] },
       (List.range fo.kk).filterMap (fun k =>
         if r.any (fun x => decide (x.1.2 = k / blkLen fo.fmt) && x.2.2) then some ⟨stage, k, late, .none, true⟩ else none))
    else
      let fo' := fo.withFmt 2
      ({ fo' with strip := tabBytes ((folioExps fo').map (fun p => (p.2 * 64 + p.1, BitVec.ofInt 8 a))) [] }, [])
  | 2 => (fo.setEls fo.fmt (fun i k => fo.el k i), [])
  | 3 =>
    let f := ieeeOf fo.fmt
    let sum (i k : Nat) : Nat × FpFlags :=
      let sf := (see s stage k late).fol s.sf
      fpAdd f (decF f (fo.el i k)) (decF (ieeeOf sf.fmt) (sf.el i (if s.bc then s.line else k)))
    (fo.setEls fo.fmt (fun i k => (sum i k).1), flagEvs fo stage late (fun i k => (sum i k).2))
  | _ =>
    let src := ieeeOf fo.fmt
    let dst := if s.arg = 0 then b16 else b32
    let cv (i k : Nat) : Nat × FpFlags :=
      let v := decF src (fo.el i k)
      let r := encF dst v
      (r.1, r.2.or (.invalid v.isSnan))
    (fo.setEls (if s.arg = 0 then 0 else 3) (fun i k => (cv i k).1), flagEvs fo stage late (fun i k => (cv i k).2))

/-- Operands of an operation on their way to the cells, and what their slices do on it. -/
structure Opnds where
  a : Folio
  b : Folio
  b2 : Folio
  evs : List ProEv
deriving DecidableEq, Repr

/-- Apply the prologue in descriptor order (R159); none where a stage does not accept its operand (reason 0x46). -/
def applyStages (see : ProStage → Nat → Nat → Nat → Core) (dual : Bool) : Nat → List ProStage → Opnds → Option Opnds
  | _, [], o => some o
  | i, s :: l, o =>
    if s.opd then
      if !proAccepts s o.b || (dual && !proAccepts s o.b2) then none
      else
        let r := applyPro see s i 0 o.b
        let q := if dual then applyPro see s i 1 o.b2 else (o.b2, [])
        applyStages see dual (i + 1) l ⟨o.a, r.1, q.1, o.evs ++ r.2 ++ q.2⟩
    else if !proAccepts s o.a then none
    else
      let r := applyPro see s i 0 o.a
      applyStages see dual (i + 1) l ⟨r.1, o.b, o.b2, o.evs ++ r.2⟩

/-! ### Computing stages (R55, R62, R71, R162, R163) -/

/-- Kept bits of an accumulator mode: A40 or A40X. -/
def gbOf (mode : Nat) : Nat := if mode = 1 then 48 else 30

/-- The value of a cell in its bank's mode. -/
def cellVal (mode x : Nat) : Num := if mode = 2 then decF b32 x else decA (gbOf mode) x

/-- The exact sum of two values, specials as in IEEE 754-2019. -/
def exactAdd (a b : Num) : Num :=
  match a, b with
  | .nan _, _ => .nan false
  | _, .nan _ => .nan false
  | .inf s, .inf t => if s = t then .inf s else .nan false
  | .inf s, _ => .inf s
  | _, .inf t => .inf t
  | a, b => addN a b

/-- The exact product of two values. -/
def exactMul (a b : Num) : Num :=
  match a, b with
  | .nan _, _ => .nan false
  | _, .nan _ => .nan false
  | .inf s, b => if b.isZero then .nan false else .inf (s != b.sign)
  | a, .inf t => if a.isZero then .nan false else .inf (a.sign != t)
  | a, b => mulN a b

/-- The larger or smaller of two values; NaN if either is (R62). -/
def pickNum (mx : Bool) (a b : Num) : Num :=
  if a.isNan || b.isNan then .nan false
  else if numLtZ a b = mx then b else a

/-- The operand v of a cell (VEC). -/
def epiOperand (c : Core) (s : EpiStage) (r j : Nat) : Num :=
  if s.vec = 3 then decF b32 s.imm
  else
    let fo := c.fol s.sf
    let f := ieeeOf fo.fmt
    if s.vec = 0 then decF f (fo.el r s.line)
    else if s.vec = 1 then decF f (fo.el j s.line)
    else decF f (fo.el j r)

/-- A computing stage outside strict mode: exact, then truncated to the bank's format (R162). -/
def stageTrunc (gb : Nat) (s : EpiStage) (x : Nat) (v : Num) : Nat :=
  let a := decA gb x
  match s.op with
  | 0x10 | 0x13 => encA gb (exactAdd a v)
  | 0x11 => encA gb (exactMul a v)
  | 0x12 => actA gb s.arg a
  | 0x14 => encA gb (pickNum false (pickNum true a (decF b16 (nbits s.imm 0 16))) (decF b16 (nbits s.imm 16 16)))
  | 0x15 => encA gb (pickNum true a v)
  | 0x16 => encA gb (pickNum false a v)
  | _ => x

/-- A value as a binary32 pattern, exactly. -/
def toB32 (v : Num) : Nat := (encF b32 v).1

/-- A computing stage in strict mode: one binary32 operation (R71). -/
def stageStrict (s : EpiStage) (x : Nat) (v : Num) : Nat × FpFlags :=
  let a := decF b32 x
  match s.op with
  | 0x10 | 0x13 => fpAdd b32 a v
  | 0x11 => fpMul b32 a v
  | 0x12 => fpMinMax b32 true x 0
  | 0x14 =>
    let r := fpMinMax b32 true x (toB32 (decF b16 (nbits s.imm 0 16)))
    let q := fpMinMax b32 false r.1 (toB32 (decF b16 (nbits s.imm 16 16)))
    (q.1, r.2.or q.2)
  | 0x15 => let r := fpMinMax b32 true x (toB32 v); (r.1, r.2.or (.invalid v.isSnan))
  | 0x16 => let r := fpMinMax b32 false x (toB32 v); (r.1, r.2.or (.invalid v.isSnan))
  | _ => (x, .none)

/-! ### Running softmax (R183, R184) -/

/-- The softmax state of a row. -/
structure SmxState where
  sum : Nat
  pos : Nat
  mref : Int
  mrun : Int
  qpos : Nat
  init : Bool
  ovr : Bool
  full : Bool
  nan : Bool
deriving DecidableEq, Repr

def smxRead (l : List Byte) : SmxState :=
  let fl := leAt l 15 1
  ⟨leAt l 0 5, leAt l 5 3, nsigned (leAt l 8 2) 16, nsigned (leAt l 10 2) 16, leAt l 12 3, nbit fl 0, nbit fl 1, nbit fl 2, nbit fl 3⟩

def smxBytes (s : SmxState) : List Byte :=
  leBytes s.sum 5 ++ leBytes s.pos 3 ++ leBytes (toBits s.mref 16) 2 ++ leBytes (toBits s.mrun 16) 2 ++ leBytes s.qpos 3 ++
    [BitVec.ofNat 8 (b2n s.init + 2 * b2n s.ovr + 4 * b2n s.full + 8 * b2n s.nan)]

/-- The ceiling of a finite value. -/
def ceilNum (v : Num) : Int :=
  match v with
  | .fin s m x =>
    let up : Int := if 0 ≤ x then ((m <<< x.toNat : Nat) : Int) else (((m + 2 ^ (-x).toNat - 1) >>> (-x).toNat : Nat) : Int)
    let dn : Int := if 0 ≤ x then ((m <<< x.toNat : Nat) : Int) else ((m >>> (-x).toNat : Nat) : Int)
    if s then -dn else up
  | _ => 0

/-- What one row of ACCUM mode gives: outputs, state, and the CHNSTAT bits OVR, FULL, NAN it sets (bits 1–3). -/
structure SmxOut where
  ys : List Nat
  st : SmxState
  bits : Nat
deriving DecidableEq, Repr

/-- The reference and running maximum after the finite maximum `mt` of a tile (R183). -/
def smxMax (st : SmxState) (mx : Int) : SmxState × Bool :=
  let high := decide (mx > 32767)
  let mt : Int := if high then 32767 else if mx < -32768 then -32768 else mx
  let st1 := if st.init then st else { st with mref := mt, mrun := mt, sum := 0, init := true }
  let run := max st1.mrun mt
  let o := high || decide (run - st1.mref > 120)
  ({ st1 with mrun := run, ovr := st1.ovr || o }, o)

/-- ACCUM mode on a row of C values (R183). -/
def smxAccum (gb : Nat) (causal : Bool) (ncolF : Nat) (xs : List Nat) (st : SmxState) : SmxOut :=
  let cc := xs.length
  let ncol := if ncolF = 0 ∨ ncolF > cc then cc else ncolF
  let live (j : Nat) : Bool :=
    decide (j < ncol) && !st.full && decide (st.pos + j < 2 ^ 24) && !(causal && decide (st.pos + j > st.qpos))
  let vs := xs.mapIdx (fun j x => (live j, decA gb x))
  let bad := vs.any (fun v => v.1 && (v.2.isNan || v.2 == .inf false))
  let st1 := { st with nan := st.nan || bad }
  let fin := (vs.filter (fun v => v.1 && v.2.isFin)).map (fun v => v.2)
  let r : SmxState × List Nat × Bool :=
    if st1.nan then ({ st1 with sum := accNan 30 }, xs.map (fun _ => accNan gb), false)
    else
      let m : SmxState × Bool := match fin with
        | [] => (st1, false)
        | v :: l => smxMax st1 (ceilNum (l.foldl (pickNum true) v))
      let ys := vs.map (fun v => match v.1, v.2 with
        | true, .fin s mm x =>
          if m.1.init then
            match addN (.fin s mm x) (.fin (decide (0 < m.1.mref)) m.1.mref.natAbs 0) with
            | .fin s' m' x' => exp2A gb s' m' x'
            | _ => 0
          else 0
        | _, _ => 0)
      let sum := encA 30 (ys.foldl (fun a y => exactAdd a (decA gb y)) (decA 30 m.1.sum))
      ({ m.1 with sum := sum }, ys, m.2)
  let st2 := r.1
  let fills := !st.full && decide (st.pos + ncol ≥ 2 ^ 24)
  let st3 := if st.full then st2 else if fills then { st2 with pos := 0, full := true } else { st2 with pos := st.pos + ncol }
  ⟨r.2.1, st3, 2 * b2n r.2.2 + 4 * b2n fills + 8 * b2n bad⟩

/-- NORMALISE mode (R184). -/
def smxNormalise (gb : Nat) (st : SmxState) (x : Nat) : Nat :=
  let sum := decA 30 st.sum
  if !st.init || st.nan || sum.isZero || sum.isNan then accNan gb
  else match decA gb x, sum with
    | .nan _, _ => accNan gb
    | .inf _, .inf _ => accNan gb
    | .inf s, _ => accInf gb s
    | .fin _ _ _, .inf _ => 0
    | a, q => divA gb a q

/-! ### A row through the epilogue -/

/-- The bits of CORE_FPSTAT that the array sets: NV 3, OF 2, UF 1, NX 0 (R73). -/
def aBits (f : FpFlags) : Nat := 8 * b2n f.nv + 4 * b2n f.of + 2 * b2n f.uf + b2n f.nx

/-- A row on its way through an epilogue: the cells, its flags, and what it does as it passes. -/
structure RowOut where
  xs : List Nat
  flags : FpFlags
  effs : List RowEff
deriving DecidableEq, Repr

/-- Put an effect behind those of its cycle and before. -/
def insEff (e : RowEff) : List RowEff → List RowEff
  | [] => [e]
  | x :: l => if e.cyc < x.cyc then e :: x :: l else x :: insEff e l

/-- The folios as a stage that draws line `l` of folio `f` finds them in cycle `t`: with what rows have written by then (R182). -/
def viewAt (es : List RowEff) (f l t : Nat) (c : Core) : Core :=
  ((es.filter (fun e => decide (e.cyc ≤ t) && e.upd.any (fun u => decide (u.1 = f ∧ u.2.1 = l)))).foldl (fun l e => insEff e l) []).foldl
    (fun c e => c.pass e) c

/-- Row `r` passes stage `s`, which it leaves in cycle `t`. -/
def rowStage (c : Core) (mode id r t : Nat) (o : RowOut) (s : EpiStage) : RowOut :=
  if s.op = 0x17 then
    let fo := c.fol s.sf
    let st := smxRead ((List.range 16).map (fun i => tabGet memReset fo.data (r * 128 + i)))
    if nbit s.arg 0 then { o with xs := o.xs.map (smxNormalise (gbOf mode) st) }
    else
      let q := smxAccum (gbOf mode) (nbit s.arg 2) (nbits s.imm 0 7) o.xs st
      { o with xs := q.ys, effs := o.effs ++ [⟨id, t, some (s.sf, r, smxBytes q.st), q.bits, 0⟩] }
  else if !isComputing s.op then o
  else if mode = 2 then
    let rs := o.xs.mapIdx (fun j x => stageStrict s x (epiOperand c s r j))
    { o with xs := rs.map (fun q => q.1), flags := rs.foldl (fun a q => a.or q.2) o.flags }
  else { o with xs := o.xs.mapIdx (fun j x => stageTrunc (gbOf mode) s x (epiOperand c s r j)) }

/-- Row `r`, which enters stage `i` in cycle `t0 + r + 2 × i`, through the stages from `i` on. -/
def rowStages (c : Core) (es : List RowEff) (mode id t0 r : Nat) : Nat → List EpiStage → RowOut → RowOut
  | _, [], o => o
  | i, s :: l, o =>
    let t := t0 + r + 2 * i
    rowStages c es mode id t0 r (i + 1) l (rowStage (viewAt es s.sf (if s.vec = 2 then r else s.line) t c) mode id r (t + 2) o s)

/-- The rows of a bank of `rc` columns, read from cycle `t0` on, through all computing stages: up to the stage that writes softmax states
each row sees those that earlier rows have written back, behind it those of all rows in its time (R162, R182). -/
def epiRows (c : Core) (b : Bank) (rc id t0 : Nat) (ss : List EpiStage) : List RowOut :=
  let k := ((firstPos (fun s => decide (s.op = 0x17) && !nbit s.arg 0) 0 ss).map (fun j => j + 1)).getD ss.length
  let first := (List.range rc).foldl (fun (a : List RowOut × List RowEff) r =>
    let o := rowStages c a.2 b.mode id t0 r 0 (ss.take k)
      ⟨(List.range rc).map (fun j => tabGet (fun _ => 0) b.cells (64 * r + j)), .none, []⟩
    (a.1 ++ [o], a.2 ++ o.effs)) ([], c.rows)
  first.1.mapIdx (fun r o => rowStages c first.2 b.mode id t0 r k (ss.drop k) o)

/-! ### Output (R168–R171) -/

/-- The output of a chain: format, elements of each line, exponent rows, the flags that each line's conversion signals. -/
structure ChainOut where
  fmt : Nat
  lines : List (List Nat)
  exps : List (List Byte)
  flags : List FpFlags
deriving DecidableEq, Repr

/-- The output format: CAST's, else binary32 (R168): 0 binary16, 1 binary32, 2 RH16/b16, 3 RH16/b32. -/
def outFmt (ss : List EpiStage) : Nat := ((ss.find? (fun s => decide (s.op = 0x19))).map (fun s => nbits s.arg 0 2)).getD 1

/-- RERANGE's direction: blocks across lines. -/
def outAcross (ss : List EpiStage) : Bool := ((ss.find? (fun s => decide (s.op = 0x18))).map (fun s => nbit s.arg 0)).getD false

def outXpose (ss : List EpiStage) : Bool := ss.any (fun s => decide (s.op = 0x1A))

/-- The folio format that an output format is. -/
def folioFmt (o : Nat) : Nat := if o = 1 then 3 else if o = 0 then 0 else o - 1

/-- Columns of a list of equally long lines. -/
def transpose (l : List (List Nat)) : List (List Nat) :=
  (List.range ((l.head?.map List.length).getD 0)).map (fun j => l.map (fun x => x.getD j 0))

/-- One value to binary16 or binary32 as it leaves (R56, R58; in strict mode the sign of zero stays, R70). -/
def outEl (mode : Nat) (f : Fmt) (x : Nat) : Nat × FpFlags :=
  if mode = 2 then (if f.p = 24 then (x, .none) else encF f (decF b32 x)) else (encArr f (cellVal mode x), .none)

/-- Groups of `l` consecutive values of a line, each packed: elements and exponents. -/
def packLine (mode bl : Nat) (xs : List Nat) : List Nat × List Byte :=
  let g := (chunks bl xs.length xs).map (fun b => packBlock (b.map (cellVal mode)))
  (g.flatMap (fun p => p.1), g.map (fun p => p.2))

/-- The lines and exponent rows of an output. -/
def chainOut (mode : Nat) (ss : List EpiStage) (rows : List (List Nat)) : ChainOut :=
  let fmt := outFmt ss
  let lines := if outXpose ss then transpose rows else rows
  if fmt < 2 then
    let f := if fmt = 0 then b16 else b32
    let r := lines.map (fun l => l.map (outEl mode f))
    ⟨fmt, r.map (fun l => l.map (fun p => p.1)), [], r.map (fun l => l.foldl (fun a p => a.or p.2) .none)⟩
  else
    let bl := if fmt = 2 then 16 else 32
    if outAcross ss then
      let cols := (transpose lines).map (packLine mode bl)
      ⟨fmt, transpose (cols.map (fun p => p.1)),
       (List.range (ceilDiv lines.length bl)).map (fun b => cols.map (fun p => p.2.getD b 0)), []⟩
    else
      let ps := lines.map (packLine mode bl)
      ⟨fmt, ps.map (fun p => p.1),
       (List.range (ceilDiv ((lines.head?.map List.length).getD 0) bl)).map (fun b => ps.map (fun p => p.2.getD b 0)), []⟩

/-- Bytes of an element of an output format. -/
def outSize (fmt : Nat) : Nat := if fmt = 1 then 4 else 2

def lineBytes (fmt : Nat) (l : List Nat) : List Byte := l.flatMap (fun x => leBytes x (outSize fmt))

/-- The beats of a writing stage to memory or a peer (R170, R171): beat number, address, bytes. -/
def outBeats (o : ChainOut) (addr pitch eaddr epitch : Nat) : List (Nat × Nat × List Byte) :=
  let els := (o.lines.mapIdx (fun i l =>
    let bs := lineBytes o.fmt l
    (chunks 128 bs.length bs).mapIdx (fun q b => (addr + i * pitch + 128 * q, b)))).flatten
  let ex := o.exps.mapIdx (fun b l => (eaddr + b * epitch, l))
  (els ++ ex).mapIdx (fun j p => (j, p.1, p.2))

/-- The element bytes and strip bytes that STORE kind 1 or 2 puts into a folio of role A, B or RAW (R172). -/
def outFolio (o : ChainOut) (role : Nat) : List (Nat × Byte) × List (Nat × Byte) :=
  let es := outSize o.fmt
  let at_ (line pos : Nat) : Nat := if role = 0 then pos * 128 + line * es else line * 128 + pos * es
  ((o.lines.mapIdx (fun i l => (l.mapIdx (fun p x => atAddr (at_ i p) (leBytes x es))).flatten)).flatten,
   (o.exps.mapIdx (fun b l => l.mapIdx (fun p e => (b * 64 + p, e)))).flatten)

end Sys2Proof.Machine
end

