-- ==== Sys2Proof/Machine/Mma.lean ====
section
/-!
DEFINITION. The array (spec/04): the checks of an operation (R126, R128–R133, R138, R155, R159), its timing, its steps (R44–R54,
R68, R114), sequences (R139, R140), MMAC (R178–R181), halts (R143–R147).
-/
namespace Sys2Proof.Machine

/-! ### Fields and modes -/

def mmFa (w : W32) : Nat := wf w 24 3
def mmFb (w : W32) : Nat := wf w 21 3
def mmFb2 (w : W32) : Nat := wf w 18 3
def mmAcc (w : W32) : Nat := wf w 17 1
def mmZ (w : W32) : Bool := nbit w.toNat 16
def mmD (w : W32) : Bool := nbit w.toNat 15
def mmC (w : W32) : Bool := nbit w.toNat 14
def mmP (w : W32) : Bool := nbit w.toNat 13
def mmPs (w : W32) : Nat := wf w 11 2
def mmS (w : W32) : Bool := nbit w.toNat 10
def mmSe (w : W32) : Nat := wf w 6 4
def mmSn (w : W32) : Nat := wf w 2 4

/-- The banks an operation writes. -/
def mmBanks (w : W32) : List Nat := if mmD w then [0, 1] else [mmAcc w]

/-- The array mode of a pair of formats (R128); none where it is refused (R52, R69). -/
def pairMode (strict : Bool) (x y : Nat) : Option Nat :=
  if strict then (if isRh x || isRh y then none else some 2)
  else if x = 3 ∨ y = 3 then (if isRh x || isRh y then none else some 1)
  else some 0

/-- Step length of a pair (R44, R53; 1 in strict mode, R68). -/
def stepLen (mode x y : Nat) : Nat := if mode = 2 then 1 else if mode = 1 then 16 else min (blkLen x) (blkLen y)

def roundUp (k n : Nat) : Nat := ceilDiv k n * n

/-- Cycles per slice of an operation: 1, 2 in dual mode, 16 in strict mode (R131, R135). -/
def opRate (mode : Nat) (dual : Bool) : Nat := if mode = 2 then 16 else if dual then 2 else 1

def ArrOp.dual (o : ArrOp) : Bool := mmD o.word
def ArrOp.rate (o : ArrOp) : Nat := opRate o.mode o.dual
/-- Step length of bank index `i` (0 first, 1 second of a dual operation). -/
def ArrOp.n (o : ArrOp) (i : Nat) : Nat := stepLen o.mode o.fa.fmt (if i = 1 then o.fb2.fmt else o.fb.fmt)
/-- The longer step: its boundaries are boundaries of both banks (log entry 8). -/
def ArrOp.nMax (o : ArrOp) : Nat := if o.dual then max (o.n 0) (o.n 1) else o.n 0
/-- Kp: the larger of the banks' padded lengths (R135). -/
def ArrOp.kp (o : ArrOp) : Nat := roundUp o.fa.kk o.nMax
/-- The cycle at which slice `from` enters the cells. -/
def ArrOp.entry0 (o : ArrOp) : Nat := o.start + 6 + 2 * o.q
/-- The cycle at which the step that begins at slice `s` of length `n` is added to bank index `i` (R131, R135). -/
def ArrOp.addCyc (o : ArrOp) (i s n : Nat) : Nat :=
  if o.dual && decide (o.mode ≠ 2) then o.entry0 + 2 * (s - o.from_ + n) - 1 + i else o.entry0 + (s - o.from_ + n) * o.rate
/-- Landing (R131, R135, R160). -/
def ArrOp.landCyc (o : ArrOp) : Nat := o.entry0 + 1 + (o.kp - o.from_) * o.rate
/-- Occupancy for R133 (R128, R160). -/
def ArrOp.occ (o : ArrOp) : Nat := (o.kp - o.from_) * o.rate + 2 * o.q
/-- The cycle of the last read of a slice. -/
def ArrOp.lastRead (o : ArrOp) : Nat :=
  o.start + 1 + (o.fa.kk - 1 - o.from_) * o.rate + (if o.dual && decide (o.mode ≠ 2) then 1 else 0)

/-! ### Arithmetic -/

/-- The values of index `i` of an operand for slices `lo` to `hi − 1`. -/
def sliceVals (fo : Folio) (i lo hi : Nat) : List Num := (List.range (hi - lo)).map (fun d => fo.val i (lo + d))

/-- One cell of a bank through slices `lo` to `hi − 1`: block steps (R44–R49, R53, R54, R114), or one fused multiply-add per slice
(R68). -/
def cellRun (mode n : Nat) (a b : Folio) (i j : Nat) : Nat → Nat → Nat → Nat → Nat × FpFlags
  | 0, _, _, acc => (acc, .none)
  | m + 1, lo, hi, acc =>
    if hi ≤ lo ∨ a.kk ≤ lo then (acc, .none)
    else
      let h := min (lo + n) a.kk
      let xs := sliceVals a i lo h
      let ys := sliceVals b j lo h
      let r : Nat × FpFlags :=
        if mode = 2 then
          (List.zip xs ys).foldl (fun s p => let q := fpFma b32 p.1 p.2 (decF b32 s.1); (q.1, s.2.or q.2)) (acc, .none)
        else (blockStep (gbOf mode) (if mode = 1 then 50 else 34) acc (List.zip xs ys), .none)
      let t := cellRun mode n a b i j m (lo + n) hi r.1
      (t.1, r.2.or t.2)

/-- The cells that an operation updates in a bank (R114). -/
def bankRun (mode n : Nat) (a b : Folio) (lo hi : Nat) (init : Bool) (cells : List (Nat × Nat)) :
    List (Nat × Nat) × FpFlags :=
  let z : List (Nat × Nat) := if init then [] else cells
  ((List.range a.mn).flatMap (fun i => (List.range b.mn).map (fun j => (i, j)))).foldl (fun s p =>
    let k := 64 * p.1 + p.2
    let r := cellRun mode n a b p.1 p.2 (hi - lo) lo hi (tabGet (fun _ => 0) z k)
    (tabPut (fun _ => 0) k r.1 s.1, s.2.or r.2)) (z, .none)

def noBank : Bank := ⟨false, none, 0, [], landAt 0, 0, 0, []⟩
def Core.bank (c : Core) (b : Nat) : Bank := c.banks.getD b noBank
def Core.setBank (b : Nat) (x : Bank) (c : Core) : Core := { c with banks := c.banks.setIfInBounds b x }

/-- A bank is live at a cycle (R130, R137). -/
def Bank.liveAt (b : Bank) (t : Nat) : Bool :=
  b.live && (match b.dieAt with
    | none => true
    | some d => decide (t < d))

/-- Add the steps of an operation on slices `from` to `hi − 1` to its banks by cycle `t`; in strict mode they set flags (R73, R74), all of
them in cycle `t`, its landing or halt: no rule states the cycle, a DESIGN CHOICE (log entry 100). -/
def runOp (n : Fin 8) (o : ArrOp) (hi t : Nat) (hw : Hw) : Hw :=
  ((mmBanks o.word).mapIdx (fun i b => (i, b))).foldl (fun hw p =>
    let c := hw.core n
    let bk := c.bank p.2
    let fb := if p.1 = 1 then o.fb2 else o.fb
    let r := bankRun o.mode (o.n p.1) o.fa fb o.from_ hi o.init bk.cells
    let hw := hw.setCore n (c.setBank p.2 { bk with cells := r.1, perr := if o.init then [] else bk.perr })
    if o.mode = 2 ∧ strict hw n then setFp n t (aBits r.2) hw else hw) hw

/-! ### Registers of the array -/

def FSTART : Nat := 0x108
def ALAUNCH : Nat := 0x10C

/-- CORE_FSTART.VALID. -/
def fsValid (hw : Hw) (n : Fin 8) : Bool := nbit (hw.reg (coreReg n FSTART)).toNat 31

def setFstart (n : Fin 8) (valid seq : Bool) (entry slice : Nat) (hw : Hw) : Hw :=
  hw.setReg (coreReg n FSTART) (BitVec.ofNat 32 (b2n valid * 2 ^ 31 + b2n seq * 2 ^ 20 + entry % 16 * 2 ^ 16 + slice % 128))

/-- RUN while an operation, a sequence or the second part of an MMAC is in progress (R152). -/
def Core.restArray (c : Core) : Core :=
  if c.ast = .run ∧ c.ops.isEmpty ∧ c.seq.isNone ∧ c.mmacs.isEmpty then { c with ast := .idle } else c

/-! ### Checks of an operation -/

/-- Everything the checks of an operation know. -/
structure MmaCtx where
  pc : Nat
  /-- the cycle of issue -/
  cyc : Nat
  /-- the cycle at which the operation counts as issued (R179) -/
  tm : Nat
  entry : Option Nat
  /-- the folio an MMAC's read-out fills (R179) -/
  ib : Option Nat
  /-- a relaunch (R146) and its first slice -/
  resume : Bool
  slice : Nat
  /-- the operation number that an MMAC gave its second part -/
  id : Option Nat
deriving DecidableEq, Repr

/-- The refusals that need no landing: R126, R129 but for formats, folios not configured. -/
def mmaShape (n : Fin 8) (x : MmaCtx) (strict : Bool) (c : Core) (w : W32) : Option FaultRec :=
  let fs := if mmD w then [mmFa w, mmFb w, mmFb2 w] else [mmFa w, mmFb w]
  let shape (r f : Nat) : Option FaultRec := some (plainFault n cFOLIO_SHAPE x.pc 0 (folSyn r f 0 x.entry))
  let use (r f : Nat) : Option FaultRec := some (plainFault n cFOLIO_NOT_IN_USE x.pc 0 (folSyn r f 0 x.entry))
  match fs.find? (fun f => decide ((c.fol f).fcfg = 0)) with
  | some f => shape 0x05 f
  | none =>
    if mmFa w ∈ fs.drop 1 then shape 0x14 (mmFa w)
    else if mmD w ∧ mmFb w = mmFb2 w then shape 0x14 (mmFb w)
    else if (c.fol (mmFa w)).role ≠ 0 then shape 0x10 (mmFa w)
    else match (fs.drop 1).find? (fun f => decide ((c.fol f).role ≠ 1)) with
      | some f => shape 0x10 f
      | none =>
        match (fs.drop 1).find? (fun f => decide ((c.fol f).kk ≠ (c.fol (mmFa w)).kk)) with
        | some f => shape 0x11 f
        | none =>
          if mmD w ∧ strict then shape 0x15 0
          else match fs.find? (fun f => decide (x.ib ≠ some f) && !(c.fol f).inUse) with
            | some f => use 0x01 f
            | none =>
              match fs.find? (fun f => decide (x.ib ≠ some f) && isRh (c.fol f).fmt && !(c.fol f).stripValid) with
              | some f => use 0x02 f
              | none => none

/-- The mode of an operation on delivered operands (R128, R159); none where the formats are refused. R128's table gives no mode for a dual
operation whose two pairs select different ones: the model refuses it like a pair that it bars, a DESIGN CHOICE (log entry 106). -/
def opMode (strict dual : Bool) (o : Opnds) : Option Nat :=
  match pairMode strict o.a.fmt o.b.fmt with
  | none => none
  | some m => if dual then (if pairMode strict o.a.fmt o.b2.fmt = some m then some m else none) else some m

/-- The prologue of a word: its stages, none of them without P. -/
def withPrologue (n : Fin 8) (x : MmaCtx) (w : W32) (strict : Bool) (fail : FaultRec → Hw → Hw) (hw : Hw)
    (k : List ProStage → Opnds → Hw → Hw) : Hw :=
  let c := hw.core n
  let o : Opnds := ⟨c.fol (mmFa w), c.fol (mmFb w), c.fol (mmFb2 w), []⟩
  if !mmP w then k [] o hw
  else
    withSlot n x.pc x.tm (mmPs w) x.entry fail hw (fun d hw =>
      let ss := proStages d
      let shape (r : Nat) (hw : Hw) : Hw := fail (plainFault n cFOLIO_SHAPE x.pc 0 (folSyn r 0 0 x.entry)) hw
      if headBad d || ss.any proBad then shape 0x40 hw
      else match (if strict then strictBadPro ss else none) with
        | some p => fail (plainFault n cCHAIN_STREAMS x.pc 0 (0x00010000 + p)) hw
        | none =>
          if (proStreams ss).length > 3 then
            fail (plainFault n cCHAIN_STREAMS x.pc 0 (0x00020000 + (proStreams ss).length)) hw
          else
            let excl (f : Nat) : Bool := decide (f = mmFa w ∨ f = mmFb w) || (mmD w && decide (f = mmFb2 w))
            let needs := (ss.filter (fun s => decide (s.op = 3))).map (fun s =>
              let m := if s.opd then max o.b.mn (if mmD w then o.b2.mn else 0) else o.a.mn
              (s.sf, excl s.sf, (if s.bc then s.line + 1 else o.a.kk, m, 0)))
            withStreams n x.pc x.tm x.entry needs fail hw (fun hw =>
              match applyStages (fun _ _ _ _ => hw.core n) (mmD w) 0 ss o with
              | none => shape 0x46 hw
              | some o' => k ss o' hw))

/-- Operand folios have landed by the cycle the operation counts from (R132). -/
def withOperandsLanded (n : Fin 8) (x : MmaCtx) (fs : List Nat) (fail : FaultRec → Hw → Hw) (hw : Hw) (k : Hw → Hw) : Hw :=
  match fs with
  | [] => k hw
  | f :: l =>
    if x.ib = some f then withOperandsLanded n x l fail hw k
    else
      let fo := (hw.core n).fol f
      let late (ld : Land) : FaultRec :=
        { cls := cSCHED_LATE, sev := 2, unit := n.val, instr := x.pc, exp := frameOf ld.cyc, act := frameOf x.tm,
          syn := folLate f (ld.cyc - x.tm) }
      let v := checkLand n.val 3 x.pc x.tm fo.landD hw
      if v.1 then fail (late fo.landD) v.2
      else if !isRh fo.fmt then withOperandsLanded n x l fail v.2 k
      else
        let u := checkLand n.val 3 x.pc x.tm fo.landS v.2
        if u.1 then fail (late fo.landS) u.2 else withOperandsLanded n x l fail u.2 k

def aseqWord (hw : Hw) (n : Fin 8) (e : Nat) : W32 := hw.reg (coreReg n (0x200 + 4 * e))

/-- The format in which a prologue delivers operand A (`b` false) or B. -/
def proFmt (b : Bool) (ss : List ProStage) (fmt : Nat) : Nat :=
  (ss.filter (fun s => s.opd == b)).foldl (fun x s =>
    if s.op = 1 then (if isRh x then x else 2) else if s.op = 4 then (if s.arg = 0 then 0 else 3) else x) fmt

/-- The mode and occupancy of a word with the folios and slots as they stand (R128, R160), where its formats go together. -/
def wordMode (hw : Hw) (n : Fin 8) (w : W32) : Option (Nat × Nat) :=
  let c := hw.core n
  let ss := if mmP w then proStages (c.slot (mmPs w)).desc else []
  let x := proFmt false ss (c.fol (mmFa w)).fmt
  let ys := (if mmD w then [mmFb w, mmFb2 w] else [mmFb w]).map (fun f => proFmt true ss (c.fol f).fmt)
  match pairMode (strict hw n) x (ys.headD 0) with
  | none => none
  | some m =>
    some (m, roundUp (c.fol (mmFa w)).kk (ys.foldl (fun a y => max a (stepLen m x y)) 1) * opRate m (mmD w) + 2 * ss.length)

/-- The occupancy of entries `e` to `last` of the sequencer buffer (R133, R139). -/
def entriesOcc (hw : Hw) (n : Fin 8) (e last : Nat) : Nat :=
  ((List.range (last + 1 - e)).map (fun i => ((wordMode hw n (aseqWord hw n (e + i))).map (fun x => x.2)).getD 0)).sum

/-- The end of the occupancy of a sequence in progress. -/
def seqEnd (hw : Hw) (n : Fin 8) (q : SeqRun) : Nat := q.at_ + entriesOcc hw n q.next q.last

/-- The array has not come to the end of the last operation's occupancy in cycle `t` (R133). -/
def occupied (hw : Hw) (n : Fin 8) (t : Nat) : Bool :=
  let c := hw.core n
  decide (t < c.arrFree) || c.seq.any (fun q => decide (t < seqEnd hw n q))

/-- The array takes no operation in these cycles (R133): the last one's occupancy, a sequence, a halt, a waiting MMAC part. -/
def arrayBusy (hw : Hw) (n : Fin 8) (t occ : Nat) (inSeq resume : Bool) : Bool :=
  let c := hw.core n
  (!inSeq && occupied hw n t) ||
  (!resume && decide ((c.ast = .halting ∧ c.mmacs.isEmpty) ∨ c.ast = .scrub ∨ c.ast = .stalled)) ||
  c.mmacs.any (fun m => decide (t < m.at_ + m.occ ∧ m.at_ < t + occ))

/-- The cycle in which slice `k` of an operand reaches stage `i` of the prologue. -/
def ArrOp.passes (o : ArrOp) (i k late : Nat) : Nat := o.start + 1 + (k - o.from_) * o.rate + 2 * i + late

/-- A stage of the prologue draws a stream folio. -/
def proDraws (ss : List ProStage) : Bool := ss.any (fun s => decide (s.op = 3))

/-- The operands that the prologue of `o` delivers from folios `fa`, `fb` and `fb2`, each slice with the lines of the stream folios as they
stand when it passes (R159, R182); `old` where it draws none. -/
def drawn (c : Core) (fa fb fb2 : Nat) (o : ArrOp) (ss : List ProStage) (old : Opnds) : Opnds :=
  if proDraws ss then
    (applyStages (fun s i k late => viewAt c.rows s.sf (if s.bc then s.line else k) (o.passes i k late) c) o.dual 0 ss
      ⟨c.fol fa, c.fol fb, c.fol fb2, []⟩).getD old
  else old

/-- All checks of an operation, its word with C and S taken as 0, and the operation they let start. Of several that fail no rule says which
is raised: the model takes them in the order written here, a DESIGN CHOICE (log entry 107). -/
def withMma (n : Fin 8) (x : MmaCtx) (w : W32) (fail : FaultRec → Hw → Hw) (hw : Hw)
    (k : ArrOp → List ProStage → Opnds → Hw → Hw) : Hw :=
  let st := strict hw n
  match mmaShape n x st (hw.core n) w with
  | some r => fail r hw
  | none =>
    withPrologue n x w st fail hw (fun ss o hw =>
      let shape (r b : Nat) : FaultRec := plainFault n cFOLIO_SHAPE x.pc 0 (folSyn r 0 b x.entry)
      match opMode st (mmD w) o with
      | none => fail (shape 0x12 0) hw
      | some mode =>
        let wide := ([(mmFa w, o.a), (mmFb w, o.b)] ++ (if mmD w then [(mmFb2 w, o.b2)] else [])).find? (fun p => decide (p.2.mn > 32))
        match (if mode ≠ 0 then wide else none) with
        | some p => fail (plainFault n cFOLIO_SHAPE x.pc 0 (folSyn 0x17 p.1 0 x.entry)) hw
        | none =>
          let c := hw.core n
          let keep := !mmZ w && !x.resume
          match (mmBanks w).find? (fun b => keep && (c.bank b).liveAt x.tm && decide ((c.bank b).mode ≠ mode)) with
          | some b => fail (shape 0x13 b) hw
          | none =>
            match (mmBanks w).find? (fun b => keep && !(c.bank b).liveAt x.tm) with
            | some b => fail (plainFault n cFOLIO_NOT_IN_USE x.pc 0 (folSyn 0x03 0 b x.entry)) hw
            | none =>
              withOperandsLanded n x (if mmD w then [mmFa w, mmFb w, mmFb2 w] else [mmFa w, mmFb w]) fail hw (fun hw =>
                let c := hw.core n
                let op0 : ArrOp :=
                  ⟨x.id.getD hw.nid, w, x.tm, x.pc, x.entry, o.a, o.b, o.b2, mode, ss.length, x.slice, mmZ w && !x.resume, 0⟩
                let o := drawn c (mmFa w) (mmFb w) (mmFb2 w) op0 ss o
                let op := { op0 with fa := o.a, fb := o.b, fb2 := o.b2, land := op0.landCyc }
                if arrayBusy hw n x.tm op.occ x.entry.isSome x.resume then
                  fail (atIssue n cSCHED_SLOT_CONFLICT x.pc x.cyc 0 0x30000001) hw
                else
                  match ((mmBanks w).mapIdx (fun i b => (i, b))).find? (fun p =>
                    decide (op.addCyc p.1 op.from_ (op.n p.1) ≤ (c.bank p.2).ardLast)) with
                  | some p => fail (atIssue n cSCHED_SLOT_CONFLICT x.pc x.cyc 0 (0x30000005 + p.2 * 0x10000)) hw
                  | none => k op ss o hw))

/-! ### Launching -/

/-- Cycles in which an operation takes slices, as charges of the array (R134): one run, or one cycle a slice in strict mode. Whether it
"takes" the padding slices, which no folio holds, no rule says: the model does not charge them, a DESIGN CHOICE (log entry 108). -/
def opCharges (o : ArrOp) : List Charge :=
  if o.mode = 2 then (List.range (o.fa.kk - o.from_)).map (fun k => ⟨o.start + 1 + 16 * k, o.start + 1 + 16 * k, 1, o.pc⟩)
  else [⟨o.start + 1, o.lastRead, 1, o.pc⟩]

/-- The last cycle in which a prologue stage handles a slice of an operation: that in which the last slice enters (R156, R160). -/
def ArrOp.lastEntry (o : ArrOp) : Nat := o.entry0 + (o.fa.kk - 1 - o.from_) * o.rate + b2n o.dual

/-- The times in which stage `i` of a prologue reads its stream: first cycle, and first cycle after (R167). -/
def ArrOp.streamTimes (o : ArrOp) (i : Nat) (opd : Bool) : List (Nat × Nat) :=
  let both := b2n (o.dual && opd)
  if o.rate = 1 ∨ both = 1 then [(o.passes i o.from_ 0, o.passes i (o.fa.kk - 1) both + 1)]
  else (List.range (o.fa.kk - o.from_)).map (fun d => (o.passes i (o.from_ + d) 0, o.passes i (o.from_ + d) 0 + 1))

/-- What the slices of an operation do as they leave the stages of its prologue (R73, R74, R159). -/
def proEffs (o : ArrOp) (flagged : Bool) (evs : List ProEv) : List RowEff :=
  (evs.filter (fun e => decide (o.from_ ≤ e.k))).map (fun e =>
    ⟨o.id, o.passes (e.stage + 1) e.k e.late, none, b2n e.sat, if flagged then aBits e.flags else 0⟩)

/-- Something that an operation reads has a parity error (R195). -/
def opHurt (c : Core) (o : ArrOp) (ss : List ProStage) : Bool :=
  (if mmD o.word then [mmFa o.word, mmFb o.word, mmFb2 o.word] else [mmFa o.word, mmFb o.word]).any (fun f =>
    (c.fol f).hurtData || (isRh (c.fol f).fmt && (c.fol f).hurtStrip)) ||
  ss.any (fun s => decide (s.op = 3) && (c.fol s.sf).hurtData) ||
  (!o.init && (mmBanks o.word).any (fun b => !(c.bank b).perr.isEmpty))

/-- Note a chain that draws stream folios; those that have drawn their last line are forgotten. -/
def Core.keepRun (r : ChainRun) (c : Core) : Core := { c with runs := c.runs.filter (fun x => decide (r.cyc ≤ x.stop)) ++ [r] }

/-- Start an operation (R130, R131, R127, R156, R160): the banks go live in its mode, its folios and streams are busy while they are read,
its slot is held until the last slice enters. Two points are a DESIGN CHOICE: a folio is busy through the cycle that reads its last
slice, though the worked example calls f0 and f1 no longer busy in that cycle (log entry 105); an operation that makes a bank live while a
read-out with RETAIN = 0 still reads it keeps it live (log entry 109). -/
def launchOp (n : Fin 8) (o : ArrOp) (ss : List ProStage) (d : Opnds) (hw : Hw) : Hw :=
  let hw1 := hw.newId.modCore n (fun c =>
    let c := (if mmD o.word then [mmFa o.word, mmFb o.word, mmFb2 o.word] else [mmFa o.word, mmFb o.word]).foldl
      (fun c f => c.makeBusy o.start o.id f (o.start + 1) (o.lastRead + 1)) c
    let c := ((ss.mapIdx (fun i s => (i, s))).filter (fun p => decide (p.2.op = 3))).foldl (fun c p =>
      (o.streamTimes p.1 p.2.opd).foldl (fun c t => c.makeBusy o.start o.id p.2.sf t.1 t.2) c) c
    let c := if mmP o.word then c.holdSlot o.start o.id (mmPs o.word) o.lastEntry else c
    let c := (mmBanks o.word).foldl (fun c b =>
      c.setBank b { c.bank b with live := true, dieAt := none, mode := o.mode, land := landAt o.land }) c
    let c := if proDraws ss then c.keepRun ⟨o.id, o.pc, o.start, o.lastEntry, (hw.core n).folios, (hw.core n).rows, .op o ss⟩ else c
    { c with ops := c.ops ++ [o], ast := .run, arrFree := o.start + o.occ, charges := c.charges ++ opCharges o,
             rows := c.rows ++ proEffs o (decide (o.mode = 2)) d.evs })
  parityStop n o.pc (opHurt (hw.core n) o ss) hw1

/-- The word of an operation with C taken as 0: SRC, CS and IB of an MMAC are no fields of its MMA part (R178). -/
def plainMma (w : W32) : W32 := if mmC w then setField (setField w 14 1 0) 2 8 0 else w

/-- MMA and dual MMA. -/
def coreMma (m : Mn) (n : Fin 8) (w : W32) (hw : Hw) : Hw :=
  withIssue n m w hw (fun cyc pc hw =>
    let x : MmaCtx := ⟨pc, cyc, cyc, none, none, false, 0, none⟩
    withMma n x w (fun r hw => coreFault n r hw) hw (fun op ss d hw =>
      launchOp n op ss d ((advance n w cyc hw).setReg (coreReg n ALAUNCH) w)))

/-! ### Sequences -/

/-- A word that may stand in the sequencer buffer (R139, R140). -/
def entryOk (w : W32) : Bool :=
  decide (classOf w = 0x14) && !mmS w && !mmC w && (decMma w).isSome

/-- Start entry `e` of a sequence at cycle `t` (R140). -/
def seqEntry (n : Fin 8) (sw : W32) (pc t e : Nat) (resume : Bool) (slice : Nat) (fail : FaultRec → Hw → Hw) (hw : Hw)
    (pre : Hw → Hw) : Hw :=
  let last := mmSe sw + mmSn sw
  let w := aseqWord hw n e
  if e > 15 ∨ entryOk w = false then fail (plainFault n cFOLIO_SHAPE pc 0 (folSyn 0x16 0 0 (some (e % 16)))) hw
  else
    let x : MmaCtx := ⟨pc, t, t, some e, none, resume, slice, none⟩
    withMma n x w fail hw (fun op ss d hw =>
      (launchOp n op ss d (pre hw)).modCore n (fun c =>
        { c with seq := if e < last then some ⟨sw, pc, e + 1, last, t + op.occ⟩ else none }))

/-- MMA with S = 1 (R139): its first entry starts at the issue. -/
def coreMmaSeq (n : Fin 8) (w : W32) (hw : Hw) : Hw :=
  withIssue n .mmaSeq w hw (fun cyc pc hw =>
    if arrayBusy hw n cyc (entriesOcc hw n (mmSe w) (min 15 (mmSe w + mmSn w))) false false then conflict n pc cyc 0x30000001 hw
    else seqEntry n w pc cyc (mmSe w) false 0 (fun r hw => coreFault n r hw) hw
      (fun hw => (advance n w cyc hw).setReg (coreReg n ALAUNCH) w))

/-- The sequencer begins its next entry at its B_e; a failing entry stops the core (R140, R106). -/
def seqEntryStart (n : Fin 8) (hw : Hw) : Hw :=
  match (hw.core n).seq with
  | none => hw
  | some q =>
    if (hw.core n).ast = .halting ∧ (hw.core n).mmacs.isEmpty then hw
    else
      let hw := hw.at q.at_
      if meterStops hw n.val q.at_ then hw
      else seqEntry n q.word q.pc q.at_ q.next false 0
        (fun r hw => (coreStopNow n r hw).modCore n (fun c => ({ c with seq := none }).restArray)) hw id

/-! ### Landing and halting -/

/-- The array operation that lands first. -/
def firstOp (l : List ArrOp) : Option ArrOp :=
  l.foldl (fun m o => match m with
    | none => some o
    | some x => if o.land < x.land then some o else some x) none

/-- The newest operation that has begun. -/
def newestOp (c : Core) : Option ArrOp := c.ops.getLast?

/-- The next result lands in its bank or banks (R131, R135); an operation that a halt cuts short does not land. -/
def mmaLand (n : Fin 8) (hw : Hw) : Hw :=
  match firstOp (hw.core n).ops with
  | none => hw
  | some o =>
    if (hw.core n).mmacs.isEmpty && (match (hw.core n).halt with
        | some h => decide (h.2 < o.land) && decide (newestOp (hw.core n) = some o)
        | none => false) then hw
    else (runOp n o o.kp o.land (hw.at o.land)).modCore n (fun c =>
      ({ c with ops := c.ops.filter (fun x => decide (x ≠ o)) }).restArray)

/-- Slices completed when the step in progress at cycle `t` is discarded (`keep` false, R144) or added (R143). -/
def haltSlice (o : ArrOp) (t : Nat) (keep : Bool) : Nat :=
  let st := o.nMax
  let done := (t - o.entry0) / (st * o.rate)
  o.from_ - o.from_ % st + (done + b2n keep) * st

/-- The operations before the newest add what is left of them: a halt leaves them to complete (R143). -/
def landOlder (n : Fin 8) (keep : Option ArrOp) (hw : Hw) : Hw :=
  (((hw.core n).ops.filter (fun x => decide (some x ≠ keep))).foldl (fun h x => runOp n x x.kp x.land h) hw).modCore n (fun c =>
    { c with ops := c.ops.filter (fun x => decide (some x = keep)) })

/-- A halt before the first step of an operation with Z = 1 leaves its banks initialised in its mode, so that FRSM, which initialises
nothing, gives the uninterrupted result (R76, R130, R146; log entry 87). -/
def initBanks (n : Fin 8) (w : W32) (mode t : Nat) (hw : Hw) : Hw :=
  if mmZ w then
    hw.modCore n (fun c => (mmBanks w).foldl (fun c b =>
      c.setBank b { c.bank b with live := true, dieAt := none, mode := mode, cells := [], perr := [], land := landAt t }) c)
  else hw

/-- From cycle `t` on a halted operation reads nothing and its prologue handles nothing (R127, R156, R167). -/
def Core.letGo (id t : Nat) (c : Core) : Core :=
  let cut (l : List (Nat × Nat × Nat)) : List (Nat × Nat × Nat) :=
    (l.map (fun e => if e.1 = id then (e.1, e.2.1, min e.2.2 (t + 1)) else e)).filter (fun e => decide (e.2.1 < e.2.2))
  { c with
    folios := c.folios.map (fun f => { f with busy := cut f.busy })
    slots := c.slots.map (fun s => { s with held := s.held.map (fun e => if e.1 = id then (e.1, min e.2 (t + 1)) else e) })
    rows := c.rows.filter (fun e => decide (e.id ≠ id ∨ e.cyc ≤ t)), runs := c.runs.filter (fun r => decide (r.id ≠ id)) }

/-- Stop an operation before its end: its steps below `slice` are added, FSTART names the next (R143, R144). An operation that
has no slice left simply ends, but for a sequence with entries left, which resumes at the next entry. The array's occupancy stays that of
the launch (R133). -/
def haltOp (n : Fin 8) (o : ArrOp) (slice t : Nat) (ast : AState) (hw0 : Hw) : Hw :=
  let hw := landOlder n (some o) hw0
  let c := hw.core n
  let seq := o.entry.isSome
  let whole := decide (o.kp ≤ slice)
  let more := c.seq
  let free := more.elim c.arrFree (seqEnd hw n)
  let hw1 := runOp n o (min slice o.kp) t hw
  let hw2 := hw1.modCore n (fun c =>
    let c := ((mmBanks o.word).foldl (fun c b => c.setBank b { c.bank b with land := landAt t }) c).letGo o.id t
    let cut (x : Charge) : Charge := if x.mode = 1 ∧ x.pc = o.pc then { x with last := min x.last t } else x
    { c with ops := c.ops.filter (fun x => decide (x ≠ o)), seq := none, halt := none, arrFree := free,
             charges := (c.charges.map cut).filter (fun x => decide (x.first ≤ x.last)) })
  match whole, more with
  | true, none => hw2.modCore n (fun c => { c with ast := if ast = .scrub then .scrub else if c.ops.isEmpty then .idle else .run })
  | true, some q =>
    let w := aseqWord hw n q.next
    let hw3 := match wordMode hw n w with
      | some m => initBanks n w m.1 t hw2
      | none => hw2
    (setFstart n true true q.next 0 hw3).modCore n (fun c => { c with ast := ast })
  | false, _ => (setFstart n true seq (o.entry.getD 0) slice hw2).modCore n (fun c => { c with ast := ast })

/-- What a STOP does to the array (R143, R181): the newest operation will halt after its step in progress, or the last waiting MMAC part
at its c_m; what began before it completes. -/
def stopArray (n : Fin 8) (t : Nat) (hw : Hw) : Hw :=
  let c := hw.core n
  if c.ast ≠ .run then hw
  else match c.mmacs.getLast?, newestOp c with
    | some m, _ => hw.setCore n { c with ast := .halting, halt := some (0, m.at_) }
    | none, some o =>
      let s := haltSlice o t true
      let e := o.addCyc (b2n o.dual) (s - o.nMax) o.nMax
      if o.kp ≤ s ∧ c.seq.isNone then hw else hw.setCore n { c with ast := .halting, halt := some (s, e) }
    | none, none => hw

/-- The array halts on a core STOP (R143, R181). -/
def arrayHalt (n : Fin 8) (hw : Hw) : Hw :=
  let c := hw.core n
  match c.halt with
  | none => hw
  | some (s, t) =>
    let hw := hw.at t
    match c.mmacs.getLast?, newestOp c with
    | some m, _ =>
      let hw1 := ((setFstart n true false 0 0 (landOlder n none hw)).setReg (coreReg n ALAUNCH) m.word).modCore n (fun c =>
        let c := (mmBanks m.word).foldl (fun c b =>
          c.setBank b { c.bank b with live := true, dieAt := none, land := landAt t }) c
        { c.letGo m.id t with mmacs := [], seq := none, halt := none, ast := .stalled, arrFree := max c.arrFree (m.at_ + m.occ) })
      initBanks n m.word m.mode t hw1
    | none, some o => haltOp n o s t .stalled hw
    | none, none => hw.setCore n { c with halt := none, ast := .idle }

/-! ### FRSM and CANCEL -/

/-- FRSM relaunches the halted operation from FSTART (R146, R181). -/
def coreFrsm (n : Fin 8) (w : W32) (hw : Hw) : Hw :=
  withIssue n .frsm w hw (fun cyc pc hw =>
    let c := hw.core n
    if occupied hw n cyc then conflict n pc cyc 0x30000001 hw
    else if !fsValid hw n then coreFault n (plainFault n cFOLIO_SHAPE pc 0 (folSyn 0x31 0 0 none)) hw
    else if c.ast ≠ .stalled then conflict n pc cyc 0x30000001 hw
    else
      let fs := (hw.reg (coreReg n FSTART)).toNat
      let aw := hw.reg (coreReg n ALAUNCH)
      let slice := nbits fs 0 7
      let clear (hw : Hw) : Hw := (hw.clrReg (coreReg n FSTART) 0x80000000)
      if mmS aw then
        seqEntry n aw pc cyc (nbits fs 16 4) true slice (fun r hw => coreFault n r hw) hw
          (fun hw => clear (advance n w cyc hw))
      else
        let x : MmaCtx := ⟨pc, cyc, cyc, none, none, true, slice, none⟩
        withMma n x (plainMma aw) (fun r hw => coreFault n r hw) hw (fun op ss d hw =>
          launchOp n op ss d (clear (advance n w cyc hw))))

/-- CORE_ACTL.CANCEL (R147). -/
def cancelArray (n : Fin 8) (hw : Hw) : Hw :=
  if (hw.core n).ast = .stalled then
    (hw.clrReg (coreReg n FSTART) 0x80000000).modCore n (fun c => { c with ast := .idle })
  else hw

end Sys2Proof.Machine
end

