-- ==== Sys2Proof/Machine/Ard.lean ====
section
/-!
DEFINITION. Reading out an accumulator: ARD (R136–R138), the epilogue (R162–R173), SEND (R174–R177), MMAC (R178–R181), CHN (R153–
R156), context save (R148–R151) and skew parity (R144, R145).
-/
namespace Sys2Proof.Machine

/-! ### CHN -/

def chSlot (w : W32) : Nat := wf w 25 2
def chRs1 (w : W32) : Nat := wf w 20 5

/-- The word of the operation that a halt left for FRSM: of a sequence the entry that FSTART names (R146, R156). -/
def haltedWord (hw : Hw) (n : Fin 8) : W32 :=
  let aw := hw.reg (coreReg n ALAUNCH)
  if mmS aw then aseqWord hw n (hw.fld (coreReg n FSTART) 16 4) else aw

/-- A slot is held at a cycle (R156): an instruction uses it, or a halted operation names it. -/
def slotHeld (hw : Hw) (n : Fin 8) (i t : Nat) : Bool :=
  let s := (hw.core n).slot i
  let w := haltedWord hw n
  s.held.any (fun e => decide (t < e.2)) || (s.full && fsValid hw n && mmP w && decide (mmPs w = i))

def coreChn (n : Fin 8) (w : W32) (hw : Hw) : Hw :=
  let i := chSlot w
  withIssue n .chn w hw (fun cyc pc hw =>
    withReads n pc cyc [(0, chRs1 w)] hw (fun hw =>
      withAddr n pc 256 ((hw.core n).gr (chRs1 w)) hw (fun a =>
        if slotHeld hw n i cyc then conflict n pc cyc (0x30000007 + i * 0x10000) hw
        else withReadPort n pc cyc hw (fun hw =>
          let id := hw.nid
          let ld : LoadOp := ⟨id, pc, cyc + latMem hw a + 3, a, .chain i, false, false, false⟩
          let bt := [readBeat hw n.val id pc cyc 0 a 128, readBeat hw n.val id pc cyc 0 (a + 128) 128]
          withBeats n pc cyc bt hw (fun hw =>
            handoffCheck n pc cyc false [(a, cyc), (a + 128, cyc)]
              ((advance n w cyc (placeBeats bt hw.newId)).modCore n (fun c =>
                { c.setSlot i { c.slot i with land := landAt ld.land } with
                  loads := c.loads ++ [ld], rdPort := max c.rdPort (cyc + 1) })))))))

/-! ### Read-out -/

/-- Fields of ARD. -/
def ardBank (w : W32) : Nat := wf w 26 1
def ardRetain (w : W32) : Bool := nbit w.toNat 25
def ardCs (w : W32) : Nat := wf w 23 2

/-- Rows and columns of a bank (R136). -/
def bankDim (mode : Nat) : Nat := if mode = 0 then 64 else 32

/-- What a read-out needs to know. -/
structure ReadCtx where
  pc : Nat
  cyc : Nat
  bank : Nat
  slot : Nat
  retain : Bool
  /-- of an MMAC: the folio that takes the intermediate, and all its operand folios -/
  mmac : Option (Nat × List Nat)
deriving DecidableEq, Repr

/-- A read-out that may execute: its stages, output, landing Λ, destination folio, first write beat, beats of SEND and STORE. -/
structure ReadPlan where
  d : List Byte
  ss : List EpiStage
  dest : Option Nat
  lam : Nat
  out : ChainOut
  rows : List RowOut
  first : Nat
  send : List (Nat × Nat × List Byte)
  store : List (Nat × Nat × List Byte)
  /-- the lines of the STORE: port cycle from the issue, address, length -/
  lines : List (Nat × Nat × Nat)
  beats : List Beat
deriving DecidableEq, Repr

def hasOp (ss : List EpiStage) (op : Nat) : Bool := ss.any (fun s => decide (s.op = op))
def hasStore (ss : List EpiStage) (k : Nat) : Bool := ss.any (fun s => decide (s.op = 0x1C ∧ storeKind s = k))

/-- First write beat F (R171). -/
def firstBeat (ss : List EpiStage) (c rc : Nat) : Nat :=
  let s2 := 2 * ss.length
  let fmt := outFmt ss
  if outXpose ss then c + rc + s2 + 1
  else if 2 ≤ fmt ∧ outAcross ss = true then c + (if fmt = 2 then 16 else 32) + s2
  else c + 1 + s2

/-- Alignment of the address fields of the store block and the send block: the first that breaks it (R158). -/
def blockAlign (d : List Byte) : Option Nat :=
  let chk (o lim al : Nat) : Option Nat :=
    let a := dWord d o + 2 ^ 32 * nbits (dWord d (o + 4)) 0 lim
    if a % al ≠ 0 then some a else none
  let pitch (o al : Nat) : Option Nat := if dWord d o % al ≠ 0 then some (dWord d o) else none
  [chk 0x60 9 128, chk 0x70 9 8, pitch 0x68 128, pitch 0x6C 8, chk 0x80 27 128, chk 0x90 27 8, pitch 0x88 128,
   pitch 0x8C 8].findSome? id

def storeAddrs (d : List Byte) : Nat × Nat × Nat × Nat :=
  (dWord d 0x60 + 2 ^ 32 * nbits (dWord d 0x64) 0 9, nbits (dWord d 0x68) 0 24,
   dWord d 0x70 + 2 ^ 32 * nbits (dWord d 0x74) 0 9, nbits (dWord d 0x6C) 0 16)

def sendAddrs (d : List Byte) : Nat × Nat × Nat × Nat :=
  (dWord d 0x80 + 2 ^ 32 * nbits (dWord d 0x84) 0 27, nbits (dWord d 0x88) 0 24,
   dWord d 0x90 + 2 ^ 32 * nbits (dWord d 0x94) 0 27, nbits (dWord d 0x8C) 0 16)

/-- Why a destination folio is refused (R172). -/
def destBad (fo : Folio) (ss : List EpiStage) (rc : Nat) : Option Nat :=
  let fmt := outFmt ss
  let fits := if fo.role = 2 then decide (rc ≤ fo.kk ∧ rc ≤ fo.mn) else decide (fo.mn = rc ∧ fo.kk = rc)
  if fo.fcfg = 0 then some 0x05
  else if isRh fo.fmt ∧ 2 ≤ fmt ∧ fo.fmt ≠ folioFmt fmt then some 0x45
  else if fo.fmt ≠ folioFmt fmt ∨ fits = false then some 0x44
  else if 2 ≤ fmt ∧ outAcross ss ≠ decide (fo.role = 1) then some 0x45
  else if fo.inUse then some 0x04
  else none

/-- The bank of a read-out is live and its result has landed (R132, R137; checker kind 5). -/
def withBank (n : Fin 8) (x : ReadCtx) (hw : Hw) (k : Hw → Hw) : Hw :=
  let b := (hw.core n).bank x.bank
  if !b.liveAt x.cyc then coreFault n (plainFault n cFOLIO_NOT_IN_USE x.pc 0 (folSyn 0x03 0 x.bank none)) hw
  else
    let v := checkLand n.val 5 x.pc x.cyc b.land hw
    if v.1 then
      coreFault n { cls := cSCHED_LATE, sev := 2, unit := n.val, instr := x.pc, exp := frameOf b.land.cyc, act := frameOf x.cyc,
                    syn := 0x20000000 + x.bank * 0x10000 + min (b.land.cyc - x.cyc) 255 } v.2
    else k v.2

/-- The descriptor's refusals for a read-out (R72, R164, R166, R178, R186), in this order: 0x40, strict stages, 0x43, streams,
0x44. -/
def epiRefusal (n : Fin 8) (x : ReadCtx) (st : Bool) (d : List Byte) (ss : List EpiStage) : Option FaultRec :=
  let shape (r : Nat) : Option FaultRec := some (plainFault n cFOLIO_SHAPE x.pc 0 (folSyn r 0 0 none))
  if headBad d || ss.any epiBad || blockBad d ss then shape 0x40
  else match (if st then strictBadEpi ss else none) with
    | some p => some (plainFault n cCHAIN_STREAMS x.pc 0 (0x00010000 + p))
    | none =>
      if ss.isEmpty || !orderOk ss then shape 0x43
      else if (epiStreams ss).length > 3 then some (plainFault n cCHAIN_STREAMS x.pc 0 (0x00020000 + (epiStreams ss).length))
      else match x.mmac with
        | some _ =>
          if hasOp ss 0x1B || hasStore ss 0 || hasStore ss 1 || !hasStore ss 2 || decide (outFmt ss < 2) then shape 0x44 else none
        | none => if hasStore ss 2 then shape 0x44 else none

/-- An enabled semaphore of the send block that R319 or R320 refuses: the class and the reference. -/
def sendRefBad (hw : Hw) (d : List Byte) (ss : List EpiStage) : Option (Nat × Nat) :=
  let fl := dWord d 0xA0
  let dsem := dWord d 0x98
  let lsem := dWord d 0x9C
  if (nbit fl 8 && (refSem dsem).isNone) || (nbit fl 9 && (refSem lsem).isNone) then some (cILLEGAL_INSTR, 0)
  else if hasOp ss 0x1B && nbit fl 9 && !semOn hw lsem then some (cACCESS_RANGE, lsem)
  else none

/-- The sends of a core that are outstanding in cycle `t`: from the first beat on (R177). -/
def Core.sending (c : Core) (t : Nat) : Nat := (c.sends.filter (fun s => decide (s.first ≤ t))).length

/-- A store's element lines leave one memory for another, or a line or exponent row is out of reach (R99, R158, R190). -/
def storeBad (hw : Hw) (n : Fin 8) (els : Nat) (store : List (Nat × Nat × List Byte)) : Option Nat :=
  let base := ((store.head?).map (fun p => p.2.1)).getD 0
  (store.find? (fun p => decide (2 ^ 41 ≤ p.2.1) || !corePerm hw n p.2.1 || !corePerm hw n (p.2.1 + p.2.2.length - 1) ||
    (decide (p.1 < els) && decide (memKind hw p.2.1 ≠ memKind hw base)))).map (fun p => p.2.1)

/-- The plan of a read-out whose checks on the descriptor hold (R136, R168–R172). -/
def readPlan (n : Fin 8) (x : ReadCtx) (d : List Byte) (ss : List EpiStage) (dest : Option Nat) (hw : Hw) : ReadPlan :=
  let c := hw.core n
  let b := c.bank x.bank
  let rc := bankDim b.mode
  let rows := epiRows c b rc hw.nid (x.cyc + 1) ss
  let out := chainOut b.mode ss (rows.map (fun r => r.xs))
  let sa := storeAddrs d
  let se := sendAddrs d
  let store := if hasStore ss 0 then outBeats out sa.1 sa.2.1 sa.2.2.1 sa.2.2.2 else []
  let send := if hasOp ss 0x1B then outBeats out se.1 se.2.1 se.2.2.1 se.2.2.2 else []
  let lam := x.cyc + rc + 2 * ss.length + 1 + (if outXpose ss then rc else 0)
  let first := firstBeat ss x.cyc rc
  let lines := store.flatMap (fun p => (pieces p.2.1 p.2.2.length).map (fun q => (first + send.length + p.1 - x.cyc, q.1, q.2)))
  let bytes := store.flatMap (fun p => atAddr p.2.1 p.2.2)
  let beats := (unitCycles hw none lines).map (fun q =>
    writeBeat hw n.val hw.nid x.pc x.cyc q.1 q.2.1 none (bytes.filter (fun b => decide (q.2.1 ≤ b.1 ∧ b.1 < q.2.1 + q.2.2))))
  ⟨d, ss, dest, lam, out, rows, first, send, store, lines, beats⟩

/-- Beats of a store that are element lines; exponent rows come after them (R171). -/
def elBeats (o : ChainOut) : Nat := (o.lines.map (fun l => ceilDiv (l.length * outSize o.fmt) 128)).sum

/-- All checks of a read-out (R136–R138, R155, R158, R167, R171–R173, R177, R186, R319, R320). Where CORE_FPCTL.STRICT and the mode of the
bank differ, no rule says which of the two the read-out follows: the model computes by the bank's mode, refuses a stage that strict mode
bars if either is strict, and sets flags only under STRICT, a DESIGN CHOICE (log entry 81). -/
def withReadout (n : Fin 8) (x : ReadCtx) (hw : Hw) (k : ReadPlan → Hw → Hw) : Hw :=
  let fail (r : FaultRec) (hw : Hw) : Hw := coreFault n r hw
  withBank n x hw (fun hw =>
    withSlot n x.pc x.cyc x.slot none fail hw (fun d hw =>
      let ss := epiStages d
      let b := (hw.core n).bank x.bank
      let rc := bankDim b.mode
      match epiRefusal n x (strict hw n || decide (b.mode = 2)) d ss with
      | some r => fail r hw
      | none =>
        let dest := match x.mmac with
          | some m => some m.1
          | none => (ss.find? (fun s => decide (s.op = 0x1C ∧ storeKind s = 1))).map (fun s => nbits s.arg 2 3)
        let excl (f : Nat) : Bool := decide (dest = some f) || (match x.mmac with
          | some m => decide (f ∈ m.2)
          | none => false)
        withStreams n x.pc x.cyc none ((ss.filter drawsStream).map (fun s => (s.sf, excl s.sf, epiNeeds rc s))) fail hw (fun hw =>
          let c := hw.core n
          match dest.bind (fun f => (destBad (c.fol f) ss rc).map (fun r => (r, f))) with
          | some (r, f) => shapeFault n x.pc r f hw
          | none =>
            if x.cyc < c.ardFree then conflict n x.pc x.cyc 0x30000009 hw
            else if hasOp ss 0x1B ∧ 16 ≤ c.sending x.cyc then conflict n x.pc x.cyc 0x3000000A hw
            else match sendRefBad hw d ss with
              | some (cls, ref) => coreFault n (plainFault n cls x.pc 0 ref) hw
              | none =>
                match blockAlign d with
                | some a => coreFault n (plainFault n cACCESS_ALIGN x.pc (a % 2 ^ 59) 0) hw
                | none =>
                  let plan := readPlan n x d ss dest hw
                  match storeBad hw n (elBeats plan.out) plan.store with
                  | some a => coreFault n (plainFault n cACCESS_RANGE x.pc (a % 2 ^ 59) 0) hw
                  | none =>
                    withBeats n x.pc x.cyc plan.beats hw (fun hw =>
                      if plan.send.length + plan.store.length = 0 then k plan hw
                      else withWritePort n x.pc x.cyc plan.first (plan.send.length + plan.store.length) hw (fun hw => k plan hw)))))

/-- The cycle in which a line of a store is acknowledged: its beat plus L_mem (R171). -/
def lineAck (hw : Hw) (x : ReadCtx) (q : Nat × Nat × Nat) : Nat := x.cyc + q.1 + latMem hw q.2.1

/-- The folio that a read-out fills (R172). -/
def Folio.filled (fo : Folio) (o : ChainOut) (id cyc lam : Nat) : Folio :=
  let w := outFolio o fo.role
  { fo with
    data := tabBytes w.1 fo.data, strip := tabBytes w.2 fo.strip, inUse := true, stripValid := true, perr := []
    landD := landAt lam, landS := if 2 ≤ o.fmt then landAt lam else fo.landS
    busy := (id, cyc, lam) :: fo.busy.filter (fun e => decide (cyc < e.2.2)) }

/-- What the rows of a read-out do as they pass: softmax states and their bits, and in strict mode the flags of the stages and of the
output's conversion (R73, R74, R182, R185). -/
def readEffs (id : Nat) (flagged : Bool) (x : ReadCtx) (p : ReadPlan) : List RowEff :=
  p.rows.flatMap (fun r => r.effs) ++
  (if flagged then
    p.rows.mapIdx (fun r o => ⟨id, x.cyc + 1 + r + 2 * p.ss.length, none, 0, aBits o.flags⟩) ++
    p.out.flags.mapIdx (fun i f => ⟨id, p.first + i, none, 0, aBits f⟩)
  else [])

/-- The cycle in which a chain stage last handles data of a read-out (R156). -/
def lastHandled (x : ReadCtx) (rc : Nat) (p : ReadPlan) : Nat :=
  let leave := x.cyc + rc + 2 * p.ss.length
  max leave (max (if p.dest.isSome then p.lam - 1 else 0)
    (if p.send.length + p.store.length = 0 then 0 else p.first + p.send.length + p.store.length - 1))

/-- Everything a read-out changes in its core at issue: the bank, the streams, the destination, the slot, and what its rows will do. -/
def readoutCore (id : Nat) (flagged : Bool) (x : ReadCtx) (p : ReadPlan) (c : Core) : Core :=
  let b := c.bank x.bank
  let rc := bankDim b.mode
  let last := x.cyc + rc
  let folios := c.folios
  let rows := c.rows
  let c := c.setBank x.bank { b with ardLast := max b.ardLast last, dieAt := if x.retain then b.dieAt else some last }
  let c := (p.ss.mapIdx (fun i s => (i, s))).foldl (fun c q =>
    if drawsStream q.2 then
      c.makeBusy x.cyc id q.2.sf (x.cyc + 1 + 2 * q.1) (last + 2 * q.1 + 1 + (if q.2.op = 0x17 then 2 else 0))
    else c) c
  let c := match p.dest with
    | none => c
    | some f => c.setFol f ((c.fol f).filled p.out id x.cyc p.lam)
  let c := if p.ss.any drawsStream then c.keepRun ⟨id, x.pc, x.cyc, last + 2 * p.ss.length, folios, rows, .out x.bank b p.d p.dest⟩ else c
  { c.holdSlot x.cyc id x.slot (lastHandled x rc p) with
    ardFree := x.cyc + rc, charges := c.charges ++ [⟨x.cyc + 1, last, 1, x.pc⟩], rows := c.rows ++ readEffs id flagged x p }

/-- The send that a plan starts (R174, R175). -/
def planSend (id : Nat) (x : ReadCtx) (p : ReadPlan) : SendOp :=
  let r := dWord p.d 0xA0
  { id := id, pc := x.pc, first := p.first, last := p.first + p.send.length - 1, far := nbit r 5, fc := nbits r 0 5,
    gaddr := (sendAddrs p.d).1, dsemEn := nbit r 8, lsemEn := nbit r 9, dsem := dWord p.d 0x98, lsem := dWord p.d 0x9C,
    reg := r, beats := p.send.flatMap (fun b => (cutAt 4096 b.2.1 b.2.2.length b.2.2).map (fun q => (p.first + b.1, q.1, q.2))), flying := 0 }

/-- A read-out meets a parity error in its bank or a stream (R195). -/
def readHurt (c : Core) (x : ReadCtx) (p : ReadPlan) : Bool :=
  !(c.bank x.bank).perr.isEmpty || p.ss.any (fun s => drawsStream s && (c.fol s.sf).hurtData)

/-- Start a read-out (R136, R137, R168–R175, R182, R185). Its flags are set while CORE_FPCTL.STRICT is 1 (R74; log entry 81). -/
def launchReadout (n : Fin 8) (w : W32) (x : ReadCtx) (p : ReadPlan) (hw : Hw) : Hw :=
  let flagged := decide (((hw.core n).bank x.bank).mode = 2)
  let id := hw.nid
  let hw1 := (advance n w x.cyc (placeBeats p.beats hw.newId.newId)).modCore n (readoutCore id flagged x p)
  let st : StoreOp := ⟨id, x.pc, p.lines.foldl (fun t q => max t (lineAck hw x q)) 0, lineAddrs p.lines⟩
  let hw2 := hw1.modCore n (fun c =>
    { c with
      stores := if p.store.isEmpty then c.stores else c.stores ++ [st]
      sends := if p.send.isEmpty then c.sends else c.sends ++ [planSend (id + 1) x p] })
  parityStop n x.pc (readHurt (hw.core n) x p)
    (handoffCheck n x.pc x.cyc true (p.lines.map (fun q => (q.2.1, lineAck hw x q))) hw2)

/-- ARD (R136). -/
def coreArd (n : Fin 8) (w : W32) (hw : Hw) : Hw :=
  withIssue n .ard w hw (fun cyc pc hw =>
    let x : ReadCtx := ⟨pc, cyc, ardBank w, ardCs w, ardRetain w, none⟩
    withReadout n x hw (fun p hw => launchReadout n w x p hw))

/-! ### MMAC -/

/-- Fields of MMAC. -/
def mcSrc (w : W32) : Nat := wf w 9 1
def mcCs (w : W32) : Nat := wf w 7 2
def mcIb (w : W32) : Nat := if nbit w.toNat 6 then mmFb w else mmFa w

/-- The position of the first stage of an MMAC's chain that strict mode bars, of the slots that it names and that hold a descriptor
(R72). -/
def mmacBarred (hw : Hw) (n : Fin 8) (w : W32) (cyc : Nat) : Option Nat :=
  (if mmP w then (slotDesc hw n (mmPs w) cyc).bind (fun d => strictBadPro (proStages d)) else none).or
    ((slotDesc hw n (mcCs w) cyc).bind (fun d => strictBadEpi (epiStages d)))

/-- MMAC (R178–R180): a read-out into an operand folio, and the MMA of its word as if issued at Λ. In strict mode both R72 and R180 apply
to one whose chain holds a stage that strict mode bars, and no rule orders them: the model raises CHAIN_STREAMS for such a chain and
FOLIO_SHAPE 0x12 for any other, a DESIGN CHOICE (log entry 82). -/
def coreMmac (n : Fin 8) (w : W32) (hw : Hw) : Hw :=
  withIssue n .mmac w hw (fun cyc pc hw =>
    let shape (r : Nat) (hw : Hw) : Hw := shapeFault n pc r 0 hw
    if strict hw n then
      match mmacBarred hw n w cyc with
      | some p => coreFault n (plainFault n cCHAIN_STREAMS pc 0 (0x00010000 + p)) hw
      | none => shape 0x12 hw
    else if !mmZ w && (mmD w || decide (mmAcc w = mcSrc w)) then shape 0x48 hw
    else
      let fs := if mmD w then [mmFa w, mmFb w, mmFb2 w] else [mmFa w, mmFb w]
      let x : ReadCtx := ⟨pc, cyc, mcSrc w, mcCs w, false, some (mcIb w, fs)⟩
      withReadout n x hw (fun p hw =>
        let id := hw.nid + 2
        let y : MmaCtx := ⟨pc, cyc, p.lam, none, some (mcIb w), false, 0, some id⟩
        withMma n y (plainMma w) (fun r hw => coreFault n r hw) hw (fun op _ _ hw =>
          (launchReadout n w x p hw).newId.modCore n (fun c =>
            let c := if mmP w then c.holdSlot cyc id (mmPs w) op.lastEntry else c
            { c with mmacs := c.mmacs ++ [⟨id, w, pc, p.lam, op.occ, op.mode⟩], ast := .run }))))

/-- The MMA part of an MMAC begins at c_m (R178, R179), but for the last one before a halt (R181). A check that has come to fail since
stops the core as R106 states. -/
def mmacPart (n : Fin 8) (hw : Hw) : Hw :=
  match (hw.core n).mmacs with
  | [] => hw
  | m :: l =>
    if (hw.core n).ast ≠ .run ∧ ((hw.core n).ast ≠ .halting ∨ l.isEmpty = true) then hw
    else
      let hw1 := (hw.at m.at_).modCore n (fun c => { c with mmacs := l })
      if meterStops hw n.val m.at_ then hw.at m.at_ else
      let x : MmaCtx := ⟨m.pc, m.at_, m.at_, none, none, false, 0, some m.id⟩
      withMma n x (plainMma m.word) (fun r hw => (coreStopNow n r hw).modCore n Core.restArray) hw1 (fun op ss d hw =>
        (launchOp n op ss d (hw.setReg (coreReg n ALAUNCH) m.word)).modCore n (fun c => { c with ast := (hw1.core n).ast }))

/-! ### Context save (R148–R151) -/

def svRs1 (w : W32) : Nat := wf w 11 5

/-- CORE_FUSE at a cycle (R152). -/
def fuseWord (c : Core) (t : Nat) : Nat :=
  (List.range 8).foldl (fun a f => a + b2n (c.fol f).inUse * 2 ^ f + b2n (c.fol f).stripValid * 2 ^ (8 + f)) 0 +
  b2n ((c.bank 0).liveAt t) * 2 ^ 16 + b2n ((c.bank 1).liveAt t) * 2 ^ 17 + (c.bank 0).mode * 2 ^ 20 + (c.bank 1).mode * 2 ^ 22

/-- Bits of one cell in a save area: 40, 58 or 32. -/
def cellBits (mode : Nat) : Nat := if mode = 0 then 40 else if mode = 1 then 58 else 32

/-- The 20,480 bytes of a bank in a save area: rows in order, cells packed, then zeros. -/
def bankBytes (b : Bank) : List Byte :=
  let d := bankDim b.mode
  let w := cellBits b.mode
  let row (r : Nat) : List Byte :=
    leBytes ((List.range d).foldl (fun a j => a + (tabGet (fun _ => 0) b.cells (64 * r + j)) * 2 ^ (w * j)) 0) (d * w / 8)
  bytesAt ((List.range d).flatMap row) 0 20480

/-- The cells of a bank from its bytes. Whether FRSTR refuses bits that the tables of A40 and A40X do not list no rule says: the model takes
them into the accumulator as they are, a DESIGN CHOICE (log entry 86). -/
def bankCells (mode : Nat) (l : List Byte) : List (Nat × Nat) :=
  let d := bankDim mode
  let w := cellBits mode
  (List.range d).foldl (fun t r =>
    let x := leAt l (r * (d * w / 8)) (d * w / 8)
    (List.range d).foldl (fun t j => tabPut (fun _ => 0) (64 * r + j) (nbits x (w * j) w) t) t) []

def folioBytes (t : List (Nat × Byte)) (k : Nat) : List Byte := (List.range k).map (fun i => tabGet memReset t i)

/-- The header of a save area. -/
def saveHeader (hw : Hw) (n : Fin 8) (t : Nat) : List Byte :=
  let c := hw.core n
  (List.range 8).flatMap (fun f => leBytes (c.fol f).fcfg.toNat 4) ++ leBytes (fuseWord c t) 4 ++
  leBytes (hw.reg (coreReg n FSTART)).toNat 4 ++ leBytes (hw.reg (coreReg n ALAUNCH)).toNat 4 ++ List.replicate 20 0 ++
  (List.range 16).flatMap (fun e => leBytes (aseqWord hw n e).toNat 4)

/-- The sections of a save area (R148). -/
def saveSections (c : Core) (t : Nat) : List Byte :=
  (List.range 8).flatMap (fun f =>
    let fo := c.fol f
    if fo.inUse then folioBytes fo.data 16384 ++ (if fo.stripValid then folioBytes fo.strip 512 else []) else []) ++
  (List.range 2).flatMap (fun b => if (c.bank b).liveAt t then bankBytes (c.bank b) else [])

/-- The whole area lies in one memory that the core may reach (R148, R117, R118, R99). -/
def areaOk (hw : Hw) (n : Fin 8) (a k : Nat) : Bool :=
  (List.range (ceilDiv k 128)).all (fun i =>
    decide (a + 128 * i < 2 ^ 41) && corePerm hw n (a + 128 * i) && decide (memKind hw (a + 128 * i) = memKind hw a))

/-- FSAVE (R149). -/
def coreFsave (n : Fin 8) (w : W32) (hw : Hw) : Hw :=
  withIssue n .fsave w hw (fun cyc pc hw =>
    withReads n pc cyc [(0, svRs1 w)] hw (fun hw =>
      let c := hw.core n
      let a := (c.gr (svRs1 w)).toNat
      let bs := saveHeader hw n cyc ++ saveSections c cyc
      let len := bs.length / 128
      if occupied hw n cyc then conflict n pc cyc 0x30000001 hw
      else if c.ast ≠ .idle ∧ c.ast ≠ .stalled then conflict n pc cyc 0x30000006 hw
      else if a % 128 ≠ 0 then coreFault n (plainFault n cACCESS_ALIGN pc (a % 2 ^ 59) 0) hw
      else if !areaOk hw n a bs.length then coreFault n (plainFault n cACCESS_RANGE pc (a % 2 ^ 59) 0) hw
      else
        let id := hw.nid
        let lat := latMem hw a
        let ls := (List.range len).map (fun i => (i, a + 128 * i, 128))
        let bt := (unitCycles hw none ls).map (fun p => writeBeat hw n.val id pc cyc p.1 p.2.1 none
          (atAddr p.2.1 (bytesAt bs (p.2.1 - a) 128)))
        withBeats n pc cyc bt hw (fun hw =>
          withWritePort n pc cyc cyc len hw (fun hw =>
            let ack := cyc + len - 1 + lat
            let used := (List.range 8).filter (fun f => (c.fol f).inUse)
            let live := (List.range 2).filter (fun b => (c.bank b).liveAt cyc)
            let hurt := used.any (fun f => !(c.fol f).perr.isEmpty) || live.any (fun b => !(c.bank b).perr.isEmpty)
            parityStop n pc hurt (handoffCheck n pc cyc true (ls.map (fun p => (p.2.1, cyc + p.1 + lat)))
              ((advance n w cyc (placeBeats bt hw.newId)).modCore n (fun c =>
                let c := used.foldl (fun c f => c.makeBusy cyc id f cyc ack) c
                let c := live.foldl (fun c b => c.setBank b { c.bank b with busy := ack }) c
                { c with stores := c.stores ++ [⟨id, pc, ack, lineAddrs ls⟩] })))))))

/-- Bytes of the sections that a header's FUSE word describes. -/
def sectionSize (fuse : Nat) : Nat :=
  (List.range 8).foldl (fun a f => a + (if nbit fuse f then 16384 + (if nbit fuse (8 + f) then 512 else 0) else 0)) 0 +
  20480 * (b2n (nbit fuse 16) + b2n (nbit fuse 17))

/-- A header that FRSTR refuses (R150, reason 0x30). -/
def headerBad (h : List Byte) : Bool :=
  let fuse := leAt h 0x20 4
  (List.range 8).any (fun f =>
    let w := leAt h (4 * f) 4
    (decide (w ≠ 0) && (decide (decodeCore (BitVec.ofNat 32 w) ≠ some .fcfg) || (fcfgBad (BitVec.ofNat 32 w) false).isSome)) ||
    (decide (w = 0) && (nbit fuse f || nbit fuse (8 + f))))

/-- Restore the folios from the sections; the rest of the sections. -/
def restoreFolios (h : List Byte) (land : Nat) : List Nat → List Byte → Core → Core × List Byte
  | [], s, c => (c, s)
  | f :: l, s, c =>
    let fuse := leAt h 0x20 4
    let cfg := BitVec.ofNat 32 (leAt h (4 * f) 4)
    let use := nbit fuse f
    let strip := nbit fuse (8 + f)
    let fo := c.fol f
    let data := if use then tabBytes (atAddr 0 (s.take 16384)) [] else fo.data
    let s1 := if use then s.drop 16384 else s
    let st := if use && strip then tabBytes (atAddr 0 (s1.take 512)) [] else fo.strip
    let s2 := if use && strip then s1.drop 512 else s1
    restoreFolios h land l s2 (c.setFol f { fo with
      fcfg := cfg, data := data, strip := st, inUse := use, stripValid := strip, landD := landAt land, landS := landAt land
      perr := if use then [] else fo.perr })

/-- The mode of a bank in a restored CORE_FUSE; the value 3, which R152 says does not occur, leaves one of the modes, free (log entry
86). -/
def fuseMode (fuse free b : Nat) : Nat :=
  let m := nbits fuse (20 + 2 * b) 2
  if m = 3 then Config.freeNat (free + b) % 3 else m

def restoreBanks (h : List Byte) (free land : Nat) : List Nat → List Byte → Core → Core
  | [], _, c => c
  | b :: l, s, c =>
    let fuse := leAt h 0x20 4
    let mode := fuseMode fuse free b
    if nbit fuse (16 + b) then
      restoreBanks h free land l (s.drop 20480)
        (c.setBank b ⟨true, none, mode, bankCells mode (s.take 20480), landAt land, (c.bank b).ardLast, (c.bank b).busy, []⟩)
    else restoreBanks h free land l s (c.setBank b { c.bank b with mode := mode })

/-- The state of an FRSTR lands: every saved item and bit; the array is STALLED if the restored FSTART.VALID is 1 (R150, R151). -/
def restored (n : Fin 8) (h s : List Byte) (land : Nat) (hw : Hw) : Hw :=
  let hw1 := hw.draw.draw.modCore n (fun c =>
    let r := restoreFolios h land (List.range 8) s c
    let c := restoreBanks h hw.free land [0, 1] r.2 r.1
    if nbit (leAt h 0x24 4) 31 then { c with ast := .stalled } else c)
  let hw2 := (hw1.setReg (coreReg n FSTART) (BitVec.ofNat 32 (leAt h 0x24 4 % 2 ^ 32 &&& 0x801F007F))).setReg
    (coreReg n ALAUNCH) (BitVec.ofNat 32 (leAt h 0x28 4))
  (List.range 16).foldl (fun hw e => hw.setReg (coreReg n (0x200 + 4 * e)) (BitVec.ofNat 32 (leAt h (0x40 + 4 * e) 4))) hw2

/-- FRSTR (R150, R151): the header is judged at issue; the sections are read from issue + L_mem + 1 on, 256 bytes a cycle, and everything
lands L_mem after the last of them. -/
def coreFrstr (n : Fin 8) (w : W32) (hw : Hw) : Hw :=
  withIssue n .frstr w hw (fun cyc pc hw =>
    withReads n pc cyc [(0, svRs1 w)] hw (fun hw =>
      let c := hw.core n
      let a := (c.gr (svRs1 w)).toNat
      if c.ast ≠ .idle ∨ fuseWord c cyc % 2 ^ 18 ≠ 0 then conflict n pc cyc 0x30000006 hw
      else if a % 128 ≠ 0 then coreFault n (plainFault n cACCESS_ALIGN pc (a % 2 ^ 59) 0) hw
      else if !areaOk hw n a 128 then coreFault n (plainFault n cACCESS_RANGE pc (a % 2 ^ 59) 0) hw
      else withReadPort n pc cyc hw (fun hw =>
        let h := (settle cyc hw).bytes a 128
        let size := sectionSize (leAt h 0x20 4)
        if headerBad h then coreFault n (plainFault n cFOLIO_SHAPE pc 0 (folSyn 0x30 0 0 none)) hw
        else if !areaOk hw n a (128 + size) then coreFault n (plainFault n cACCESS_RANGE pc (a % 2 ^ 59) 0) hw
        else
          let id := hw.nid
          let lat := latMem hw a
          let land := cyc + 2 * lat + 1 + ceilDiv size 256
          let ls := (0, a, 128) :: (List.range (size / 128)).map (fun i => (lat + 1 + i / 2, a + 128 + 128 * i, 128))
          let bt := (unitCycles hw none ls).map (fun p => readBeat hw n.val id pc cyc p.1 p.2.1 p.2.2)
          withBeats n pc cyc bt hw (fun hw =>
            handoffCheck n pc cyc false (ls.map (fun p => (p.2.1, cyc)))
              ((advance n w cyc (placeBeats bt hw.newId)).modCore n (fun c =>
                let c := (maskFolios (leAt h 0x20 4 % 256)).foldl (fun c f => c.makeBusy cyc id f cyc land) c
                { c with rdPort := land, restore := some ⟨id, pc, a, h, land⟩ }))))))

/-- The state of an FRSTR arrives; one that lost a beat restores nothing, an uncorrectable error stops the core (R16, R106, R196). -/
def restoreLand (n : Fin 8) (o : Restore) (hw : Hw) : Hw :=
  let hw1 := settle o.land (hw.at o.land)
  let gs := gotOf hw1 o.id
  let hw2 := dropGot o.id (hw1.modCore n (fun c => { c with restore := none }))
  let size := sectionSize (leAt o.header 0x20 4)
  if (gs.map (fun g => g.bytes.length)).sum ≠ 128 + size then hw2
  else match gotBad gs with
    | some a =>
      let key := wordOf (physOf hw1 a)
      countBad key (Hw.asOf o.land (coreStopNow n (plainFault n (badClass key) o.pc a (Config.eccSyndrome key % 2 ^ 32))) hw2)
    | none => restored n o.header ((gs.filter (fun g => decide (g.addr ≠ o.addr))).flatMap (fun g => g.bytes)) o.land hw2

/-! ### Landings under a chain's stages -/

/-- What the landing of a load in cycle `t` puts into the lines of folio `f`. -/
def landRows (f t : Nat) (fo : Folio) : List RowEff :=
  (List.range fo.kk).map (fun l => ⟨0, t, some (f, l, (List.range 128).map (fun j => tabGet memReset fo.data (l * 128 + j))), 0, 0⟩)

/-- What is still to come of the rows of operation `id` in `old` becomes what `new` says, from cycle `t` on. -/
def laterRows (id t : Nat) (old new : List RowEff) : List RowEff :=
  old.filter (fun e => decide (e.id ≠ id ∨ e.cyc ≤ t)) ++ new.filter (fun e => decide (t < e.cyc))

/-- A store's beat with the bytes that the read-out now delivers. -/
def freshBeat (id : Nat) (bytes : List (Nat × Byte)) (b : Beat) : Beat :=
  match b.data with
  | .bytes _ => if b.id = id then { b with data := .bytes (bytes.filter (fun e => decide (b.addr ≤ e.1 ∧ e.1 < b.addr + b.len))) } else b
  | _ => b

/-- A read-out under whose stages a stream folio has changed in cycle `t`: what it delivers from then on follows the lines as its rows
find them (R162, R170, R172, R176, R182). -/
def redrawOut (n : Fin 8) (r : ChainRun) (t bank : Nat) (b : Bank) (d : List Byte) (dest : Option Nat) (hw : Hw) : Hw :=
  let x : ReadCtx := ⟨r.pc, r.cyc, bank, 0, true, none⟩
  let p := readPlan n x d (epiStages d) dest { hw.modCore n (fun c =>
    { c.setBank bank b with folios := r.folios, rows := r.rows }) with nid := r.id }
  let bytes := p.store.flatMap (fun q => atAddr q.2.1 q.2.2)
  let sent := (planSend (r.id + 1) x p).beats
  let fresh (q : Nat × Nat × List Byte) : Nat × Nat × List Byte := (sent.find? (fun z => decide (z.1 = q.1 ∧ z.2.1 = q.2.1))).getD q
  let hw1 := { hw with beats := hw.beats.map (freshBeat r.id bytes) }
  hw1.modCore n (fun c =>
    let c : Core := match dest with
      | none => c
      | some f =>
        let w := outFolio p.out (c.fol f).role
        c.setFol f { c.fol f with data := tabBytes w.1 (c.fol f).data, strip := tabBytes w.2 (c.fol f).strip }
    { c with
      sends := c.sends.map (fun s => if s.id = r.id + 1 then { s with beats := s.beats.map fresh } else s)
      rows := laterRows r.id t c.rows (readEffs r.id (decide (b.mode = 2)) x p) })

/-- The same of an operation with a prologue: the operands that its slices bring from then on (R159). -/
def redrawOp (r : ChainRun) (t : Nat) (o : ArrOp) (ss : List ProStage) (c : Core) : Core :=
  let d := drawn { c with folios := r.folios, rows := r.rows } (mmFa o.word) (mmFb o.word) (mmFb2 o.word) o ss ⟨o.fa, o.fb, o.fb2, []⟩
  { c with
    ops := c.ops.map (fun y => if y.id = o.id then { y with fa := d.a, fb := d.b, fb2 := d.b2 } else y)
    rows := laterRows o.id t c.rows (proEffs o (decide (o.mode = 2)) d.evs) }

/-- The chain draws lines of folio `f`. -/
def ChainRun.draws (r : ChainRun) (f : Nat) : Bool :=
  match r.what with
  | .out _ _ d _ => (epiStages d).any (fun s => drawsStream s && decide (s.sf = f))
  | .op _ ss => ss.any (fun s => decide (s.op = 3 ∧ s.sf = f))

/-- Folio `f` has changed in cycle `t`: the chains that still draw its lines see it. -/
def redraw (n : Fin 8) (f t : Nat) (hw : Hw) : Hw :=
  ((hw.core n).runs.filter (fun r => decide (t ≤ r.stop) && r.draws f)).foldl (fun h r =>
    let c := h.core n
    let r' := { r with rows := r.rows ++ landRows f t (c.fol f) }
    let h := h.modCore n (fun c => { c with runs := c.runs.map (fun y => if y.id = r.id then r' else y) })
    match r.what with
    | .out bank b d dest => redrawOut n r' t bank b d dest h
    | .op o ss => h.modCore n (redrawOp r' t o ss)) hw

/-- The data of a folio load reaches its folio in its cycle of landing, behind what rows have written before and ahead of what chains
draw from then on (R121, R182). -/
def floadArrives (n : Fin 8) (o : FolioLoad) (gs : List Got) (hw : Hw) : Hw :=
  redraw n o.f o.land ((rowsTo n (o.land - 1) hw).modCore n (deliverFolio o gs))

/-- A folio load lands (R121); a load that lost a beat (R16) delivers nothing; an uncorrectable error stops the core, and the folio keeps
its contents (R106, R196). -/
def floadLand (n : Fin 8) (o : FolioLoad) (hw : Hw) : Hw :=
  let hw1 := settle o.land (hw.at o.land)
  let gs := gotOf hw1 o.id
  let hw2 := dropGot o.id (hw1.modCore n (fun c => { c with floads := c.floads.filter (fun x => decide (x.id ≠ o.id)) }))
  let x := xferOf ((hw.core n).fol o.f) true o.exps o.tr o.conv
  if (gs.map (fun g => g.bytes.length)).sum ≠ x.rows * x.rowLen then hw2
  else match gotBad gs with
    | some a =>
      let key := wordOf (physOf hw1 a)
      countBad key (Hw.asOf o.land (coreStopNow n (plainFault n (badClass key) o.pc a (Config.eccSyndrome key % 2 ^ 32))) hw2)
    | none => floadArrives n o gs hw2

/-- The next folio load of a core, or the state of its FRSTR, lands (R121, R151). -/
def folioLand (n : Fin 8) (hw : Hw) : Hw :=
  match firstFload (hw.core n).floads, (hw.core n).restore with
  | some o, some r => if r.land < o.land then restoreLand n r hw else floadLand n o hw
  | some o, none => floadLand n o hw
  | none, some r => restoreLand n r hw
  | none, none => hw

/-! ### Skew registers (R144, R145) -/

/-- A parity error of skew register `idx` while the newest operation takes slices: the step in progress is discarded, the core
stops as R106 states, a hold becomes due (R279); a second one in a phase is phase-fatal (R282). -/
def skewParity (n : Fin 8) (idx : Nat) (hw : Hw) : Hw :=
  let c := hw.core n
  match newestOp c with
  | none => hw
  | some o =>
    let t := max hw.now (o.start + 1)
    if (c.ast ≠ .run ∧ c.ast ≠ .halting) ∨ o.lastRead < t then hw
    else
      let s := haltSlice o t false
      let fatal := decide (hw.hold.errors ≠ 0)
      let ent := o.entry0 + (s - o.from_) * o.rate - (6 + 2 * o.q)
      let ent := match c.seq with
        | some q => if o.kp ≤ s then q.at_ else ent
        | none => ent
      let hw1 := haltOp n o s t .scrub (hw.at t)
      let hw2 := coreStopNow n { plainFault n cARRAY_SKEW_PARITY o.pc 0 (idx % 128) with sev := if fatal then 2 else 1 } hw1
      let hw3 := hw2.modCore n (fun c => { c with ast := .scrub, scrubEnd := t + 16, skewIdx := idx % 128 })
      let hw4 := hw3.setFld (coreReg n 0x104) 16 8 (satInc (hw.fld (coreReg n 0x104) 16 8) 255)
      let h := hw4.hold
      if fatal then { hw4 with hold := { h with errors := satInc h.errors 255, par := none } }
      else { hw4 with hold := { h with due := h.due.or (some (frameOf t)), errors := h.errors + 1, par := some (n.val, ent) } }

/-- The skew reload ends (R145): STALLED; if the check fails again, a phase-fatal fault with VALID clear. -/
def skewScrubDone (n : Fin 8) (pass : Bool) (hw : Hw) : Hw :=
  let c := hw.core n
  if c.ast ≠ .scrub then hw
  else
    let hw1 := (hw.at c.scrubEnd).modCore n (fun c => { c with ast := .stalled })
    if pass then hw1
    else
      (raiseBy { plainFault n cARRAY_SKEW_PARITY c.pc 0 (0x100 + c.skewIdx) with sev := 2 } hw1).clrReg
        (coreReg n FSTART) 0x80000000

end Sys2Proof.Machine
end

