-- ==== Sys2Proof/Machine/Sync.lean ====
section
/-!
DEFINITION. The semaphore and barrier block (spec/10): references (R318, R319), signals and takes (R320–R325), barriers (R326–R332),
saving and restoring (R333–R335), the overdue watch (R337, R338), and the core instructions that use them (R101, R323, R326).
-/
namespace Sys2Proof.Machine

/-! ### References and values -/

def semVal (hw : Hw) (i : Nat) : Nat := tabGet (fun _ => 0) hw.sync.vals i

def Hw.modSync (hw : Hw) (f : Sync → Sync) : Hw := { hw with sync := f hw.sync }

def setSem (i v : Nat) (hw : Hw) : Hw := hw.modSync (fun s => { s with vals := tabPut (fun _ => 0) i v s.vals })

def noBar : Barrier := ⟨0, false, false, 0, 0, 0, []⟩
def Hw.bar (hw : Hw) (k : Nat) : Barrier := hw.sync.bars.getD k noBar
def Hw.modBar (k : Nat) (f : Barrier → Barrier) (hw : Hw) : Hw :=
  hw.modSync (fun s => { s with bars := s.bars.setIfInBounds k (f (hw.bar k)) })

/-! ### Signals (R322, R324) -/

/-- The syndrome of semaphore records: index and count. -/
def semSyn (i n : Nat) : Nat := i + (n % 4096) * 0x10000

/-- When unit `u` can take a signal (R324, spec/08 "Travel times"). -/
def takeable (s : Signal) (u : Nat) : Nat :=
  if u < 8 then (if s.unit = u then s.own else s.core)
  else if u < 0x18 then s.chan
  else if 0x40 ≤ u ∧ u < 0x80 then s.car
  else s.core

/-- Put a signal on its way. -/
def addSignal (s : Signal) (hw : Hw) : Hw := hw.modSync (fun y => { y with signals := y.signals ++ [s] })

/-- A signal takeable by every unit at `t`. -/
def signalAll (i n unit ch addr t : Nat) (hw : Hw) : Hw := addSignal ⟨i, n, unit, ch, addr, t, t, t, t, t, none, none⟩ hw

/-- A signal as an SSIG of unit `unit` at cycle `c` makes it: + 3 on the same core, + 8 elsewhere, a carrel at the next BCLK. -/
def signalSsig (i n unit ch c : Nat) (hw : Hw) : Hw :=
  addSignal ⟨i, n, unit, ch, 0, if unit < 8 then c + 3 else c + 8, c + 3, c + 8, bclkAt (c + 8), c + 8, none, none⟩ hw

/-- Replace one signal, the first that equals it. -/
def putSignal (s s' : Signal) : List Signal → List Signal
  | [] => []
  | x :: l => if x = s then s' :: l else x :: putSignal s s' l

/-- Add a signal to the stored value, saturating (R322); that of a release is the one BAR_RELFRM tells of (R327). -/
def applySignal (s : Signal) (hw : Hw) : Hw :=
  let v := semVal hw s.sem + s.count
  let hw0 := hw.modSync (fun y => { y with
    signals := putSignal s { s with added := some (min v 0xFFFF - semVal hw s.sem) } y.signals })
  let hw1 := match s.rel with
    | some k => hw0.setReg64 (0x508000 + 0x20 * k + 0x10) (frameOf s.add)
    | none => hw0
  if v ≤ 0xFFFF then setSem s.sem v hw1
  else
    let r : FaultRec := { cls := cSEM_SATURATE, sev := 1, unit := s.unit, ch := s.ch, addr := s.addr, syn := semSyn s.sem s.count }
    (Hw.bump 0x500004 16 16 (raiseBy r (setSem s.sem 0xFFFF hw1))).orReg (satfReg s.sem) (2 ^ (s.sem % 32))

/-! ### Messages of the hub (R328, R330) -/

def mbox (m : Nat) : Nat := 0xD01000 + m * 0x400
def outBusy (hw : Hw) (m : Nat) : Bool := nbit (hw.reg (mbox m + 0x204)).toNat 0

/-- A message of `words` (without word 0) leaves in a mailbox whose OUTBUSY is 0 (R423). -/
def postMail (m typ : Nat) (words : List Nat) (hw : Hw) : Hw :=
  let seq := (hw.fld (mbox m + 0x204) 16 8 + 1) % 256
  let ws := (typ + seq * 0x100 + (words.length + 1) * 0x10000) :: words
  let hw1 := (ws.mapIdx (fun i w => (i, w))).foldl (fun h p => h.setReg (mbox m + 4 * p.1) (BitVec.ofNat 32 p.2)) hw
  emit (.mail m (ws.flatMap (fun w => leBytes w 4))) ((hw1.setFld (mbox m + 0x204) 16 8 seq).setFld (mbox m + 0x204) 0 1 1)

/-- The hub's message to SCH, at once or when the mailbox is free (R424). -/
def hubMail (typ k : Nat) (hw : Hw) : Hw :=
  if outBusy hw 2 then hw.modSync (fun s => { s with schq := s.schq ++ [(typ, k)] }) else postMail 2 typ [k] hw

/-- The lowest free tracker entry of a share (R305). -/
def freeTxid (lo hi : Nat) (hw : Hw) : Option Nat :=
  ((List.range (hi - lo)).map (fun i => lo + i)).find? (fun i => !hw.net.txns.any (fun t => decide (t.txid = i ∧ t.owner ≠ .answer)))

/-- A context breaks: its route has ended with PEER_LOST or PEER_FENCED (R331). -/
def breakBar (k cls : Nat) (hw : Hw) : Hw :=
  if (hw.bar k).broken then hw
  else raise { cls := cls, sev := 2, unit := 0x1A, syn := k } (hw.modBar k (fun b => { b with broken := true }))

/-- A barrier message to another cluster (kind 6 BAR_UP, 7 BAR_REL). -/
def barSend (k kind : Nat) (far : Bool) (fc dst : Nat) (hw : Hw) : Hw :=
  let t : Txn := ⟨(freeTxid 128 192 hw).getD 191, .bar k, kind, 0x1A, far, fc, dst, 0, leBytes (0x1000 + k) 4, 4, false, false, hw.now, .none, 0,
    false, false⟩
  let r := handOver t hw
  if r.2 = 0 then r.1
  else if r.2 = cPEER_LOST ∨ r.2 = cPEER_FENCED then breakBar k r.2 r.1
  else raise { cls := r.2, sev := 2, unit := 0x1A, addr := dst, syn := k } r.1

def barCfg (k : Nat) : Nat := 0x508000 + 0x20 * k
def barScope (hw : Hw) (k : Nat) : Nat := hw.fld (barCfg k) 24 3
def barExpect (hw : Hw) (k : Nat) : Nat := hw.fld (barCfg k) 16 8
def barRsem (hw : Hw) (k : Nat) : Nat := hw.fld (barCfg k) 0 12

/-- This cluster is the top of a context's scope: its parent is itself. -/
def barTop (hw : Hw) (k : Nat) : Bool :=
  !nbit (hw.reg (barCfg k + 4)).toNat 24 && !nbit (hw.reg (barCfg k + 4)).toNat 23 && decide (hw.fld (barCfg k + 4) 0 18 = hw.cid)

/-- An up-arrival leaves for the serving hub. -/
def sendUp (k : Nat) (hw : Hw) : Hw :=
  let p := barCfg k + 4
  if nbit (hw.reg p).toNat 24 then hubMail 0x91 k hw
  else barSend k 6 (nbit (hw.reg p).toNat 23) (hw.fld p 18 5) (hw.fld p 0 18) hw

/-- A release goes on to a hub that sent an up-arrival. To SCH no message is given for it; log entry 11. -/
def sendRel (k : Nat) (f : UpFrom) (hw : Hw) : Hw :=
  match f with
  | .mesh id => barSend k 7 false 0 id hw
  | .far c => barSend k 7 true c (hw.fld (farReg c 0) 0 18) hw
  | .sch => hubMail 0x11 k hw
  | .self => hw

/-- Signal RSEM with count EXPECT, takeable at `t`, whose frame BAR_RELFRM then records; an RSEM that is not allocated is not signalled
(R327, R330). A broken context signals nothing (R331). -/
def signalRelease (k t : Nat) (hw : Hw) : Hw :=
  let on := semOn hw (barRsem hw k)
  let s : Signal := ⟨barRsem hw k, if on then barExpect hw k else 0, 0x1A, 0, 0, t, t, t, t, t, none, some k⟩
  if (hw.bar k).broken then hw
  else if on then addSignal s hw
  else raise { cls := cACCESS_RANGE, sev := 2, unit := 0x1A, syn := barRsem hw k } (addSignal s hw)

/-- Arrivals, completions and releases of a context at cycle `a`; fuel bounds the generations that complete in one cycle. -/
inductive BarEv where
  | full
  | up (f : UpFrom)
  | release
deriving DecidableEq, Repr

/-- What a context does: its local count completes (R327, R329), it counts an up-arrival (R328), a release reaches it (R330). -/
def barEvent (k a : Nat) : Nat → BarEv → Hw → Hw
  | 0, _, hw => hw
  | fuel + 1, .full, hw =>
    if barScope hw k = 1 then
      signalRelease k (a + 12) (hw.modBar k (fun b => { b with cnt := 0, gen := (b.gen + 1) % 256 }))
    else
      let hw1 := hw.modBar k (fun b => { b with waitup := true, cnt := 0 })
      if hw.fld (barCfg k + 8) 0 6 ≠ 0 then barEvent k a fuel (.up .self) hw1 else sendUp k hw1
  | fuel + 1, .up f, hw =>
    let b := hw.bar k
    if hw.fld (barCfg k + 8) 0 6 ≤ b.upcnt then
      raise { cls := cBARRIER_OVERFLOW, sev := 2, unit := 0x1A, syn := 0x02000000 + k } hw
    else
      let hw1 := hw.modBar k (fun b => { b with upcnt := b.upcnt + 1, ups := b.ups ++ [f] })
      if b.upcnt + 1 < hw.fld (barCfg k + 8) 0 6 then hw1
      else if barTop hw k then barEvent k a fuel .release hw1 else sendUp k hw1
  | fuel + 1, .release, hw =>
    let b := hw.bar k
    let hw1 := signalRelease k (a + 12) hw
    let hw2 := hw1.modBar k (fun b =>
      { b with cnt := b.next, next := 0, upcnt := 0, waitup := false, gen := (b.gen + 1) % 256, ups := [] })
    let hw3 := b.ups.foldl (fun h f => sendRel k f h) hw2
    if b.next ≠ 0 ∧ b.next = barExpect hw k then barEvent k a fuel .full hw3 else hw3

/-- Why an arrival is not counted: a syndrome of BARRIER_OVERFLOW (R326, R329). -/
def arrivalBad (hw : Hw) (k : Nat) : Option Nat :=
  let b := hw.bar k
  if barScope hw k = 0 ∨ b.broken then some (0x01000000 + k)
  else if b.waitup ∧ b.next + 1 = barExpect hw k then some (0x03000000 + k)
  else none

/-- Count an arrival at cycle `a`. -/
def arrive (k a : Nat) (hw : Hw) : Hw :=
  if (hw.bar k).waitup then hw.modBar k (fun b => { b with next := b.next + 1 })
  else
    let hw1 := hw.modBar k (fun b => { b with cnt := b.cnt + 1 })
    if (hw.bar k).cnt + 1 = barExpect hw k then barEvent k a 8 .full hw1 else hw1

/-- An arrival of a carrel at its T0 (R326). -/
def arriveLate (x : Arrival) (hw : Hw) : Hw :=
  let hw1 := hw.modSync (fun s => { s with arrivals := s.arrivals.filter (fun y => decide (y ≠ x)) })
  match arrivalBad hw1 x.k with
  | some syn => carFault (x.unit - 0x40) { cls := cBARRIER_OVERFLOW, sev := 2, unit := x.unit, instr := x.pc, exp := frameOf x.cyc,
                                           act := frameOf x.cyc, syn := syn } hw1
  | none => arrive x.k x.cyc hw1

/-! ### The order of a cycle (R325) -/

/-- The next arrival or signal that is due, with its cycle; arrivals go before signals of the same cycle. -/
def syncHead (hw : Hw) : Option (Nat × (Arrival ⊕ Signal)) :=
  let a := hw.sync.arrivals.foldl (fun (m : Option Arrival) x => match m with
    | none => some x
    | some y => if x.cyc < y.cyc then some x else some y) none
  let s := (hw.sync.signals.filter (fun x => x.added.isNone)).foldl (fun (m : Option Signal) x => match m with
    | none => some x
    | some y => if x.add < y.add then some x else some y) none
  match a, s with
  | none, none => none
  | some x, none => some (x.cyc, .inl x)
  | none, some y => some (y.add, .inr y)
  | some x, some y => if x.cyc ≤ y.add then some (x.cyc, .inl x) else some (y.add, .inr y)

/-- Everything due by `t`, in the order of its cycles (fuel: what is on its way, and what that can start). -/
def syncRun (t : Nat) : Nat → Hw → Hw
  | 0, hw => hw
  | k + 1, hw =>
    match syncHead hw with
    | none => hw
    | some (c, x) =>
      if t < c then hw
      else match x with
        | .inl a => syncRun t k (arriveLate a hw)
        | .inr s => syncRun t k (applySignal s hw)

/-- What unit `u` can take of semaphore `i` at `t`: the stored value less what pending signals added (R324). -/
def avail (hw : Hw) (u t i : Nat) : Nat :=
  semVal hw i - ((hw.sync.signals.filter (fun s => decide (s.sem = i ∧ t < takeable s u))).map (fun s => s.added.getD 0)).sum

/-! ### Units that wait (R299, R315, R325) -/

def carReg (c o : Nat) : Nat := 0xA00000 + c * 0x100 + o
def teReg (k o : Nat) : Nat := 0x600000 + k / 4 * 0x100 + k % 4 * 0x40 + o
/-- The unit number of channel `k`'s engine (R13). -/
def teUnit (k : Nat) : Nat := 8 + k / 4

def noTe : TeCh := ⟨.idle, [], [], none, none, 0, none⟩
def Hw.te (hw : Hw) (k : Nat) : TeCh := hw.tes.getD k noTe
def Hw.modTe (k : Nat) (f : TeCh → TeCh) (hw : Hw) : Hw := { hw with tes := hw.tes.setIfInBounds k (f (hw.te k)) }

/-- IDLE, RUN or WAIT by what the channel holds, unless it is stopping or stopped. -/
def teSettle (c : TeCh) : TeCh :=
  if c.st = .stopping ∨ c.st = .stoppedFault ∨ c.st = .stoppedReq then c
  else { c with st := if c.wait.isSome then .wait else if c.held.isEmpty && c.flights.all (fun f => decide (f.phase ≠ 0)) then .idle
                      else .run }

/-- Units that wait on a semaphore, in the order of their takes: unit, channel, wait (R325). -/
def waiters (hw : Hw) : List (Nat × Nat × SemWait) :=
  let one (u ch : Nat) (w : Option SemWait) : List (Nat × Nat × SemWait) := w.toList.map (fun x => (u, ch, x))
  (hw.cores.toList.mapIdx (fun i c => one i 0 c.wait)).flatten ++
  (hw.tes.toList.mapIdx (fun i c => one (8 + i / 4) (i % 4) c.wait)).flatten ++
  (hw.cars.toList.mapIdx (fun i c => one (0x40 + i) 0 c.wait)).flatten

/-- The unit's wait ends at `t`: it goes on from the first frame boundary at least 2 cycles later, a carrel's 2 BCLK (R101, R237,
R299). -/
def endWait (u ch t : Nat) (hw : Hw) : Hw :=
  let b := frameAt (t + 2)
  if h : u < 8 then
    (hw.modCore ⟨u, h⟩ (fun c => { c with st := .run, wait := none, next := 6 * b, anchor := b })).setReg64 (coreReg ⟨u, h⟩ 0x38) b
  else if u < 0x18 then hw.modTe (4 * (u - 8) + ch) (fun c => teSettle { c with wait := none, anchor := some b })
  else
    let b := frameAt (t + 4)
    (hw.modCar (u - 0x40) (fun e => { e with st := .run, wait := none, pc := (e.pc + 32) % 0x40000, last := 3 * b })).setReg64
      (carReg (u - 0x40) 0x18) b

/-- A waiting unit takes its count in cycle `t` if it can: a carrel at a BCLK edge, no unit during a hold (R283, R324, R325). -/
def takeAt (t : Nat) (hw : Hw) (x : Nat × Nat × SemWait) : Hw :=
  let w := x.2.2
  if hw.hold.held ∨ t < w.since ∨ (0x40 ≤ x.1 ∧ t % 2 = 1) ∨ avail hw x.1 t w.sem < w.count then hw
  else endWait x.1 x.2.1 t (setSem w.sem (semVal hw w.sem - w.count) hw)

/-- The place of a unit and channel in the order of a cycle's takes. -/
def takeKey (u ch : Nat) : Nat := 4 * u + ch

/-- The blocking takes of cycle `t` by the units before `key`, in their order. -/
def serveTakes (t key : Nat) (hw : Hw) : Hw := ((waiters hw).filter (fun x => decide (takeKey x.1 x.2.1 < key))).foldl (takeAt t) hw

/-- Arrivals and signals up to cycle `t`, in order. -/
def bring (t : Nat) (hw : Hw) : Hw :=
  (syncRun t (2 * (hw.sync.arrivals.length + hw.sync.signals.length) + 2) hw).modSync (fun s => { s with time := max s.time t })

/-- The next cycle after the block's time at which a take that waits can come to succeed. -/
def nextEvent (hw : Hw) : Option Nat :=
  let t := hw.sync.time
  let ts := (t + t % 2) :: (hw.sync.arrivals.map (fun a => a.cyc) ++ (waiters hw).map (fun x => x.2.2.since) ++
    hw.sync.signals.flatMap (fun s => [s.add, s.own, s.core, s.car, s.chan]))
  (ts.filter (fun x => decide (t < x))).foldl (fun m x => match m with
    | none => some x
    | some y => some (min x y)) none

/-- More steps than the block can have before it: each signal and wait brings a few, an arrival can bring a signal. -/
def syncFuel (hw : Hw) : Nat := 16 * (hw.sync.arrivals.length + hw.sync.signals.length + (waiters hw).length) + 16

/-- Go on to cycle `t`, serving the takes of every cycle before it. -/
def syncWalk (t : Nat) : Nat → Hw → Hw
  | 0, hw => hw
  | k + 1, hw =>
    if t ≤ hw.sync.time then hw
    else
      let h := serveTakes hw.sync.time 1024 hw
      match nextEvent h with
      | some e => if e < t then syncWalk t k (bring e h) else h
      | none => h

/-- Bring the block to cycle `t`: its arrivals and signals are in, its takes are still to be served; and forget signals that every unit
could take before. -/
def syncTo (t : Nat) (hw : Hw) : Hw :=
  let hw1 := bring t (if (waiters hw).isEmpty then hw else syncWalk t (syncFuel hw) hw)
  hw1.modSync (fun s => { s with
    signals := s.signals.filter (fun x => x.added.isNone || decide (t ≤ max (max x.own x.core) (max x.car x.chan))) })

/-- Time goes on until the unit has taken (fuel: steps of the block). -/
def takeWalk (u ch : Nat) : Nat → Hw → Option Hw
  | 0, _ => none
  | k + 1, hw =>
    let h := serveTakes hw.sync.time (takeKey u ch + 1) hw
    if !(waiters h).any (fun x => decide (x.1 = u ∧ x.2.1 = ch)) then some (h.at h.sync.time)
    else
      let h1 := serveTakes h.sync.time 1024 h
      match nextEvent h1 with
      | some e => takeWalk u ch k (bring e h1)
      | none => none

/-- A waiting unit takes, if what is on its way suffices; else nothing happens (R101, R237, R299). -/
def blockTake (u ch : Nat) (hw : Hw) : Hw :=
  if (waiters hw).any (fun x => decide (x.1 = u ∧ x.2.1 = ch)) then (takeWalk u ch (syncFuel hw) (syncTo hw.now hw)).getD hw else hw

/-- A non-blocking take in cycle `t`, after those of the units before it (R325); a failed one sets SEM_UFF, counts, and is recorded if
SEM_CTL.UF_REC is 1 (R323). -/
def tryTake (u i n t : Nat) (hw : Hw) : Hw × Bool :=
  let hw1 := serveTakes t (takeKey u 0) (syncTo t hw)
  if n ≤ avail hw1 u t i then (setSem i (semVal hw1 i - n) hw1, true)
  else
    let hw2 := (hw1.orReg (uffReg i) (2 ^ (i % 32))).bump 0x500004 0 16
    (if nbit (hw.reg 0x500000).toNat 0 then
      raiseBy { cls := cSEM_UNDERFLOW, sev := 0, unit := u, syn := semSyn i n } hw2 else hw2, false)

/-! ### Core instructions -/

/-- The reference in g[rs1]: its low 32 bits. -/
def refOf (c : Core) (w : W32) : Nat := ((c.gr (rs1Of w)).toNat) % 2 ^ 32

/-- The semaphore a core instruction names: an invalid reference or an unallocated semaphore faults at issue (R319, R320). -/
def withSem (n : Fin 8) (w : W32) (pc : Nat) (hw : Hw) (k : Nat → Hw) : Hw :=
  let r := refOf (hw.core n) w
  match refSem r with
  | none => coreFault n (plainFault n cILLEGAL_INSTR pc 0 0) hw
  | some i => if semOn hw i then k i else coreFault n (plainFault n cACCESS_RANGE pc 0 r) hw

/-- SSIG (R324). -/
def coreSsig (n : Fin 8) (w : W32) (hw : Hw) : Hw :=
  withIssue n .ssig w hw (fun cyc pc hw =>
    withReads n pc cyc [(0, rs1Of w)] hw (fun hw =>
      withSem n w pc hw (fun i => signalSsig i (imm12Of w) n.val 0 cyc (advance n w cyc hw))))

/-- SWAIT begins to wait; SWAIT_TAKE ends the wait (R101). -/
def coreSwait (n : Fin 8) (w : W32) (hw : Hw) : Hw :=
  withIssue n .swait w hw (fun cyc pc hw =>
    withReads n pc cyc [(0, rs1Of w)] hw (fun hw =>
      withSem n w pc hw (fun i =>
        let sw : SemWait := ⟨i, imm12Of w, pc, cyc⟩
        (advance n w cyc hw).modCore n (fun c => { c with st := .wait, wait := some sw, slot0 := none }))))

/-- A waiting core takes its count, and resumes at the first frame boundary at least 2 cycles later (R101). -/
def swaitTake (n : Fin 8) (hw : Hw) : Hw := blockTake n.val 0 hw

/-- STAKE (R323). -/
def coreStake (n : Fin 8) (w : W32) (hw : Hw) : Hw :=
  withIssue n .stake w hw (fun cyc pc hw =>
    withReads n pc cyc [(0, rs1Of w)] hw (fun hw =>
      withSem n w pc hw (fun i =>
        withWrite n pc cyc (some (0, rdOf w)) 2 hw (fun hw =>
          let r := tryTake n.val i (imm12Of w) cyc (advance n w cyc hw)
          r.1.modCore n (fun c => c.setG (rdOf w) (if r.2 then 1 else 0))))))

/-- BARR: an arrival at its issue cycle (R326). -/
def coreBarr (n : Fin 8) (w : W32) (hw : Hw) : Hw :=
  withIssue n .barr w hw (fun cyc pc hw =>
    withReads n pc cyc [(0, rs1Of w)] hw (fun hw =>
      let r := refOf (hw.core n) w
      match refBar r with
      | none => coreFault n (plainFault n cILLEGAL_INSTR pc 0 0) hw
      | some k =>
        let hw1 := syncTo cyc hw
        match arrivalBad hw1 k with
        | some syn => coreFault n (atIssue n cBARRIER_OVERFLOW pc cyc 0 syn) hw1
        | none => arrive k cyc (advance n w cyc hw1)))

/-! ### Register accesses of KC and the host -/

/-- A write of SEM_SIGNAL (R320, R324). -/
def semSignal (u : Writer) (v : W32) (hw : Hw) : Hw :=
  let i := fieldOf v 0 12
  let n := fieldOf v 16 12
  if n = 0 ∨ !semOn hw i then refuse u.unit hw
  else signalAll i n u.unit 0 0 (hw.now + 8) hw

/-- A write of SEM_TAKE (R320, R323): without GO it sets COUNT and INDEX. -/
def semTake (u : Writer) (v : W32) (hw : Hw) : Hw :=
  let i := fieldOf v 0 12
  let n := fieldOf v 16 12
  let keep (b : Bool) (hw : Hw) : Hw := hw.setReg 0x50000C (BitVec.ofNat 32 (i + n * 0x10000 + b2n b * 2 ^ 31))
  if !nbit v.toNat 30 then keep (nbit (hw.reg 0x50000C).toNat 31) hw
  else if n = 0 then refuse u.unit hw
  else if !semOn hw i then refuse u.unit (hw.setFld 0x50000C 31 1 0)
  else
    let r := tryTake u.unit i n hw.now hw
    keep r.2 r.1

/-- A write of SEM_VAL: it comes before the signals of its cycle, which are added after it; those added in earlier cycles are pending for no
unit after it (R322, R324, R325). Signals of its cycle that an earlier command of the same cycle has added are added again. -/
def semValWrite (i : Nat) (u : Writer) (v : W32) (hw : Hw) : Hw :=
  if !semOn hw i then refuse u.unit hw
  else
    let hw1 := setSem i (fieldOf v 0 16) (if hw.sync.time < hw.now then syncTo (hw.now - 1) hw else hw)
    let before (x : Signal) : Bool := decide (x.sem = i ∧ x.add < hw.now) && x.added.isSome
    bring hw.now (hw1.modSync (fun s => { s with
      signals := (s.signals.filter (fun x => !before x)).map (fun x => if x.sem = i ∧ x.add = hw.now then { x with added := none } else x) }))

/-- A write of a SEM_ALLOC word: bits that become 1 reset their semaphores (R321). -/
def semAllocWrite (j : Nat) (v : W32) (hw : Hw) : Hw :=
  let hw1 := syncTo hw.now hw
  let old := (hw.reg (0x500200 + 4 * j)).toNat
  let new := (List.range 32).filter (fun b => nbit v.toNat b && !nbit old b)
  let hw2 := new.foldl (fun h b => setSem (32 * j + b) 0 h) hw1
  let m := (new.map (fun b => 2 ^ b)).sum
  let hw3 := hw2.modSync (fun s => { s with
    signals := s.signals.filter (fun x => !(x.added.isSome && decide (x.sem / 32 = j ∧ x.sem % 32 ∈ new))) })
  ((hw3.clrReg (0x500400 + 4 * j) m).clrReg (0x500600 + 4 * j) m).setReg (0x500200 + 4 * j) v

/-- The first signal or arrival on its way becomes due: time passes to it (R324). -/
def signalTakeable (hw : Hw) : Hw :=
  match syncHead hw with
  | none => hw
  | some (c, _) => syncTo (max c hw.now) (hw.at c)

/-- A write of 1 to BAR_ARRIVE (R326). -/
def barArrive (k : Nat) (u : Writer) (hw : Hw) : Hw :=
  let hw1 := syncTo hw.now hw
  match arrivalBad hw1 k with
  | some syn => raise { cls := cBARRIER_OVERFLOW, sev := 2, unit := u.unit, syn := syn } hw1
  | none => arrive k hw.now hw1

/-- A write of BAR_CFG, BAR_PARENT or BAR_UP (r = 0, 1, 2), refused while the context counts (R332). -/
def barConfigWrite (k r : Nat) (u : Writer) (v : W32) (hw : Hw) : Hw :=
  let hw1 := syncTo hw.now hw
  let b := hw1.bar k
  let busy := decide (b.cnt ≠ 0 ∨ b.next ≠ 0 ∨ b.upcnt ≠ 0) || b.waitup
  let at_ := barCfg k + 4 * r
  if r = 0 then
    if 5 ≤ fieldOf v 24 3 then refuse u.unit hw1
    else if fieldOf v 24 3 = 0 then
      (hw1.modBar k (fun b => ⟨b.gen, false, false, 0, 0, 0, []⟩)).setReg at_ (v &&& 0x00FF0FFF#32)
    else if busy then refuse u.unit hw1
    else hw1.setReg at_ (v &&& 0x07FF0FFF#32)
  else if busy then refuse u.unit hw1
  else hw1.setReg at_ (if r = 1 then v &&& 0x01FFFFFF#32 else v &&& 0x3F#32)

/-- The serving hub counts an up-arrival at the present cycle (R328). -/
def upArrival (k : Nat) (f : UpFrom) (hw : Hw) : Hw := barEvent k hw.now 8 (.up f) (syncTo hw.now hw)

/-- A release reaches a context at the present cycle (R330). -/
def barrierRelease (k : Nat) (hw : Hw) : Hw := barEvent k hw.now 8 .release (syncTo hw.now hw)

/-! ### Saving and restoring (R333–R335) -/

/-- BAR_STAT as it reads (R339). -/
def barStat (b : Barrier) : Nat :=
  b.cnt + b.next * 2 ^ 8 + b.upcnt * 2 ^ 16 + b2n b.waitup * 2 ^ 22 + b2n b.broken * 2 ^ 23 + b.gen * 2 ^ 24

/-- A context from its BAR_STAT. -/
def barOfStat (n : Nat) : Barrier := ⟨nbits n 24 8, nbit n 23, nbit n 22, nbits n 16 6, nbits n 8 8, nbits n 0 8, []⟩

def xferBase (hw : Hw) : Nat := hw.fld 0x500014 0 12
def xferCount (hw : Hw) : Nat := hw.fld 0x500014 16 7
/-- The contexts that SEM_XFER_BAR names. -/
def xferBars (hw : Hw) : List Nat :=
  (if nbit (hw.reg 0x500018).toNat 6 then [hw.fld 0x500018 0 6] else []) ++
  (if nbit (hw.reg 0x500018).toNat 14 then [hw.fld 0x500018 8 6] else [])

def barRecord (hw : Hw) (k : Nat) : List Byte :=
  leBytes (hw.reg (barCfg k)).toNat 4 ++ leBytes (hw.reg (barCfg k + 4)).toNat 4 ++ leBytes (hw.reg (barCfg k + 8)).toNat 4 ++
  leBytes (barStat (hw.bar k)) 4

/-- A bit per semaphore of a range, the first in bit 0. -/
def rangeBits (hw : Hw) (regOf : Nat → Nat) (base count : Nat) : Nat :=
  ((List.range count).map (fun j => b2n (nbit (hw.reg (regOf (base + j))).toNat ((base + j) % 32)) * 2 ^ j)).sum

/-- The 192-byte synchronisation record. -/
def syncRecord (hw : Hw) : List Byte :=
  let base := xferBase hw
  let n := xferCount hw
  let bar (v lo : Nat) : List Byte :=
    if nbit (hw.reg 0x500018).toNat v then barRecord hw (hw.fld 0x500018 lo 6) else List.replicate 16 0
  leBytes (base + n * 0x10000) 4 ++ leBytes (hw.reg 0x500018).toNat 4 ++ leBytes (rangeBits hw satfReg base n) 8 ++
  leBytes (rangeBits hw uffReg base n) 8 ++ List.replicate 8 0 ++
  bytesAt ((List.range n).flatMap (fun j => leBytes (semVal hw (base + j)) 2)) 0 128 ++ bar 6 0 ++ bar 14 8

/-- The record may stand at an address: CSM, or BM outside the reserved region, which the queue engine may also use (R335). -/
def xferPlace (hw : Hw) (engine : Bool) (a : Nat) : Bool :=
  decide (a % 64 = 0) &&
  [a, a + 191].all (fun x => match regionOf hw x with
    | .csm => true
    | .bm _ o => engine || decide (o < reservedFrom hw)
    | _ => false)

def xferRefuse (err : Nat) (hw : Hw) : Hw := hw.setFld 0x500028 8 8 err

/-- Clear the range's allocation and the saved contexts, as a save does (R333). -/
def xferClear (hw : Hw) : Hw :=
  let hw1 := (List.range (xferCount hw)).foldl (fun h j => h.clrReg (allocReg (xferBase hw + j)) (2 ^ ((xferBase hw + j) % 32))) hw
  (xferBars hw).foldl (fun h k =>
    (h.modBar k (fun b => ⟨b.gen, false, false, 0, 0, 0, []⟩)).setFld (barCfg k) 24 3 0) hw1

/-- Why a save is refused, or 0 (R333, R335). -/
def saveErr (hw : Hw) (engine : Bool) : Nat :=
  let base := xferBase hw
  let n := xferCount hw
  if !xferPlace hw engine (hw.reg64 0x500020) then 0x06
  else if (waiters hw).any (fun w => decide (base ≤ w.2.2.sem ∧ w.2.2.sem < base + n)) then 0x01
  else if (xferBars hw).any (fun k => decide (barScope hw k ≠ 1) && ((hw.bar k).waitup || decide ((hw.bar k).upcnt ≠ 0))) then 0x02
  else if !(List.range n).all (fun j => semOn hw (base + j)) then 0x03
  else 0

/-- The transfer begins: its accesses wait for free slots (R335). -/
def xferStart (save : Bool) (l : List Byte) (hw : Hw) : Hw :=
  let a := hw.reg64 0x500020
  bgAdd (bgNew hw 0x1A (if save then writeAccs hw a l else readAccs hw a 192) .sem)
    ((hw.modSync (fun s => { s with xfer := some (save, a, l) })).setFld 0x500028 0 1 1)

/-- GO with OP 0 (R333): the record is taken at GO; BUSY refuses it at the writer (R335). -/
def semSave (engine : Bool) (u : Writer) (hw : Hw) : Hw :=
  let hw := hw.setReg 0x500010 0#32
  if hw.sync.xfer.isSome then refuse u.unit hw
  else
    let hw1 := syncTo hw.now hw
    let e := saveErr hw1 engine
    if e ≠ 0 then xferRefuse e hw1 else xferClear (xferStart true (syncRecord hw1) (xferRefuse 0 hw1))

/-- Why a restore of a record is refused, or 0 (R334). -/
def restoreErr (hw : Hw) (l : List Byte) : Nat :=
  let base := nbits (leAt l 0 4) 0 12
  let n := nbits (leAt l 0 4) 16 7
  let b := leAt l 4 4
  if (List.range n).any (fun j => semOn hw (base + j)) then 0x04
  else if (nbit b 6 && decide (barScope hw (nbits b 0 6) ≠ 0)) || (nbit b 14 && decide (barScope hw (nbits b 8 6) ≠ 0)) then 0x05
  else 0

/-- GO with OP 1 (R334). -/
def semRestore (engine : Bool) (u : Writer) (hw : Hw) : Hw :=
  let hw := hw.setReg 0x500010 2#32
  if hw.sync.xfer.isSome then refuse u.unit hw
  else if !xferPlace hw engine (hw.reg64 0x500020) then xferRefuse 0x06 hw
  else xferStart false [] (xferRefuse 0 hw)

/-- Put a restored context in place. -/
def barRestore (k : Nat) (l : List Byte) (hw : Hw) : Hw :=
  let w (i : Nat) : W32 := BitVec.ofNat 32 (leAt l (4 * i) 4)
  (((hw.modBar k (fun _ => barOfStat (leAt l 12 4))).setReg (barCfg k) (w 0 &&& 0x07FF0FFF#32)).setReg (barCfg k + 4)
    (w 1 &&& 0x01FFFFFF#32)).setReg (barCfg k + 8) (w 2 &&& 0x3F#32)

/-- Put a restored record in place: values, flags, contexts, allocation (R334). -/
def restoreRecord (l : List Byte) (hw : Hw) : Hw :=
  let base := nbits (leAt l 0 4) 0 12
  let n := nbits (leAt l 0 4) 16 7
  let b := leAt l 4 4
  let put (j : Nat) (h : Hw) : Hw :=
    let i := base + j
    let m := 2 ^ (i % 32)
    let flag (r bit : Nat) (h : Hw) : Hw := if nbit (leAt l bit 8) j then h.orReg r m else h.clrReg r m
    (flag (satfReg i) 8 (flag (uffReg i) 0x10 (setSem i (leAt l (0x20 + 2 * j) 2) h))).orReg (allocReg i) m
  let hw1 := (List.range n).foldl (fun h j => put j h) hw
  let hw2 := if nbit b 6 then barRestore (nbits b 0 6) (l.drop 0xA0) hw1 else hw1
  if nbit b 14 then barRestore (nbits b 8 6) (l.drop 0xB0) hw2 else hw2

/-- The record that a restore has read is judged, and put in place (R334). A word that it could not read restores nothing (R196). -/
def restoreEnd (b : BgReq) (hw : Hw) : Hw :=
  match b.bad with
  | some a =>
    raise { cls := badClass (wordOf (physOf hw a)), sev := 2, unit := 0x1A, addr := a,
            syn := Config.eccSyndrome (wordOf (physOf hw a)) % 2 ^ 32 } (hw.setFld 0x500028 0 1 0)
  | none =>
    let e := restoreErr hw b.got
    if e ≠ 0 then xferRefuse e (hw.setFld 0x500028 0 1 0) else restoreRecord b.got (hw.setFld 0x500028 0 2 2)

/-- The transfer ends once its accesses are served: the record is in memory, or in place (R335). A write that a bad word refuses is
recorded (R197). -/
def semXferDone (hw : Hw) : Hw :=
  match hw.sync.xfer, bgDone hw .sem with
  | some (save, _, _), some b =>
    let hw1 := bgDrop .sem ((syncTo hw.now hw).modSync (fun s => { s with xfer := none }))
    if !save then restoreEnd b hw1
    else
      let hw2 := hw1.setFld 0x500028 0 2 2
      (match b.bad with
       | some a => raise { cls := badClass (wordOf (physOf hw a)), sev := 2, unit := 0x1A, addr := a,
                           syn := Config.eccSyndrome (wordOf (physOf hw a)) % 2 ^ 32 } hw2
       | none => hw2)
  | _, _ => hw

/-! ### The overdue watch (R337, R338) -/

/-- A semaphore lies in the external range. -/
def external (hw : Hw) (i : Nat) : Bool :=
  nbit (hw.reg 0x500048).toNat 31 && decide (hw.fld 0x500048 0 12 ≤ i ∧ i ≤ hw.fld 0x500048 16 12)

def stBusy (s : UState) : Bool := decide (s = .armed ∨ s = .run ∨ s = .stopping)

/-- The frame that ends is quiet. -/
def quietFrame (hw : Hw) : Bool :=
  let ws := waiters hw
  !ws.isEmpty && hw.cores.toList.all (fun c => !stBusy c.st) && hw.cars.toList.all (fun c => !stBusy c.st) &&
  hw.tes.toList.all (fun c => c.flights.isEmpty) && hw.cars.toList.all (fun c => c.ops.all (fun o => decide (2 * o.e ≤ hw.now))) &&
  hw.net.txns.all (fun t => decide (t.owner = .answer)) && !ws.any (fun w => external hw w.2.2.sem)

/-- The watch at the end of a frame, outside a hold: count or reset (R337). -/
def watchFrame (hw : Hw) : Hw :=
  if !nbit (hw.reg 0x500040).toNat 0 || nbit (hw.reg 0x500044).toNat 0 || hw.hold.held then hw
  else if quietFrame hw then hw.setFld 0x500044 16 13 (min 4096 (hw.fld 0x500044 16 13 + 1))
  else hw.setFld 0x500044 16 13 0

/-- The trip, at the boundary that ends the 4,096th consecutive quiet frame (R338). -/
def overdueTrip (hw : Hw) : Hw :=
  if hw.fld 0x500044 16 13 < 4096 ∨ nbit (hw.reg 0x500044).toNat 0 ∨ !nbit (hw.reg 0x500040).toNat 0 then hw
  else
    let ws := waiters hw
    let f := hw.frame - 1
    let qw := if hw.rcd.phaseSeen then hw.fld FLT_QID 0 14 else 0
    let put (h : Hw) (p : Nat × Nat × Nat × SemWait) : Hw :=
      let a := 0x500100 + 16 * p.1
      let w := p.2.2.2
      (((h.setReg a (BitVec.ofNat 32 (2 ^ 31 + p.2.2.1 * 256 + p.2.1))).setReg (a + 4)
        (BitVec.ofNat 32 (w.count * 0x10000 + w.sem))).setReg (a + 8) (BitVec.ofNat 32 (semVal hw w.sem))).setReg (a + 12)
        (BitVec.ofNat 32 qw)
    let hw0 := (List.range 64).foldl (fun h i => h.setReg (0x500100 + 4 * i) 0#32) hw
    let hw1 := (ws.take 16).mapIdx (fun i w => (i, w)) |>.foldl put hw0
    let n := min 255 ws.length
    let hw2 := ((hw1.setFld 0x500044 8 8 n).orReg 0x500044 1).setReg64 0x500050 f
    raise { cls := cDEADLOCK, sev := 2, unit := 0x1A, q := if hw.rcd.phaseSeen then .queue qw else .none, act := f, syn := n } hw2

end Sys2Proof.Machine
end

