-- ==== Sys2Proof/Machine/Carrel.lean ====
section
/-!
DEFINITION. Carrel engines (R229–R238, R247) and the carrels' housekeeping: refresh (R221–R226), the row-remap rebuild (R248–R252).
-/
namespace Sys2Proof.Machine

/-! ### Checks at issue (R235) -/

/-- Fields of a command that are in use: FLAGS mask, then A, B, S, DST, N, P0, P1 (command table); none for an unknown OP. -/
def carFields (r : CarRec) : Option (Nat × List Bool) :=
  let f (m : Nat) (l : List Nat) : Option (Nat × List Bool) := some (m, (List.range 7).map (fun i => decide (i ∈ l)))
  match crOp r with
  | 0x01 => f 0x3F [0, 2, 3, 4, 5]
  | 0x02 => f 0 [0, 2, 4, 5]
  | 0x03 => f 0 [0, 4, 5, 6]
  | 0x04 => f 0x21 [0, 3, 4]
  | 0x05 => f 0x03 [0, 1, 2, 3, 4]
  | 0x06 => f 0x03 [0, 1, 4]
  | 0x07 => f 0x23 [0, 2, 3, 4]
  | 0x08 => f 0x03 [0, 2, 4, 5]
  | 0x09 => f 0x21 (if crBit r 0 then [0, 3, 4, 5] else [0, 3, 4])
  | 0x0A => f 0x21 [if crBit r 0 then 0 else 2, 3, 4, 5]
  | 0x0B => f 0x03 [0, 2, 4]
  | 0x0C => f 0x01 [0, 2, 4]
  | 0x10 => f 0 [1, 2, 4]
  | 0x11 => f 0 [1, 2, 4, 5, 6]
  | 0x12 => f 0 [1, 2, 4]
  | 0x18 => f 0 [5, 6]
  | 0x19 => f 0 [5, 6]
  | 0x1A => f 0 [6]
  | 0x1F => f 0 []
  | _ => none

/-- An unknown OP, a nonzero unused or reserved field, or a field outside its range (R235). -/
def carIllegal (r : CarRec) : Bool :=
  match carFields r with
  | none => true
  | some (m, l) =>
    let n := crN r
    let unused := (List.zip l [r.w1, r.w2, r.w3, r.w4, r.w5, r.w6, r.w7]).any (fun p => !p.1 && decide (p.2 ≠ 0#32))
    let high := decide (r.w1.toNat ≥ 2 ^ 26 ∨ r.w2.toNat ≥ 2 ^ 26 ∨ r.w3.toNat ≥ 2 ^ 18 ∨ r.w4.toNat ≥ 2 ^ 26 ∨ r.w5.toNat ≥ 2 ^ 24)
    let flags := decide (crFlags r &&& (0xFF - m) ≠ 0)
    let range : Bool := match crOp r with
      | 0x01 => decide (crFlags r % 4 = 3 ∨ crP0 r % 128 ≠ 0 ∨ crP0 r = 0 ∨ 32768 < crP0 r ∨ 2 ^ 24 < n * crP0 r)
      | 0x02 => decide (n % 64 ≠ 0)
      | 0x03 => decide (n % 64 ≠ 0)
      | 0x04 => decide (n % 64 ≠ 0)
      | 0x05 => decide (n % (if crBit r 0 then 8192 else 4096) ≠ 0)
      | 0x06 => decide (n % (if crBit r 0 then 8192 else 4096) ≠ 0)
      | 0x09 => decide (n % 256 ≠ 0)
      | 0x0A => decide (crP0 r = 0 ∨ 64 < crP0 r ∨ n < crP0 r)
      | 0x0C => decide (n % 256 ≠ 0)
      | 0x10 => decide (n % 256 ≠ 0)
      | 0x11 => decide (n % 256 ≠ 0)
      | 0x12 => decide (n % 256 ≠ 0)
      | 0x18 => decide (crP0 r = 0 ∨ 4095 < crP0 r) || (refSem (crP1 r)).isNone
      | 0x19 => decide (crP0 r = 0 ∨ 4095 < crP0 r) || (refSem (crP1 r)).isNone
      | 0x1A => (refBar (crP1 r)).isNone
      | _ => false
    unused || high || flags || range

/-- An offset that breaks its alignment (R235, R246). -/
def carMisaligned (r : CarRec) : Bool :=
  let bm := decide (crA r % 256 ≠ 0)
  let s := decide (crS r % 8 ≠ 0)
  let dst := decide (crDst r % (if crBit r 5 then 128 else 8) ≠ 0)
  match crOp r with
  | 0x01 => bm || s || dst
  | 0x02 => bm || s
  | 0x03 => bm
  | 0x04 => bm || dst
  | 0x05 => bm || s || decide (crB r % 256 ≠ 0 ∨ crDst r % 256 ≠ 0)
  | 0x06 => bm || decide (crB r % 256 ≠ 0)
  | 0x07 => s || dst || decide (crA r % carU r ≠ 0)
  | 0x08 => s || decide (crP0 r % 8 ≠ 0 ∨ crA r % carU r ≠ 0)
  | 0x09 => bm || dst
  | 0x0A => bm || s || dst
  | 0x0B => bm || s
  | 0x0C => bm || s
  | 0x10 => s || decide (crB r % 128 ≠ 0)
  | 0x11 => s || decide (crB r % 128 ≠ 0)
  | 0x12 => s || decide (crB r % 128 ≠ 0)
  | _ => false

/-- A range beyond the group's visible capacity or in its reserved region, beyond the scratch, or beyond CSM (R235, R192). -/
def carRange (hw : Hw) (r : CarRec) : Bool :=
  let scr := carScrReads r ++ carScrWrites r
  let bm := carBmReads r ++ carBmWrites r
  bm.any (fun x => !inGroup hw x.1 x.2) || scr.any (fun x => decide (0x40000 < x.1 + x.2)) ||
  (carCsmReads r ++ carCsmWrites r).any (fun x => decide (0x4000000 < x.1 + x.2))

/-! ### Issue (R229–R235) -/

/-- The record an engine is about to issue, as memory holds it. -/
def carRecAt (hw : Hw) (c o : Nat) : CarRec :=
  let w (i : Nat) : W32 := BitVec.ofNat 32 (hw.num (carScr c (o + 4 * i)) 4)
  ⟨w 0, w 1, w 2, w 3, w 4, w 5, w 6, w 7⟩

/-- A fault at the issue of a command, at BCLK `t` (R234). -/
def carIssueFault (c cls t addr syn : Nat) (hw : Hw) : Hw :=
  carFault c { cls := cls, sev := 2, unit := 0x40 + c, instr := (hw.car c).pc, exp := frameOf (2 * t), act := frameOf (2 * t),
               addr := addr, syn := syn } hw

/-- The first command of an engine that loses a beat by cycle `t` meets its fault: it and the later ones perform nothing more
(R219; fuel: the commands). -/
def carLose (c t : Nat) : Nat → Hw → Hw
  | 0, hw => hw
  | k + 1, hw =>
    match (hw.car c).ops.foldl (fun (m : Option (CarOp × Nat × Nat)) o => match o.lost, m with
      | some l, none => some (o, l)
      | some l, some x => if l.1 < x.2.1 then some (o, l) else m
      | none, m => m) none with
    | none => hw
    | some (o, l) =>
      if t < l.1 then hw
      else
        carLose c t k (Hw.asOf l.1 (fun hw =>
          (carAbort c o { cls := cSCHED_SLOT_CONFLICT, sev := 2, unit := 0, exp := frameOf l.1, act := frameOf l.1, syn := l.2 }
            hw).modCar c (fun e => { e with lands := e.lands.filter (fun x => decide (2 * x.2.2.cyc ≤ l.1)) })) hw)

/-- Commands whose last write is acknowledged leave the list; a write that met a bad word faults (R197). -/
def carPurge (c t : Nat) (hw : Hw) : Hw :=
  let hw0 := settle t hw
  let hw1 := carLose c t (hw0.car c).ops.length hw0
  let gone := (hw1.car c).ops.filter (fun o => decide (2 * o.done ≤ t))
  let hw2 := hw1.modCar c (fun e => { e with
    ops := e.ops.filter (fun o => decide (t < 2 * o.done)), lands := e.lands.filter (fun l => decide (t < 2 * l.2.2.cyc)) })
  gone.foldl (fun h o =>
    match gotBad (gotOf h o.id) with
    | some a =>
      let key := wordOf (physOf h a)
      let r : FaultRec := { cls := badClass key, sev := 2, unit := 0, instr := o.pc, addr := a, syn := Config.eccSyndrome key % 2 ^ 32 }
      countBad key (carFault c r (dropGot o.id h))
    | none => dropGot o.id h) hw2

/-- The record at CAR_PC is read from scratch: an uncorrectable word of it stops the engine (R196). -/
def carFetch (c t : Nat) (hw : Hw) (k : Hw → Hw) : Hw :=
  let a := carScr c (hw.car c).pc
  match badByte hw a 32 with
  | some e =>
    let key := wordOf (physOf hw e)
    countBad key (carIssueFault c (badClass key) t e (Config.eccSyndrome key % 2 ^ 32) hw)
  | none => k (correct a 32 hw)

/-- Commands issue at the BCLK their DELTA gives. The engine issues `r` if it stands at CAR_PC; a record with another OP than the
row's leaves everything as it is, but an illegal one faults. -/
def withCar (c : Fin 64) (ops : List Nat) (r : CarRec) (hw : Hw) (k : Nat → Hw → Hw) : Hw :=
  let e := hw.car c.val
  if e.st ≠ .run ∨ e.ended ∨ hw.hold.held then hw
  else
    let t := e.last + crDelta r
    let hw1 := carPurge c.val (2 * t) (hw.at (2 * t))
    if meterStops hw1 (0x40 + c.val) (2 * t) then hw1
    else if carRecAt hw1 c.val e.pc ≠ r ∨ (hw1.car c.val).st ≠ .run then hw
    else carFetch c.val t hw1 (fun hw1 =>
      if carIllegal r then carIssueFault c.val cILLEGAL_INSTR t 0 0 hw1
      else if crOp r ∉ ops then hw
      else if carMisaligned r then carIssueFault c.val cACCESS_ALIGN t 0 0 hw1
      else if carRange hw1 r then carIssueFault c.val cACCESS_RANGE t 0 0 hw1
      else k t hw1)

/-- Scratch ranges of an engine that land after BCLK `t0` and that a command reads. -/
def scratchPending (e : Car) (r : CarRec) : List Land :=
  ((carScrReads r).flatMap (fun x => e.lands.filter (fun l => decide (l.1 < x.1 + x.2 ∧ x.1 < l.2.1)))).map (fun l => l.2.2)

/-- The scratch bytes that have not landed at T0 (R233): how many BCLK early, by the two copies of the checker (R276). -/
def scratchEarly (c t0 : Nat) (r : CarRec) (hw : Hw) : Nat × Hw :=
  (scratchPending (hw.car c) r).foldl (fun x l =>
    let v := checkLand (0x40 + c) 8 (hw.car c).pc (2 * t0) ⟨2 * l.a, 2 * l.b, l.badA, l.badB⟩ x.2
    (if v.1 then max x.1 (max 1 (l.cyc - t0)) else x.1, v.2)) (0, hw)

/-- The BCLK from which a command no longer uses resource `x`: after its duration, P after its span (R231, R232). -/
def useEnd (r : CarRec) (t0 e x : Nat) : Nat := if x = 1 then e else t0 + carD r

/-- The first resource whose use overlaps the use by an earlier command (R231). -/
def busyResource (e : Car) (r : CarRec) (t0 t1 : Nat) : Option Nat :=
  (carUses r).find? (fun x => decide (t0 < useEnd r t0 t1 x) && e.ops.any (fun o =>
    decide (x ∈ carUses o.cmd ∧ o.t0 < useEnd r t0 t1 x ∧ t0 < useEnd o.cmd o.t0 o.e x)))

/-- A command with a list whose entries no earlier command has still to write. -/
def listKnown (hw : Hw) (c : Nat) (r : CarRec) : Bool := isList r && (scratchPending (hw.car c) r).isEmpty

/-- The handoff check of a command: reads at its issue, writes at their landing (R273); of a list that is still to land, as its entries
come. -/
def carHandoff (hw : Hw) (c t e : Nat) (r : CarRec) (pc : Nat) : Option FaultRec × Hw :=
  let us := if listKnown hw c r ∧ !hw.handoff.isEmpty then (List.range (crN r)).map (listUnit hw c r) else []
  carRanges hw c t (e + carLat r) pc
    ((carBmReads r).map (fun x => (carBm hw c x.1, x.2)) ++ (carCsmReads r).map (fun x => (csmAt x.1, x.2)) ++
      (if listReads r then us else []))
    ((carBmWrites r).map (fun x => (carBm hw c x.1, x.2)) ++ (carCsmWrites r).map (fun x => (csmAt x.1, x.2)) ++
      (if listWrites r then us else []))

/-- The mode a command is charged for: 1 pass-through, 2 binary32, 3 dot (R236). -/
def carMode (r : CarRec) : Nat :=
  match crOp r with
  | 0x01 => 3
  | 0x07 => 1
  | 0x08 => 1
  | 0x09 => 1
  | 0x0C => 1
  | o => if o ≤ 0x0B then 2 else 0

/-- The first beat of others already placed in the span: it takes the command's own of that BCLK (R219). -/
def spanLost (hw : Hw) (c : Nat) (o : CarOp) : Option (Nat × Nat) :=
  ((hw.beats.filter (fun b => decide (b.port = 512 + c ∧ b.unit < 0x18) && !b.fin && carHolds c o (b.cyc / 2))).foldl
    (fun (m : Option Nat) b => some (match m with
      | none => b.cyc
      | some x => min x b.cyc)) none).map (fun t => (t, meetSyn (512 + c) 3))

/-- A beat of the command that opens its bank within 16 BCLK of another's opening, its own, or one already placed (R218, R219). The order
in which OPT and RERANGE take their arrays is the engine's own and breaks nothing by itself (log entry 10); the beats of a list that is
still to land are judged as they come (log entry 58). -/
def spanBad (hw : Hw) (c : Nat) (o : CarOp) : Bool :=
  if isList o.cmd && !listKnown hw c o.cmd then false
  else
    let own := carBeats hw c o o.t0 (o.e - o.t0)
    let old := hw.beats.filter (fun b => decide (b.port = 512 + c)) ++ (hw.car c).ops.flatMap (fun x => carBeats hw c x (o.t0 - 17) 17)
    let all := old ++ own
    own.any (fun b => (if crOp o.cmd = 0x05 ∨ crOp o.cmd = 0x06 then old else all).any (fun p => breaks hw all p b))

/-- The first entry of a list that must not be performed, where no earlier command has the list still to write (R235, R244). -/
def listBad (hw : Hw) (c : Nat) (r : CarRec) : Option Nat :=
  if listKnown hw c r then ((List.range (crN r)).map (carEntryBad hw c r)).find? (fun x => decide (x ≠ 0)) else none

/-- The lines a command has from its issue on: of a broadcast load only the lowest carrel that it names reads CSM (R247). -/
def lineBeats (hw : Hw) (c : Nat) (o : CarOp) : List Beat :=
  let bs := (carLines c o).map (carBeat hw c o)
  if crOp o.cmd = 0x11 ∧ (List.range c).any (fun k => nbit (ldbMask o.cmd) k) then bs.map (fun b => { b with port := 8192 + c, span := 1 })
  else bs

/-- Enter a command (R231, R232) and go on to the next record; or fault at issue. -/
def carEnter (c t : Nat) (r : CarRec) (hw0 : Hw) (k : Hw → Hw) : Hw :=
  let e := hw0.car c
  let t0 := t + 24
  let t1 := if 1 ∈ carUses r then spanEnd c t0 (carD r) else t0 + carD r
  let (early, hw) := scratchEarly c t0 r hw0
  let op : CarOp := ⟨hw.nid, e.pc, r, t0, t1, t1 + carLat r, false, isList r && !listKnown hw c r, none⟩
  if 0 < early then
    carFault c { cls := cSCHED_LATE, sev := 2, unit := 0x40 + c, instr := e.pc, exp := frameOf (2 * (t0 + early)), act := frameOf (2 * t0),
                 syn := 0x50000000 + min early 255 } hw
  else match busyResource e r t0 t1 with
    | some x => carIssueFault c cSCHED_SLOT_CONFLICT t 0 (0x32000000 + x) hw
    | none =>
      match listBad hw c r with
      | some cls => carIssueFault c cls t 0 0 hw
      | none =>
        if spanBad hw c op then carIssueFault c cSCHED_SLOT_CONFLICT t 0 (meetSyn (512 + c) 2) hw
        else match carHandoff hw c t t1 r e.pc with
          | (some f, hw) => carFault c f hw
          | (none, hw) =>
            let ch : Charge := ⟨frameOf (2 * t0), frameOf (2 * t1 - 1), carMode r, e.pc⟩
            k (placeBeats (lineBeats hw c op) (hw.newId.modCar c (fun e => { e with
              pc := (e.pc + 32) % 0x40000
              last := t
              ops := e.ops ++ [{ op with lost := spanLost hw c op }]
              lands := e.lands ++ (carScrWrites r).map (fun x => (x.1, x.1 + x.2, landAt (t1 + carLat r)))
              charges := if carMode r = 0 ∨ t1 = t0 then e.charges else e.charges ++ [ch] })))

/-- A command that reads and writes memory. -/
def carCmd (op : Nat) (c : Fin 64) (r : CarRec) (hw : Hw) : Hw :=
  withCar c [op] r hw (fun t hw => carEnter c.val t r hw id)

/-- An engine issues, is about to issue, or has stopped with a conflict at the issue of, an LDB in BCLK `t` with the B, S and N of `r`: that
record (R247). -/
def ldbOf (hw : Hw) (t : Nat) (r : CarRec) (k : Nat) : Option CarRec :=
  let e := hw.car k
  match e.ops.find? (fun o => decide (o.t0 = t + 24) && ldbSame o.cmd r) with
  | some o => some o.cmd
  | none =>
    let x := carRecAt hw k e.pc
    let stopped := decide (e.st = .stoppedFault ∧ e.lastClass = cSCHED_SLOT_CONFLICT)
    if ((decide (e.st = .run) && !e.ended && decide (e.last + crDelta x = t)) ||
        (stopped && decide (e.last = t ∨ e.last + crDelta x = t))) && ldbSame x r then some x
    else none

/-- Every carrel that takes part in a broadcast load names itself and only others that take part (R247). -/
def ldbAgree (hw : Hw) (t : Nat) (r : CarRec) : Bool :=
  let on := (List.range 64).map (ldbOf hw t r)
  (List.range 64).all (fun k => match on.getD k none with
    | none => true
    | some x => nbit (ldbMask x) k && (List.range 64).all (fun j => !nbit (ldbMask x) j || (on.getD j none).isSome))

/-- LDB: when the carrels do not agree every one that takes part faults; those that have issued perform nothing of it (R247). -/
def carLdb (c : Fin 64) (r : CarRec) (hw : Hw) : Hw :=
  withCar c [0x11] r hw (fun t hw =>
    let fault : FaultRec := { cls := cSCHED_SLOT_CONFLICT, sev := 2, unit := 0, exp := frameOf (2 * t), act := frameOf (2 * t), syn := 0x32000005 }
    let drop (h : Hw) (k : Nat) : Hw :=
      match (h.car k).ops.find? (fun o => decide (o.t0 = t + 24) && ldbSame o.cmd r) with
      | some o => carAbort k o fault h
      | none => h
    let h := if ldbAgree hw t r then carEnter c.val t r hw id else carIssueFault c.val cSCHED_SLOT_CONFLICT t 0 0x32000005 hw
    if (h.car c.val).ops.any (fun o => decide (o.t0 = t + 24) && ldbSame o.cmd r) then h else (List.range 64).foldl drop h)

/-- ATOM: its entries are checked as its list is (R235, R244). -/
def carAtomCmd (c : Fin 64) (r : CarRec) (hw : Hw) : Hw := carCmd 0x0B c r hw

/-- LDV (the row of LDV; LDB has its own). -/
def carLdv (c : Fin 64) (r : CarRec) (hw : Hw) : Hw := carCmd 0x10 c r hw

/-- SIG: a signal made at T0 (R237, R324). -/
def carSig (c : Fin 64) (r : CarRec) (hw : Hw) : Hw :=
  withCar c [0x18] r hw (fun t hw =>
    if !semOn hw (crP1 r) then carIssueFault c.val cACCESS_RANGE t 0 (crP1 r) hw
    else carEnter c.val t r hw (signalAll (crP1 r) (crP0 r) (0x40 + c.val) 0 0 (2 * (t + 24) + 8)))

/-- BAR: an arrival at the CCLK of T0 (R326). -/
def carBar (c : Fin 64) (r : CarRec) (hw : Hw) : Hw :=
  withCar c [0x1A] r hw (fun t hw =>
    let x : Arrival := ⟨crP1 r % 4096, 2 * (t + 24), 0x40 + c.val, (hw.car c.val).pc⟩
    carEnter c.val t r hw (fun hw => hw.modSync (fun s => { s with arrivals := s.arrivals ++ [x] })))

/-- SWT begins to wait; CAR_PC stays at its record (R237). -/
def carSwt (c : Fin 64) (r : CarRec) (hw : Hw) : Hw :=
  withCar c [0x19] r hw (fun t hw =>
    if !semOn hw (crP1 r) then carIssueFault c.val cACCESS_RANGE t 0 (crP1 r) hw
    else
      let w : SemWait := ⟨crP1 r, crP0 r, (hw.car c.val).pc, 2 * t⟩
      hw.modCar c.val (fun e => { e with st := .wait, wait := some w, last := t }))

/-- A waiting carrel takes its count at a BCLK edge; its anchor is the first frame boundary at least 2 BCLK later (R237, R325). -/
def swtTake (c : Fin 64) (hw : Hw) : Hw := blockTake (0x40 + c.val) 0 hw

/-- END: the engine issues nothing more (R238). -/
def carEnd (c : Fin 64) (r : CarRec) (hw : Hw) : Hw :=
  withCar c [0x1F] r hw (fun t hw => hw.modCar c.val (fun e => { e with ended := true, last := t }))

/-- The last issued command completes: STOPPING reads STOPPED_REQ, an engine past END reads IDLE (R229, R238). -/
def carComplete (c : Fin 64) (hw : Hw) : Hw :=
  let e := hw.car c.val
  if e.st ≠ .stopping ∧ ¬ e.ended then hw
  else
    let t := e.ops.foldl (fun m o => max m (2 * o.done)) 0
    let hw1 := carPurge c.val t (hw.at t)
    hw1.modCar c.val (fun e =>
      if e.st = .stopping then { e with st := .stoppedReq, ended := false }
      else if e.ended ∧ e.st = .run then { e with st := .idle, ended := false } else e)

/-- The carrel command whose span met another unit's beat loses that beat, when its BCLK comes: it performs nothing more and its engine
stops (R219). -/
def carBeatLost (c : Fin 64) (hw : Hw) : Hw :=
  match (hw.car c.val).ops.filterMap (fun o => o.lost.map (fun l => l.1)) with
  | [] => hw
  | x :: l =>
    let t := l.foldl min x
    carPurge c.val t (hw.at t)

/-! ### Starting and stopping (R229, R107, R108) -/

/-- A write of 1 to CAR_CTL.ARM. -/
def carArm (c : Fin 64) (u : Writer) (hw : Hw) : Hw :=
  let e := hw.car c.val
  if !awake hw then refuse u.unit hw
  else if e.st = .idle ∨ e.st = .stoppedFault ∨ e.st = .stoppedReq then
    let go := hw.reg64 (carReg c.val 0x10)
    if go ≤ hw.frame then
      (raise { cls := cSCHED_LATE, sev := 1, unit := 0x40 + c.val, q := .none, exp := go, act := hw.frame, syn := 0x70000000 } hw).modCar
        c.val (fun e => { e with lastClass := cSCHED_LATE })
    else hw.modCar c.val (fun e => { e with st := .armed })
  else refuse u.unit hw

/-- A write of 1 to CAR_CTL.STOP: commands issued complete, no further one issues; an armed engine returns to IDLE, a wait that has
taken nothing is abandoned (R108, R325). -/
def carStop (c : Fin 64) (hw : Hw) : Hw :=
  (syncTo hw.now hw).modCar c.val (fun e =>
    match e.st with
    | .armed => { e with st := .idle }
    | .run => if e.ended then e else { e with st := .stopping }
    | .wait => { e with st := .stopping, wait := none }
    | _ => e)

/-- The armed engine starts its list: its first DELTA counts from the boundary of CAR_GOFRAME (R229); away from an accepted phase
boundary it returns to IDLE (R258). -/
def carGo (c : Fin 64) (hw : Hw) : Hw :=
  let e := hw.car c.val
  let go := hw.reg64 (carReg c.val 0x10)
  if e.st ≠ .armed ∨ go ≠ hw.frame then hw
  else if !atBoundary hw then
    (refuseWhy (0x40 + c.val) 0x09 hw).modCar c.val (fun e => { e with st := .idle, lastClass := cADMISSION_REFUSED })
  else
    (hw.at (6 * go)).modCar c.val (fun e =>
      { e with st := .run, ended := false, wait := none, pc := (hw.reg (carReg c.val 8)).toNat % 0x40000, last := 3 * go })

/-! ### Refresh (R221–R226) -/

/-- The refresh calendar runs: from the start of training (R460), and not in SHELVED (R473). -/
def refreshOn (hw : Hw) : Bool := decide (2 ≤ cluState hw ∧ pwrState hw ≠ 2)

/-- A new refresh period latches COOL_NEXT (R223). -/
def refreshPeriod (hw : Hw) : Hw :=
  if hw.frame % 520 = 0 ∧ refreshOn hw then { hw with bmc := { hw.bmc with cool := nbit (hw.reg 0x900000).toNat 0 } } else hw

/-- Banks of a group. -/
def bankCount (hw : Hw) : Nat := if twoLayers hw then 16 else 8

/-- The banks that the present period's slots refresh: one, a pair in slow-exact mode; in cool mode none in an odd period (R25, R221,
R223). -/
def refreshBanks (hw : Hw) : List Nat :=
  let p := hw.frame / 520
  let nb := bankCount hw
  if hw.clk.slow then [2 * (p % (nb / 2)), 2 * (p % (nb / 2)) + 1]
  else if hw.bmc.cool ∧ p % 2 = 1 then []
  else [p % nb]

/-- Rows that a group's scrub pointer passes: visible, then spare (R225). -/
def scrubRows (hw : Hw) : Nat := groupSize hw / 2048 + 64 * (if twoLayers hw then 16 else 8)

/-- The group offset of a visible row: rows lie in consecutive banks (R191). -/
def rowBase (row : Nat) : Nat := row * 2048

/-- The storage keys of a scrubbed row: the place itself, not what a remap table makes of it. -/
def scrubKey (hw : Hw) (g p : Nat) : Nat :=
  let v := groupSize hw / 2048
  if p < v then interleaved g (rowBase p)
  else
    let nb := if twoLayers hw then 16 else 8
    0x80000000000 + ((g * 16 + (p - v) % nb) * 64 + (p - v) / nb) * 2048

/-- The bank of a scrubbed row: of a visible row its number's low bits, of a spare row as the spares are laid out. -/
def scrubBank (hw : Hw) (p : Nat) : Nat :=
  let v := groupSize hw / 2048
  if p < v then p % bankCount hw else (p - v) % bankCount hw

/-- The row that a slot scrubs: the pointer's, or the first after it in a bank that is not being refreshed (log entry 88). -/
def scrubRow (hw : Hw) (p : Nat) : Nat :=
  ((List.range 3).map (fun i => (p + i) % scrubRows hw)).find? (fun x => decide (scrubBank hw x ∉ refreshBanks hw)) |>.getD p

/-- The carrel-local address of a scrubbed row: of a spare row, that of the row it serves (R226); 0 where it serves none. -/
def scrubAddr (hw : Hw) (g p : Nat) : Nat :=
  let v := groupSize hw / 2048
  let k := scrubKey hw g p
  if p < v then carBm hw g (rowBase p)
  else (((hw.active.filter (fun e => decide (e.1 / 1024 = g) && nbit e.2.toNat 31)).map (fun e => rowBase (fieldOf e.2 16 15))).find?
    (fun o => decide (rowKey hw hw.active g o = k))).elim 0 (carBm hw g)

/-- One scrub step: correctable words of the row are rewritten and counted; an uncorrectable pair leaves the row unchanged and is
recorded (R225, R226). -/
def scrubStep (g : Nat) (hw : Hw) : Hw :=
  let p := scrubRow hw (tabGet (fun _ => 0) hw.bmc.scrub g)
  let k := scrubKey hw g p
  let inRow (w : Nat) : Bool := decide (k ≤ w ∧ w < k + 2048)
  let hw1 :=
    if hw.bad.any inRow then
      countBad k (raise { cls := cBM_UNCORRECTABLE, sev := 0, unit := 0x40 + g, q := .none, addr := scrubAddr hw g p } hw)
    else (hw.soft.filter inRow).foldl (countCorr .none) { hw with soft := hw.soft.filter (fun w => !inRow w) }
  { hw1 with bmc := { hw1.bmc with scrub := tabPut (fun _ => 0) g ((p + 1) % scrubRows hw) hw1.bmc.scrub } }

/-- Copy one row from its active to its shadow place, errors included (R249, R250). -/
def migrateRow (x : Nat) (hw : Hw) : Hw :=
  let g := x / 2 ^ 15
  let o := rowBase (x % 2 ^ 15)
  let src := rowKey hw hw.active g o
  let dst := rowKey hw hw.shadow g o
  let bytes := (List.range 2048).map (fun i => tabGet memReset hw.mem (src + i))
  let mem := (bytes.mapIdx (fun i b => (i, b))).foldl (fun m p => tabPut memReset (dst + p.1) p.2 m) hw.mem
  let inRow (k w : Nat) : Bool := decide (k ≤ w ∧ w < k + 2048)
  let move (l : List Nat) : List Nat :=
    l.filter (fun w => !inRow dst w) ++ (l.filter (inRow src)).map (fun w => w - src + dst)
  { hw with mem := mem, bad := move hw.bad, soft := move hw.soft }

/-- One migration step of a group: a scheduled row, else a dirty one, in a bank that is not being refreshed (R225, R249, R250). -/
def migrationStep (g : Nat) (hw : Hw) : Hw :=
  let m := hw.bmc
  let here (x : Nat) : Bool := decide (x / 2 ^ 15 = g ∧ x % bankCount hw ∉ refreshBanks hw)
  if !m.busy then hw
  else match m.todo.find? here with
    | some x =>
      { migrateRow x hw with bmc := { m with todo := m.todo.filter (fun y => decide (y ≠ x)), copied := setIns x m.copied } }
    | none => match m.dirty.find? here with
      | some x => { migrateRow x hw with bmc := { m with dirty := m.dirty.filter (fun y => decide (y ≠ x)) } }
      | none => hw

/-- The refresh slot of a group: a refresh, a scrub step and a migration step (R221, R225). Charge itself is not modelled. -/
def refreshSlot (g : Fin 64) (hw : Hw) : Hw :=
  if hw.frame % 520 = 130 * (g.val % 4) ∧ refreshOn hw then migrationStep g.val (scrubStep g.val (settle hw.now hw)) else hw

/-! ### The remap rebuild (R248–R252) -/

/-- Valid entries of a table in group `g`, as (entry, row, spare). -/
def remapEntries (t : List (Nat × W32)) (g : Nat) : List (Nat × Nat × Nat) :=
  (t.filter (fun e => decide (e.1 / 1024 = g) && nbit e.2.toNat 31)).map (fun e => (e.1 % 1024, fieldOf e.2 16 15, fieldOf e.2 0 6))

/-- The bank of a row: its low bits. -/
def rowBank (hw : Hw) (row : Nat) : Nat := row % bankCount hw

/-- A shadow table that START refuses (R248). Every row's spare is one of its own bank by the entry's form, except a row beyond the
visible capacity, which is in no bank. -/
def remapBad (hw : Hw) (g : Nat) : Bool :=
  let es := remapEntries hw.shadow g
  es.any (fun x => es.any (fun y => decide (x.1 ≠ y.1 ∧ (x.2.1 = y.2.1 ∨ (rowBank hw x.2.1 = rowBank hw y.2.1 ∧ x.2.2 = y.2.2))))) ||
  es.any (fun x => decide (groupSize hw ≤ rowBase x.2.1))

/-- Rows of a group whose place differs between the tables (R248). -/
def remapMoves (hw : Hw) (g : Nat) : List Nat :=
  let rows := ((remapEntries hw.active g).map (fun x => x.2.1) ++ (remapEntries hw.shadow g).map (fun x => x.2.1)).eraseDups
  (rows.filter (fun r => decide (spareOf hw.active g r ≠ spareOf hw.shadow g r))).map (fun r => g * 2 ^ 15 + r)

/-- A write of 1 to BMC_REMAP_CTL.START (R248). -/
def remapStart (u : Writer) (hw : Hw) : Hw :=
  let no (g : Nat) : Hw :=
    raise { cls := cADMISSION_REFUSED, sev := 1, unit := u.unit, syn := g * 0x100 } hw
  if hw.bmc.busy ∨ !awake hw then no 0
  else match (List.range 64).find? (remapBad hw) with
    | some g => no g
    | none =>
      { hw with bmc := { hw.bmc with busy := true, todo := (List.range 64).flatMap (remapMoves hw), copied := [], dirty := [],
                                     copyEnd := none } }

/-- A write of 1 to BMC_REMAP_CTL.ABORT, before the swap (R252). -/
def remapAbort (hw : Hw) : Hw :=
  if hw.bmc.busy && hw.bmc.copyEnd.isNone then
    { hw with shadow := hw.active, bmc := { hw.bmc with busy := false, todo := [], copied := [], dirty := [] } }
  else hw

/-- At a frame boundary with nothing scheduled or dirty, once the beats of the frame before have come, every shadow table becomes active
(R251). -/
def remapSwap (hw : Hw) : Hw :=
  let hw1 := settleBefore hw.now hw
  let m := hw1.bmc
  if decide (hw.now = 6 * hw.frame) && m.busy && m.copyEnd.isNone && m.todo.isEmpty && m.dirty.isEmpty then
    ({ hw1 with
       active := hw1.shadow
       bmc := { m with swapped := true, copied := [], copyEnd := some (hw.now + 8192) } }).setReg64 0x900018 hw.frame
  else hw

/-- The copy back into the shadow tables ends (R251). -/
def remapCopyDone (hw : Hw) : Hw :=
  if hw.bmc.copyEnd.isSome then { hw with shadow := hw.active, bmc := { hw.bmc with busy := false, copyEnd := none } } else hw

end Sys2Proof.Machine
end

