-- ==== Sys2Proof/Machine/Transfer.lean ====
section
/-!
DEFINITION. Transfer engines (spec/09): enqueuing (R297, R298), start and its checks (R294–R302), beats (R303, R304), paced
descriptors and the tracker (R305–R308), completion (R309–R311), stop and resume (R312).
-/
namespace Sys2Proof.Machine

/-! ### Channels -/

/-! ### Fields of a descriptor (spec/09, "Transfer descriptor") -/

def dW (d : Desc) (o : Nat) : Nat := leAt d.bytes o 4
def dOp (d : Desc) : Nat := nbits (dW d 0) 0 8
def dWait (d : Desc) : Bool := nbit (dW d 0) 8
def dRef (d : Desc) : Nat := nbits (dW d 0) 9 2
def dLsemEn (d : Desc) : Bool := nbit (dW d 0) 11
def dDsemEn (d : Desc) : Bool := nbit (dW d 0) 12
def dFar (d : Desc) : Bool := nbit (dW d 0) 13
def dFc (d : Desc) : Nat := nbits (dW d 0) 14 5
def dDelta (d : Desc) : Nat := nbits (dW d 4) 0 16
def dWcount (d : Desc) : Nat := nbits (dW d 4) 16 12
def dSrc (d : Desc) : Nat := leAt d.bytes 8 8 % 2 ^ 59
def dDst (d : Desc) : Nat := leAt d.bytes 0x10 8 % 2 ^ 59
def dRowLen (d : Desc) : Nat := nbits (dW d 0x18) 0 24
def dRows (d : Desc) : Nat := nbits (dW d 0x1C) 0 16 + 1
def dSpitch (d : Desc) : Nat := dW d 0x20
def dDpitch (d : Desc) : Nat := dW d 0x24
def dWsem (d : Desc) : Nat := dW d 0x28
def dDsem (d : Desc) : Nat := dW d 0x2C
def dLsem (d : Desc) : Nat := dW d 0x30
def dTag (d : Desc) : Nat := dW d 0x34
def dFill (d : Desc) : Bool := decide (dOp d = 1)
/-- B, the beats of a descriptor. -/
def dBeats (d : Desc) : Nat := dRows d * dRowLen d / 128
def dMarker (d : Desc) : Bool := decide (dRowLen d = 0)

/-- An address of this cluster: bits [58:41] hold its ID. -/
def isLocal (hw : Hw) (a : Nat) : Bool := decide (a / 2 ^ 41 = hw.cid)
def loc (a : Nat) : Nat := a % 2 ^ 41

/-- A failing address as a record carries it: one of this cluster by its low 41 bits, one of another with the cluster's ID (R296, R478). -/
def failAddr (hw : Hw) (a : Nat) : Nat := if isLocal hw a then loc a else a % 2 ^ 59

/-- An end that is an address of another cluster. -/
def srcAway (hw : Hw) (d : Desc) : Bool := !dFill d && !isLocal hw (dSrc d)
def dstAway (hw : Hw) (d : Desc) : Bool := !isLocal hw (dDst d)

/-- The same where data moves. -/
def dSrcRemote (hw : Hw) (d : Desc) : Bool := !dMarker d && srcAway hw d
def dDstRemote (hw : Hw) (d : Desc) : Bool := !dMarker d && dstAway hw d

/-- The address of line `j` of one end. -/
def lineAddr (base pitch rowLen j : Nat) : Nat := base + j / (rowLen / 128) * pitch + j % (rowLen / 128) * 128
def srcLine (d : Desc) (j : Nat) : Nat := loc (lineAddr (dSrc d) (dSpitch d) (dRowLen d) j)
def dstLine (d : Desc) (j : Nat) : Nat := loc (lineAddr (dDst d) (dDpitch d) (dRowLen d) j)

/-- Local lines of an end; none for a FILL source, a remote end or a marker. -/
def srcLines (hw : Hw) (d : Desc) : List Nat :=
  if dMarker d ∨ dFill d ∨ dSrcRemote hw d then [] else (List.range (dBeats d)).map (srcLine d)
def dstLines (hw : Hw) (d : Desc) : List Nat :=
  if dMarker d ∨ dDstRemote hw d then [] else (List.range (dBeats d)).map (dstLine d)

/-- The memory a line lies in: 0 LM, 1 CSM, 2 BM, 3 carrel scratch; none where R189 denies it to transfer engines. -/
def teKind (hw : Hw) (a : Nat) : Option Nat :=
  match regionOf hw a with
  | .lm _ => some 0
  | .csm => some 1
  | .bm _ o => if o < reservedFrom hw then some 2 else none
  | .scratch _ => some 3
  | _ => none

/-- An address of LM, CSM or BM. -/
def inMemory (hw : Hw) (a : Nat) : Bool :=
  match regionOf hw a with
  | .lm _ => true
  | .csm => true
  | .bm _ _ => true
  | _ => false

/-- Every address it touches lies in LM, CSM or BM of this cluster, or it moves nothing (R294). -/
def dExact (hw : Hw) (d : Desc) : Bool :=
  dMarker d || (!dSrcRemote hw d && !dDstRemote hw d && (srcLines hw d ++ dstLines hw d).all (inMemory hw))

/-- Why a descriptor is refused at its start: status and failing address (R295, R319). -/
def descCheck (hw : Hw) (d : Desc) (prevPaced : Bool) : Option (Nat × Nat) :=
  let reserved := decide (dOp d > 1 ∨ dW d 0 ≥ 2 ^ 19 ∨ dW d 4 ≥ 2 ^ 28 ∨ dW d 0x18 ≥ 2 ^ 24 ∨ dW d 0x1C ≥ 2 ^ 16 ∨ leAt d.bytes 0x38 8 ≠ 0 ∨
    (¬ dFill d ∧ leAt d.bytes 8 8 ≥ 2 ^ 59) ∨ leAt d.bytes 0x10 8 ≥ 2 ^ 59)
  let refs := (dWait d && (refSem (dWsem d)).isNone) || (dDsemEn d && (refSem (dDsem d)).isNone) ||
    (dLsemEn d && (refSem (dLsem d)).isNone)
  let ill := reserved || refs || decide (dRef d = 3) || (dWait d && decide (dWcount d = 0)) ||
    (dMarker d && decide (dRows d ≠ 1)) || (srcAway hw d && dstAway hw d) || (dDsemEn d && !dstAway hw d) ||
    (dFar d && !(srcAway hw d || dstAway hw d)) || (decide (dRef d = 1) && d.viaReg) ||
    (dExact hw d && decide (dRef d = 0) && prevPaced)
  let mis : Option Nat :=
    if ¬ dFill d ∧ dSrc d % 128 ≠ 0 then some (failAddr hw (dSrc d))
    else if dDst d % 128 ≠ 0 then some (failAddr hw (dDst d))
    else if dRowLen d % 128 ≠ 0 ∨ dDpitch d % 128 ≠ 0 ∨ (¬ dFill d ∧ dSpitch d % 128 ≠ 0) then some 0
    else none
  let mixed (l : List Nat) : Option Nat := match l with
    | [] => none
    | a :: _ => l.find? (fun b => decide (teKind hw b ≠ teKind hw a))
  if ill then some (cILLEGAL_INSTR, 0)
  else if mis.isSome then some (cACCESS_ALIGN, mis.getD 0)
  else match (srcLines hw d ++ dstLines hw d).find? (fun a => (teKind hw a).isNone) with
    | some a => some (cACCESS_RANGE, a)
    | none =>
      if dExact hw d then
        match mixed (srcLines hw d), mixed (dstLines hw d) with
        | some a, _ => some (cACCESS_RANGE, a)
        | none, some a => some (cACCESS_RANGE, a)
        | none, none => none
      else none

/-! ### States and ends -/

/-- A descriptor with WAIT that reaches the head begins to wait (R299, R300); one whose take is refused at its start does not. -/
def toHead (hw : Hw) (c : TeCh) : TeCh :=
  match c.held with
  | d :: _ =>
    if dWait d ∧ c.wait.isNone ∧ c.anchor.isNone ∧ dWcount d ≠ 0 ∧ (refSem (dWsem d)).isSome ∧ semOn hw (dWsem d) ∧
        (c.st = .idle ∨ c.st = .run) then
      let w : SemWait := ⟨dWsem d, dWcount d, d.addr, max d.landed c.headAt⟩
      teSettle { c with wait := some w }
    else teSettle c
  | [] => teSettle c

/-- The TEN_IRQ register of a channel's bit. -/
def teIrq (k : Nat) : Nat := 0x601000 + k / 32 * 4

/-- A decrement of COUNT, with the interrupt bit that it sets as it reaches 0; it stays known for the writes of its cycle (R311). -/
def decrement (k : Nat) (hw : Hw) : Hw :=
  let n := hw.fld (teReg k 0x14) 0 16
  let was := nbit (hw.reg (teIrq k)).toNat (k % 32)
  let l := if hw.tenDone.1 = hw.now then hw.tenDone.2 else []
  let hw1 := { hw with tenDone := (hw.now, l ++ [(k, was, decide (n = 1))]) }
  if n = 0 then hw1
  else
    let hw2 := hw1.setFld (teReg k 0x14) 0 16 (n - 1)
    if n = 1 then hw2.orReg (teIrq k) (2 ^ (k % 32)) else hw2

/-- A descriptor completes or fails: DONE, and COUNT with its interrupt bit (R311). -/
def countDone (k : Nat) (hw : Hw) : Hw := decrement k (hw.setFld (teReg k 0x18) 0 16 (hw.fld (teReg k 0x18) 0 16 + 1))

/-- A write of COUNT comes before the decrements of its cycle, which apply to the value written (R311). -/
def countWrite (k : Nat) (v : W32) (hw : Hw) : Hw :=
  let mine := if hw.tenDone.1 = hw.now then hw.tenDone.2.filter (fun e => decide (e.1 = k)) else []
  let set (h : Hw) : Hw := h.setReg (teReg k 0x14) (v &&& 0xFFFF#32)
  match mine with
  | [] => set hw
  | e :: _ =>
    let h := { hw with tenDone := (hw.now, hw.tenDone.2.filter (fun x => decide (x.1 ≠ k))) }
    mine.foldl (fun h _ => decrement k h) ((set h).setFld (teIrq k) (k % 32) 1 (b2n e.2.1))

/-- The bits of a TEN_IRQ register that completions set in the present cycle: a write that clears them leaves them set (R311). -/
def irqNow (off : Nat) (hw : Hw) : Nat :=
  if hw.tenDone.1 ≠ hw.now then 0
  else hw.tenDone.2.foldl (fun m e => if e.2.2 && decide (teIrq e.1 = off) then m ||| 2 ^ (e.1 % 32) else m) 0

/-- A nonzero status: a record, STOPPED_FAULT, ERR and ERRTAG (R296). -/
def descStatus (k : Nat) (d : Desc) (status addr syn exp act : Nat) (hw : Hw) : Hw :=
  let r : FaultRec := { cls := status, sev := 2, unit := teUnit k, ch := k % 4, instr := d.addr, exp := exp, act := act, addr := addr,
                        syn := syn }
  let hw1 := ((raise r hw).setFld (teReg k 0x1C) 0 8 status).setReg (teReg k 0x20) (BitVec.ofNat 32 (dTag d))
  (hw1.setFld (teReg k 4) 16 8 status).modTe k (fun c => { c with st := .stoppedFault, wait := none })

/-- A descriptor ends with a nonzero status, and counts (R296, R311). -/
def descFail (k : Nat) (d : Desc) (status addr syn exp act : Nat) (hw : Hw) : Hw :=
  countDone k (descStatus k d status addr syn exp act hw)

/-! ### Enqueuing (R297, R298) -/

/-- Put an accepted record into channel `k`, or tell the result code: its copy corrects what it reads (R195). One that starts from the
phase start is moved by the hold that the phase has had; while that hold is pending, its end moves what the channel holds (R280, R313). -/
def enqueue (k : Nat) (ok : Bool) (addr landed : Nat) (viaReg : Bool) (hw : Hw) : Hw × Nat :=
  let c := hw.te k
  if 8 ≤ c.held.length + (c.flights.filter (fun f => decide (f.phase = 0))).length then (hw, 1)
  else if c.st = .stopping ∨ c.st = .stoppedFault ∨ c.st = .stoppedReq then (hw, 2)
  else if !ok then (hw, 3)
  else
    let hw1 := settle hw.now hw
    let d0 : Desc := ⟨hw1.bytes addr 64, addr, landed, viaReg, 0, badByte hw1 addr 64⟩
    let d : Desc := if dRef d0 = 2 ∧ !hw.hold.held then { d0 with shift := 6 * hw.hold.delta } else d0
    let hw2 := correct addr 64 (match d0.bad with
      | some e => countBad (wordOf (physOf hw1 e)) hw1
      | none => hw1)
    (hw2.modTe k (fun c =>
      toHead hw2 { c with held := c.held ++ [d], headAt := if c.held.isEmpty then landed else c.headAt }), 0)

/-- TXQ: a record in the core's own LM or in CSM, 64-byte aligned; its copy lands at c + L_mem + 2. -/
def coreTxq (n : Fin 8) (w : W32) (hw : Hw) : Hw :=
  withIssue n .txq w hw (fun cyc pc hw =>
    withReads n pc cyc [(0, rs1Of w)] hw (fun hw =>
      withWrite n pc cyc (some (0, rdOf w)) 2 hw (fun hw =>
        let a := ((hw.core n).gr (rs1Of w)).toNat
        let ok := decide (a % 64 = 0 ∧ a < 2 ^ 41) && (match regionOf hw a with
          | .lm m => decide (m = n.val)
          | .csm => true
          | _ => false)
        let r := enqueue (imm12Of w % 64) ok a (cyc + latMem hw a + 2) false (advance n w cyc hw)
        r.1.modCore n (fun c => c.setG (rdOf w) (BitVec.ofNat 64 r.2)))))

/-- A write of TEN_CH_ENQ.GO: a record in CSM; its copy lands within 256 cycles, when exactly is free (log entry 13). -/
def tenEnq (k : Fin 64) (u : Writer) (hw : Hw) : Hw :=
  if !awake hw then refuse u.unit hw
  else
  let a := hw.reg64 (teReg k.val 8)
  let ok := decide (a % 64 = 0) && decide (regionOf hw a = .csm)
  let r := enqueue k.val ok a (hw.now + Config.freeNat hw.free % 257) true hw.draw
  r.1.setFld (teReg k.val 0x10) 8 8 r.2

/-! ### Starting (R299–R303) -/

/-- The channels of channel `k`'s engine. -/
def engineOf (k : Nat) : List Nat := (List.range 4).map (fun i => k / 4 * 4 + i)

/-- A start on the engine that is known lies 0 to 31 cycles before `s`. -/
def startNear (hw : Hw) (k s : Nat) : Bool :=
  (engineOf k).any (fun j => (((hw.te j).last.map (fun x => x.1)).toList ++ (hw.te j).flights.map (fun f => f.start)).any (fun t =>
    decide (t ≤ s ∧ s ≤ t + 31)))

/-- The last start on the engine. -/
def lastStart (hw : Hw) (k : Nat) : Option Nat :=
  (engineOf k).foldl (fun m j => match (hw.te j).last, m with
    | none, m => m
    | some (s, _), none => some s
    | some (s, _), some t => some (max s t)) none

/-- Flights of the engine that are in flight at `t`. -/
def engineFlights (hw : Hw) (k t : Nat) : List Flight :=
  (engineOf k).flatMap (fun j => (hw.te j).flights.filter (fun f => decide (f.phase = 0) && (f.paced || decide (t < f.done))))

/-- The reference of a start (R299, R300): the anchor of its take, or what REF names. A PREV with no descriptor before it has no
stated reference: a free cycle not before its own landing (log entry 14). -/
def startRef (hw : Hw) (c : TeCh) (d : Desc) : Nat :=
  match c.anchor with
  | some a => 6 * a
  | none =>
    if dRef d = 1 then d.landed
    else if dRef d = 2 then 6 * hw.reg64 TIM_PHASE_START
    else match c.last with
      | some (s, _) => s
      | none => d.landed + Config.freeNat hw.free

def lenOf (kind : Nat) : Nat := if kind = 0 then 4 else if kind = 1 then 22 else 96

/-- L of an end of an exact descriptor; 0 for FILL's source. -/
def lSrc (hw : Hw) (d : Desc) : Nat := if dFill d then 0 else lenOf ((teKind hw (loc (dSrc d))).getD 0)
def lDst (hw : Hw) (d : Desc) : Nat := lenOf ((teKind hw (loc (dDst d))).getD 0)

/-- The pattern a FILL writes into a line. -/
def fillLine128 (d : Desc) : List Byte := (List.range 16).flatMap (fun _ => bytesAt d.bytes 8 8)

/-- The port cycle of line `j` of an end: two lines of one 256-byte unit of BM share the beat of the first (log entry 89). -/
def lineBeat (hw : Hw) (line : Nat → Nat) (j : Nat) : Nat :=
  match regionOf hw (line j) with
  | .bm _ _ => if j ≠ 0 ∧ line j % 256 = 128 ∧ line (j - 1) + 128 = line j then j - 1 else j
  | _ => j

/-- The beats of an exact descriptor that starts at `s` (R303). -/
def exactBeats (hw : Hw) (k id s : Nat) (d : Desc) : List Beat :=
  let u := teUnit k
  let rd := (srcLines hw d).mapIdx (fun j a => readBeat hw u id d.addr (s + 40) (lineBeat hw (srcLine d) j) a 128)
  let w (j a : Nat) : Beat :=
    let b := writeBeat hw u id d.addr (s + 40 + lSrc hw d) (lineBeat hw (dstLine d) j) a none (atAddr a (fillLine128 d))
    if dFill d then b else { b with data := .got (srcLine d j) }
  rd ++ (dstLines hw d).mapIdx w

/-- Overlap of two intervals. -/
def overlaps (a n b m : Nat) : Bool := decide (a < b + m ∧ b < a + n)

/-- Why an exact descriptor cannot start at `s` (R301). One whose record has landed and whose `s` lies before a start that the engine has
made has no case of the table: the model gives it reason 0x01, a DESIGN CHOICE (log entry 110). -/
def startConflict (hw : Hw) (k s : Nat) (d : Desc) : Option Nat :=
  let fs := (engineFlights hw k s).filter (fun f => !f.paced)
  let n := dBeats d
  let before := (lastStart hw k).any (fun t => decide (s < t))
  let rdOf (f : Flight) : Bool := !dFill f.d && !dFill d && overlaps (f.start + 40) (dBeats f.d) (s + 40) n
  let wrOf (f : Flight) : Bool := overlaps (f.start + 40 + lSrc hw f.d) (dBeats f.d) (s + 40 + lSrc hw d) n
  if startNear hw k s then some 1
  else if 8 ≤ (engineFlights hw k s).length then some 2
  else if !dMarker d && fs.any (fun f => !dMarker f.d && (rdOf f || wrOf f)) then some 3
  else if s < d.landed then some 4
  else if before then some 1
  else none

/-- Take the head away: it has started at `s`, or failed. -/
def popHead (k : Nat) (started : Option (Nat × Bool)) (at_ : Nat) (hw : Hw) : Hw :=
  hw.modTe k (fun c => { c with held := c.held.drop 1, anchor := none, wait := none, headAt := at_,
                                last := match started with
                                  | some x => some x
                                  | none => c.last })

/-- The handoff check of the reads of an exact descriptor, each in the frame of its beat (R273). -/
def earlyRead (k s : Nat) (d : Desc) : Nat → List Nat → Hw → Option FaultRec × Hw
  | _, [], hw => (none, hw)
  | j, a :: l, hw =>
    let r := handoffRead (teUnit k) (frameOf (s + 40 + j)) a d.addr hw
    match r.1 with
    | some f => (some f, r.2)
    | none => earlyRead k s d (j + 1) l r.2

/-- That of its writes, each at its landing. -/
def lateWrite (hw : Hw) (k s : Nat) (d : Desc) : Option FaultRec :=
  if hw.handoff.isEmpty then none
  else ((dstLines hw d).mapIdx (fun j a => (j, a))).findSome? (fun p =>
    handoffFault hw (teUnit k) (frameOf (s + 40 + lSrc hw d + p.1 + lDst hw d)) p.2 d.addr true)

/-- An exact descriptor starts at `s`: an early read faults at its start, a late write is recorded beside it. -/
def startExact (k s : Nat) (d : Desc) (hw : Hw) : Hw :=
  let hw1 := popHead k (some (s, false)) s hw
  let fail (cls addr syn : Nat) (hw : Hw) : Hw := descFail k d cls addr syn (frameOf s) (frameOf s) hw
  match startConflict hw k s d with
  | some r => fail cSCHED_SLOT_CONFLICT 0 (0x37000000 + k * 256 + r) (popHead k none s hw)
  | none =>
    let new := exactBeats hw k hw.nid s d
    match descBad hw new with
    | some (syn, a) => fail cSCHED_SLOT_CONFLICT a syn hw1
    | none =>
      match earlyRead k s d 0 (if hw.handoff.isEmpty ∧ hw.chkErr.isEmpty then [] else srcLines hw d) hw1 with
      | (some r, hw2) => descFail k d r.cls r.addr r.syn r.exp r.act hw2
      | (none, hw2) =>
        let done := if dMarker d then s else s + 39 + lSrc hw d + lDst hw d + dBeats d
        let f : Flight := ⟨hw.nid, d, s, false, done, 0, 0, [], 0, false, 0, 0, 0, 0, 0⟩
        let hw3 := (placeBeats new hw2.newId).modTe k (fun c => { c with flights := c.flights ++ [f] })
        let hw4 := hw3.modTe k (toHead hw3)
        match lateWrite hw k s d with
        | some r => (raise { r with ch := k % 4 } hw4).modTe k (fun c => { c with st := .stoppedFault, wait := none })
        | none => hw4

/-- A paced descriptor starts at `s` (R300). -/
def startPaced (k s : Nat) (d : Desc) (hw : Hw) : Hw :=
  let f : Flight := ⟨hw.nid, d, s, true, 0, 0, 0, [], s + 40, false, 0, 0, 0, 0, 0⟩
  let hw1 := (popHead k (some (s, true)) s hw.newId).modTe k (fun c => { c with flights := c.flights ++ [f] })
  hw1.modTe k (toHead hw1)

/-- The descriptor at the head of channel `k` starts and is checked (R295, R299–R302). A channel that waits, a hold (R313) and a
stopped channel start nothing; nor does a paced one that its engine has no room for (R302). A record that could not be read ends as what
memory's code says of it (R195, R296). -/
def descStart (k : Fin 64) (hw : Hw) : Hw :=
  let c := hw.te k.val
  match c.held with
  | [] => hw
  | d :: _ =>
    if hw.hold.held ∨ c.wait.isSome ∨ (c.st ≠ .run ∧ c.st ≠ .idle) then hw
    else
      let prevPaced := match c.last with
        | some (_, p) => p
        | none => false
      let s0 := startRef hw c d + dDelta d + (if dExact hw d then d.shift else 0)
      let hw0 := if c.anchor.isNone ∧ dRef d = 0 ∧ c.last.isNone then hw.draw else hw
      let waitBad := dWait d && c.anchor.isNone
      let s1 := max (max s0 d.landed) (max c.headAt (match lastStart hw k.val with
        | some t => t + 32
        | none => 0))
      let s := if dExact hw d then s0 else max s1 hw.now
      let refuse (st a syn : Nat) : Hw := descFail k.val d st a syn (frameOf s) (frameOf s) (popHead k.val none s (hw0.at s))
      let key (a : Nat) : Nat := wordOf (physOf hw a)
      if !dExact hw d ∧ 4 ≤ ((engineFlights hw k.val hw.now).filter (fun f => f.paced)).length then hw
      else match d.bad, descCheck hw d prevPaced with
        | some a, _ => refuse (badClass (key a)) a (Config.eccSyndrome (key a) % 2 ^ 32)
        | none, some (st, a) => refuse st a 0
        | none, none =>
          if waitBad then refuse cACCESS_RANGE 0 (dWsem d)
          else if dExact hw d then startExact k.val s d (hw0.at s)
          else startPaced k.val s d (hw0.at s)

/-- The channel takes WCOUNT from WSEM; its anchor is the first frame boundary at least 2 cycles later (R299). -/
def channelTake (k : Fin 64) (hw : Hw) : Hw := blockTake (teUnit k.val) (k.val % 4) hw

/-! ### Paced descriptors (R305–R308) -/

/-- The transactions of a remote end: first line and number of lines; at most 4 KiB of a row, within a 4 KiB-aligned block. -/
def rowPieces (a : Nat) (j left : Nat) : Nat → List (Nat × Nat)
  | 0 => []
  | k + 1 =>
    if left = 0 then []
    else
      let n := min left (32 - a % 4096 / 128)
      (j, n) :: rowPieces (a + 128 * n) (j + n) (left - n) k

def txnPieces (base pitch rowLen rows : Nat) : List (Nat × Nat) :=
  let n := rowLen / 128
  (List.range rows).flatMap (fun r => rowPieces (base + r * pitch) (r * n) n n)

/-- The pieces of a descriptor's remote end. -/
def dPieces (hw : Hw) (d : Desc) : List (Nat × Nat) :=
  if dDstRemote hw d then txnPieces (dDst d) (dDpitch d) (dRowLen d) (dRows d)
  else if dSrcRemote hw d then txnPieces (dSrc d) (dSpitch d) (dRowLen d) (dRows d)
  else []

def modFlight (k id : Nat) (f : Flight → Flight) (hw : Hw) : Hw :=
  hw.modTe k (fun c => { c with flights := c.flights.map (fun x => if x.id = id then f x else x) })

/-- Tracker entries that transfer engines hold, and those of one engine (R305). -/
def trkUsed (hw : Hw) : Nat := (hw.net.txns.filter (fun t => match t.owner with
  | .desc _ _ _ => true
  | _ => false)).length
def trkOf (hw : Hw) (k : Nat) : Nat := (hw.net.txns.filter (fun t => match t.owner with
  | .desc te _ _ => decide (te = k / 4)
  | _ => false)).length

/-- A tracker entry for channel `k`'s engine, if one is free to it. -/
def trkFree (hw : Hw) (k : Nat) : Option Nat := if 256 ≤ trkOf hw k then none else freeTxid 192 2048 hw

/-- TEN_TRK.MAX follows the occupancy. -/
def trkMark (hw : Hw) : Hw := hw.setFld 0x601008 16 12 (max (hw.fld 0x601008 16 12) (trkUsed hw))

/-- A piece is ready to be handed over: its data has been read (R306). -/
def pieceReady (hw : Hw) (f : Flight) (p : Nat × Nat) : Bool :=
  !dDstRemote hw f.d || dFill f.d || decide (128 * p.2 ≤ f.buf.length)

/-- The next piece of a flight that has not been handed over, if there is one. -/
def nextPiece (hw : Hw) (f : Flight) : Option (Nat × Nat) :=
  if f.status ≠ 0 ∨ f.phase ≠ 0 ∨ !f.paced then none
  else
    let j := if dDstRemote hw f.d then f.wr else f.rd
    (dPieces hw f.d).find? (fun p => decide (p.1 = j))

/-- Entries of the engines' share that are free. -/
def trkLeft (hw : Hw) : Nat := 1856 - trkUsed hw

/-- Engines of lower unit numbers with a transaction ready: they are served first (R306). -/
def waitingBefore (hw : Hw) (k : Nat) : List Nat :=
  (List.range (k / 4)).filter (fun e => decide (trkOf hw (4 * e) < 256) && (engineOf (4 * e)).any (fun j =>
    (hw.te j).flights.any (fun f => match nextPiece hw f with
      | some p => pieceReady hw f p
      | none => false)))

/-- The port's outbound credit allows a transaction, or the port will refuse it (R306). -/
def txnCredit (hw : Hw) (t : Txn) : Bool :=
  if t.far then decide ((hw.chan t.fc).waitq.length < hw.fld (farReg t.fc 8) 16 9) || decide (chanState hw t.fc ≠ 2) else portCredit hw t

/-- The syndrome of a hand-over to cluster `dst` that a port refuses (R267, R488). -/
def handSyn (hw : Hw) (cls dst : Nat) : Nat :=
  if cls = cSCHED_SLOT_CONFLICT then 0x35000000 + (meshRoute hw dst false).port
  else if cls = cADMISSION_REFUSED then 0x110000 else 0

/-- The frames that a descriptor's record carries: those of the slot that a conflict is about. -/
def Flight.frameFor (f : Flight) (cls : Nat) : Nat := if cls = cSCHED_SLOT_CONFLICT then f.slotFrame else 0

/-- The next transaction of channel `k` is handed to its port (a read keeps the number of its first line) when its data, a tracker entry and the port's credit allow (R306); a
hand-over that its port refuses becomes the descriptor's status (R307, R308). -/
def pacedHandover (k : Fin 64) (hw : Hw) : Hw :=
  match (hw.te k.val).flights.findSome? (fun f => (nextPiece hw f).map (fun p => (f, p))) with
  | none => hw
  | some (f, p) =>
    let d := f.d
    match trkFree hw k.val with
    | none => hw
    | some txid =>
      if !pieceReady hw f p ∨ trkLeft hw ≤ (waitingBefore hw k.val).length then hw
      else
        let out := dDstRemote hw d
        let g := if out then lineAddr (dDst d) (dDpitch d) (dRowLen d) p.1 else lineAddr (dSrc d) (dSpitch d) (dRowLen d) p.1
        let data := if !out then leBytes p.1 4 else if dFill d then (List.range p.2).flatMap (fun _ => fillLine128 d) else f.buf.take (128 * p.2)
        let t : Txn := ⟨txid, .desc (k.val / 4) (k.val % 4) f.id, if out then 1 else 2, teUnit k.val, dFar d, dFc d, g / 2 ^ 41, loc g, data,
          128 * p.2, false, out && !dFar d, hw.now, .none, 0, false, false⟩
        let r := handOver t hw
        if !txnCredit hw t then hw
        else if r.2 = 0 then
          trkMark (modFlight k.val f.id (fun f =>
            if out then { f with wr := f.wr + p.2, buf := f.buf.drop (128 * p.2) } else { f with rd := f.rd + p.2 }) r.1)
        else
          modFlight k.val f.id (fun f => { f with
            status := r.2, fail := failAddr hw g, syn := handSyn hw r.2 (g / 2 ^ 41), slotFrame := frameOf hw.now }) r.1

/-- What a flight could do with a free slot at present: read its next local line, or write one (R306). -/
def pacedWork (hw : Hw) (f : Flight) : Option (Bool × Nat) :=
  if !f.paced ∨ f.status ≠ 0 ∨ f.phase ≠ 0 then none
  else
    let d := f.d
    let n := dBeats d
    let localOut := !dDstRemote hw d
    if localOut ∧ !dSrcRemote hw d ∧ f.wr < n ∧ (dFill d ∨ 128 ≤ f.buf.length) then some (true, dstLine d f.wr)
    else if !dFill d ∧ !dSrcRemote hw d ∧ f.rd < n ∧ f.buf.length < 4096 then some (false, srcLine d f.rd)
    else none

/-- Serve one local access of a paced flight in the free slot of cycle `t` (R17): an uncorrectable line ends it with that status. -/
def pacedServe (k t : Nat) (f : Flight) (hw : Hw) : Hw :=
  match pacedWork hw f with
  | none => hw
  | some (wr, a) =>
    let x : BgAcc := if wr then .wr a (if dFill f.d then fillLine128 f.d else f.buf.take 128) else .rd a 128
    let b : BgReq := bgNew hw (teUnit k) [x] .ring
    let r := bgAccess x b (bgMark (teUnit k) t a 128 (settle t hw))
    let key := wordOf (physOf hw (r.1.bad.getD 0))
    modFlight k f.id (fun f =>
      if r.1.bad.isSome then { f with status := badClass key, fail := r.1.bad.getD 0, syn := Config.eccSyndrome key % 2 ^ 32 }
      else if wr then { f with wr := f.wr + 1, buf := f.buf.drop 128, since := t, warned := false }
      else { f with rd := f.rd + 1, buf := f.buf ++ r.1.got, since := t, warned := false }) r.2

/-! ### Completion (R296, R308–R311) -/

/-- Transactions of a flight that have not ended. -/
def openTxns (hw : Hw) (k id : Nat) : Bool := hw.net.txns.any (fun t => decide (t.owner = .desc (k / 4) (k % 4) id))

/-- A paced flight has performed everything: its writes are done or acknowledged. -/
def pacedDone (hw : Hw) (k : Nat) (f : Flight) : Bool :=
  !openTxns hw k f.id && (decide (f.status ≠ 0) || decide (dBeats f.d ≤ f.wr))

def dropFlight (k id : Nat) (hw : Hw) : Hw :=
  let hw1 := hw.modTe k (fun c => { c with flights := c.flights.filter (fun x => decide (x.id ≠ id)) })
  (dropGot id hw1).modTe k teSettle

/-- Signal LSEM, as an SSIG of another core at cycle `c` would (R310); an unallocated one is a fault (R320). -/
def signalLsem (k : Nat) (d : Desc) (c : Nat) (hw : Hw) : Hw :=
  if !dLsemEn d then hw
  else if semOn hw (dLsem d) then signalSsig (dLsem d) 1 (teUnit k) (k % 4) c hw
  else raise { cls := cACCESS_RANGE, sev := 2, unit := teUnit k, ch := k % 4, instr := d.addr, syn := dLsem d } hw

/-- The data of a descriptor is at its destination: DSEM, then LSEM when that signal is acknowledged, or LSEM as of cycle `c` (R309, R310).
Without a tracker entry for the signal, the descriptor waits (R305). -/
def descEnd (k c : Nat) (f : Flight) (hw : Hw) : Hw :=
  if !dDsemEn f.d then signalLsem k f.d c (countDone k (dropFlight k f.id hw))
  else match trkFree hw k with
    | none => hw
    | some txid =>
      let t : Txn := ⟨txid, .desc (k / 4) (k % 4) f.id, 4, teUnit k, dFar f.d, dFc f.d, dDst f.d / 2 ^ 41, 0,
        leBytes (dDsem f.d) 4 ++ leBytes 1 2, 6, false, false, hw.now, .none, 0, false, false⟩
      let r := handOver t hw
      if r.2 = 0 then
        trkMark ((countDone k (modFlight k f.id (fun f => { f with phase := 1 }) r.1)).modTe k teSettle)
      else
        let g := { f with slotFrame := frameOf hw.now }
        descFail k f.d r.2 0 (handSyn hw r.2 (dDst f.d / 2 ^ 41)) (g.frameFor r.2) (g.frameFor r.2) (dropFlight k f.id r.1)

/-- An exact flight ends at K: an uncorrectable line or a lost beat ends it with that status. -/
def exactEnd (k : Nat) (f : Flight) (hw : Hw) : Hw :=
  let hw1 := settle f.done (hw.at f.done)
  let g := ((hw1.te k).flights.find? (fun x => decide (x.id = f.id))).getD f
  if g.status ≠ 0 then descFail k g.d g.status g.fail g.syn (g.frameFor g.status) (g.frameFor g.status) (dropFlight k g.id hw1)
  else match gotBad (gotOf hw1 g.id) with
    | some a =>
      let key := wordOf (physOf hw1 a)
      countBad key (descFail k g.d (badClass key) a (Config.eccSyndrome key % 2 ^ 32) 0 0 (dropFlight k g.id hw1))
    | none => descEnd k (g.done + 1) g hw1

/-- A paced flight ends when its accesses have, with its status or its signals (R308, R309). -/
def pacedEnd (k : Nat) (f : Flight) (hw : Hw) : Hw :=
  if f.status ≠ 0 then
    descFail k f.d f.status f.fail f.syn (f.frameFor f.status) (f.frameFor f.status) (dropFlight k f.id hw)
  else descEnd k hw.now f hw

/-- The first descriptor of channel `k` that can complete does (R309, R311). -/
def descComplete (k : Fin 64) (hw : Hw) : Hw :=
  let ex := ((hw.te k.val).flights.filter (fun f => !f.paced && decide (f.phase = 0))).foldl (fun (m : Option Flight) f => match m with
    | none => some f
    | some g => if f.done < g.done then some f else some g) none
  match ex, (hw.te k.val).flights.find? (fun f => f.paced && decide (f.phase = 0) && pacedDone hw k.val f) with
  | _, some f => pacedEnd k.val f hw
  | some f, none => exactEnd k.val f hw
  | none, none => hw

/-- A transaction of a flight has ended (R308): an error becomes the descriptor's status; the acknowledged DSEM lets LSEM follow. -/
def flightTxnEnd (k id status : Nat) (t : Txn) (hw : Hw) : Hw :=
  match (hw.te k).flights.find? (fun f => decide (f.id = id)) with
  | none => hw
  | some f =>
    if f.phase = 1 then
      if status = 0 then signalLsem k f.d hw.now (dropFlight k id hw)
      else descStatus k f.d status (failAddr hw (t.dst * 2 ^ 41 + t.addr)) 0 0 0 (dropFlight k id hw)
    else if status = 0 then hw
    else modFlight k id (fun f => if f.status = 0 then { f with status := status, fail := failAddr hw (t.dst * 2 ^ 41 + t.addr) } else f) hw

/-! ### Stop and resume (R312) -/

/-- A write of 1 to TEN_CH_CTL.STOP. -/
def tenStop (k : Fin 64) (hw : Hw) : Hw :=
  let hw := syncTo hw.now hw
  let n := (hw.te k.val).held.length
  let hw1 := hw.setFld (teReg k.val 0x18) 16 16 (min 0xFFFF (hw.fld (teReg k.val 0x18) 16 16 + n))
  hw1.modTe k.val (fun c =>
    { c with st := if c.flights.all (fun f => decide (f.phase ≠ 0)) then .stoppedReq else .stopping, held := [], wait := none, anchor := none })

/-- A write of 1 to TEN_CH_CTL.RESUME. -/
def tenResume (k : Fin 64) (hw : Hw) : Hw :=
  let c := hw.te k.val
  if c.st = .stoppedReq ∨ c.st = .stoppedFault then hw.modTe k.val (fun c => toHead hw { c with st := .idle, headAt := hw.now }) else hw

/-- A stopping channel has nothing in flight. -/
def channelStopDone (k : Fin 64) (hw : Hw) : Hw :=
  let c := hw.te k.val
  if c.st = .stopping ∧ c.flights.all (fun f => decide (f.phase ≠ 0)) then hw.modTe k.val (fun c => { c with st := .stoppedReq }) else hw

end Sys2Proof.Machine
end

