-- ==== Sys2Proof/Machine/Net.lean ====
section
/-!
DEFINITION. Transactions and peers (spec/12): how a transaction ends for whoever made it (R175, R176, R305, R308, R331), sends on
their way (R174–R177), the states of mesh ports and far channels, their loss (R381, R393), fencing (R400), joining (R402–R404)
and the receive pool (R388–R390).
-/
namespace Sys2Proof.Machine

/-! ### Sends (R174–R177) -/

/-- A send ends with a failure: its class at the core, which stops; neither semaphore is signalled (R176, R488). A hand-over that R267
refuses is no end by R176 and does not count in FAILS (R187). -/
def sendFail (n : Fin 8) (id status : Nat) (hw : Hw) : Hw :=
  match (hw.core n).sends.find? (fun s => decide (s.id = id)) with
  | none => hw
  | some s =>
    let refused := decide (status = cADMISSION_REFUSED ∨ status = cSCHED_SLOT_CONFLICT)
    let frm := if status = cSCHED_SLOT_CONFLICT then frameOf hw.now else 0
    let r : FaultRec := { cls := status, sev := 2, unit := n.val, instr := s.pc, exp := frm, act := frm, addr := loc s.gaddr,
                          syn := if refused then handSyn hw status (s.gaddr / 2 ^ 41) else s.reg }
    let hw1 := hw.modNet (fun t => { t with txns := t.txns.filter (fun x => decide (x.owner ≠ .send n.val id)) })
    let hw2 := hw1.modCore n (fun c => { c with sends := c.sends.filter (fun x => decide (x.id ≠ id)) })
    let hw3 := coreStopNow n r hw2
    if status = cSCHED_SLOT_CONFLICT then hw3 else Hw.bump (coreReg n 0x144) 8 8 hw3

/-- The tracker entry of a core's send: entries 16 × n onward, by its place among the core's sends (R305). -/
def sendTxid (hw : Hw) (n : Fin 8) (id : Nat) : Nat :=
  match hw.net.txns.find? (fun t => decide (t.owner = .send n.val id)) with
  | some t => t.txid
  | none => (freeTxid (16 * n.val) (16 * n.val + 16) hw).getD (16 * n.val)

def modSend (n : Fin 8) (id : Nat) (f : SendOp → SendOp) (hw : Hw) : Hw :=
  hw.modCore n (fun c => { c with sends := c.sends.map (fun s => if s.id = id then f s else s) })

/-- Hand one beat of a send to its port at its cycle (R174). -/
def sendBeat (n : Fin 8) (s : SendOp) (b : Nat × Nat × List Byte) (hw : Hw) : Hw :=
  if (hw.core n).sends.all (fun x => decide (x.id ≠ s.id)) then hw
  else
    let t : Txn := ⟨sendTxid hw n s.id, .send n.val s.id, 1, n.val, s.far, s.fc, b.2.1 / 2 ^ 41, loc b.2.1, b.2.2, b.2.2.length, false,
      !s.far, b.1, .none, s.pc, false, false⟩
    let r := handOver t { hw with now := min hw.now b.1 }
    let hw1 := { r.1 with now := hw.now }
    if r.2 = 0 then modSend n s.id (fun s => { s with beats := s.beats.filter (fun x => decide (x ≠ b)), flying := s.flying + 1 }) hw1
    else Hw.asOf b.1 (sendFail n s.id r.2) hw1

/-- Every beat of every send that is due by now. -/
def sendsDue (hw : Hw) : Hw :=
  (List.finRange 8).foldl (fun h n =>
    ((h.core n).sends.flatMap (fun s => (s.beats.filter (fun b => decide (b.1 ≤ h.now))).map (fun b => (s, b)))).foldl
      (fun h p => sendBeat n p.1 p.2 h) h) hw

/-- A send has ended well: LSEM is signalled if it is enabled (R175); one that is not allocated is a fault (R320). -/
def sendDone (n : Fin 8) (s : SendOp) (hw : Hw) : Hw :=
  let hw1 := hw.modCore n (fun c => { c with sends := c.sends.filter (fun x => decide (x.id ≠ s.id)) })
  if !s.lsemEn then hw1
  else if semOn hw s.lsem then signalSsig s.lsem 1 n.val 0 hw.now hw1
  else coreStopNow n (plainFault n cACCESS_RANGE s.pc 0 s.lsem) hw1

/-- Every write of the tile is acknowledged: DSEM leaves, or LSEM follows at once (R175). -/
def sendAcked (n : Fin 8) (s : SendOp) (hw : Hw) : Hw :=
  if !s.dsemEn then sendDone n s hw
  else
    let t : Txn := ⟨sendTxid hw n s.id, .send n.val s.id, 4, n.val, s.far, s.fc, s.gaddr / 2 ^ 41, 0, leBytes s.dsem 4 ++ leBytes 1 2, 6,
      false, false, hw.now, .none, s.pc, false, false⟩
    let r := handOver t hw
    if r.2 = 0 then r.1 else sendFail n s.id r.2 r.1

/-- A transaction of a send has ended. -/
def sendTxnEnd (n : Fin 8) (id status : Nat) (t : Txn) (hw : Hw) : Hw :=
  match (hw.core n).sends.find? (fun s => decide (s.id = id)) with
  | none => hw
  | some s =>
    if status ≠ 0 then sendFail n id status hw
    else if t.kind = 4 then sendDone n s hw
    else
      let s' := { s with flying := s.flying - 1 }
      let hw1 := modSend n id (fun _ => s') hw
      if s'.flying = 0 ∧ s'.beats.isEmpty then sendAcked n s' hw1 else hw1

/-! ### Ends of transactions -/

/-- A transaction ends with status 0 or a class (R175, R176, R308, R331). -/
def endTxn (t : Txn) (status : Nat) (hw : Hw) : Hw :=
  let hw1 := hw.modNet (fun n => { n with txns := n.txns.filter (fun x => decide (x ≠ t)) })
  match t.owner with
  | .send c id => if h : c < 8 then sendTxnEnd ⟨c, h⟩ id status t hw1 else hw1
  | .desc te ch id => flightTxnEnd (4 * te + ch) id status t hw1
  | .bar k =>
    if status = 0 then hw1
    else if status = cPEER_LOST ∨ status = cPEER_FENCED then breakBar k status hw1
    else raise { cls := status, sev := 2, unit := 0x1A, addr := t.dst, syn := k } hw1
  | .kc _ => hw1
  | .answer => hw1

/-- The status of a transaction that an ERROR answers: a lost or fenced peer keeps its class, any other is ACCESS_RANGE (R308). -/
def errorStatus (cls : Nat) : Nat := if cls = cPEER_LOST ∨ cls = cPEER_FENCED then cls else cACCESS_RANGE

/-- The earliest sent transaction with a tracker entry. -/
def txnOf (hw : Hw) (txid : Nat) : Option Txn := hw.net.txns.find? (fun t => decide (t.txid = txid ∧ t.owner ≠ .answer) && t.sent)

/-- SEND_ACK: the destination has acknowledged what is outstanding of the core's first send (R175). -/
def sendAck (n : Fin 8) (hw : Hw) : Hw :=
  let hw := sendsDue hw
  match (hw.core n).sends.find? (fun s => s.beats.isEmpty) with
  | none => hw
  | some s => (hw.net.txns.filter (fun t => decide (t.owner = .send n.val s.id))).foldl (fun h t => endTxn t 0 h) hw

/-- SEND_FAIL: the core's first send ends with PEER_LOST, or PEER_FENCED (R176). -/
def sendFailed (n : Fin 8) (fenced : Bool) (hw : Hw) : Hw :=
  match (sendsDue hw).core n |>.sends with
  | [] => hw
  | s :: _ => sendFail n s.id (if fenced then cPEER_FENCED else cPEER_LOST) (sendsDue hw)

/-- REMOTE_TXN_END: the earliest transaction of channel `k` is acknowledged, or ends with an error; a read ends well only with its
last line (R305, R308). -/
def remoteTxnEnd (k : Fin 64) (cls : Byte) (hw : Hw) : Hw :=
  let mine (t : Txn) : Bool := match t.owner with
    | .desc te ch _ => decide (4 * te + ch = k.val)
    | _ => false
  match hw.net.txns.find? mine with
  | none => hw
  | some t =>
    if cls = 0 then (if t.kind = 2 then hw else endTxn t 0 hw) else endTxn t (errorStatus cls.toNat) hw

/-! ### Losing and fencing a peer -/

/-- Break every barrier context whose route to its serving hub, or whose up-arrivals, the test names (R331). -/
def breakRoutes (parent : Nat → Bool) (up : UpFrom → Bool) (cls : Nat) (hw : Hw) : Hw :=
  (List.range 64).foldl (fun h k =>
    if barScope h k ≥ 2 ∧ (parent k ∨ (h.bar k).ups.any up) then breakBar k cls h else h) hw

/-- Those that a cluster of the mesh, or a far channel, is on the route of. -/
def breakMesh (id cls : Nat) (hw : Hw) : Hw :=
  breakRoutes (fun k => !nbit (hw.reg (barCfg k + 4)).toNat 24 && !nbit (hw.reg (barCfg k + 4)).toNat 23 &&
    decide (hw.fld (barCfg k + 4) 0 18 = id ∧ id ≠ hw.cid)) (fun u => decide (u = .mesh id)) cls hw
def breakFar (c cls : Nat) (hw : Hw) : Hw :=
  breakRoutes (fun k => !nbit (hw.reg (barCfg k + 4)).toNat 24 && nbit (hw.reg (barCfg k + 4)).toNat 23 &&
    decide (hw.fld (barCfg k + 4) 18 5 = c)) (fun u => decide (u = .far c)) cls hw

/-- The loss of a peer is told to SCH: its ID, the port, far or not (R424). -/
def tellLoss (id port : Nat) (far : Bool) (hw : Hw) : Hw := hubMail 0x94 (id + port * 2 ^ 20 + b2n far * 2 ^ 22) hw

/-- Transactions that have not left and that no port carries any more end with PEER_LOST (R382). -/
def endStranded (hw : Hw) : Hw :=
  (hw.net.txns.filter (fun t => !t.far && !t.sent && decide ((txnRoute hw t).status = cPEER_LOST))).foldl (fun h t => endTxn t cPEER_LOST h) hw

/-- Port `p` enters LOST (R381, R382); a partner already fenced is recorded as informational, and nothing to it ends (R400). -/
def portLost (p : Nat) (hw : Hw) : Hw :=
  let id := hw.fld (mshStat p) 0 18
  let mine := (List.range 16).filter (fun i => nbit (hw.reg (mshDie i)).toNat 31 && decide (hw.fld (mshDie i) 0 18 = id))
  let gone := mine.any (fun i => decide (i ∈ hw.net.dieFenced))
  let hw1 := (hw.setFld (mshStat p) 26 3 3).modPort p (fun m => { m with rest := [] })
  let hw2 := raise { cls := cPEER_LOST, sev := if gone then 0 else 1, unit := 0x20 + p, q := .none, syn := id } hw1
  let hw3 := tellLoss id p false hw2
  if gone then endStranded hw3
  else
    let hw4 := mine.foldl (fun h i => h.orReg (mshDie i) (2 ^ 30)) hw3
    let ts := hw4.net.txns.filter (fun t => !t.far && decide (t.dst = id))
    let hw5 := ts.foldl (fun h t => endTxn t cPEER_LOST h) hw4
    breakMesh id cPEER_LOST (endStranded hw5)

/-- Nothing is in a channel's buffers. -/
def clearChan (c : Nat) (hw : Hw) : Hw :=
  let hw1 := hw.modChan c (fun _ => { noChan with lastSent := hw.now, lastHeard := hw.now })
  let notMine (b : BgReq) : Bool := match b.what with
    | .far d _ _ _ => decide (d ≠ c)
    | _ => true
  { hw1 with bg := hw1.bg.filter notMine, net := { hw1.net with poolq := hw1.net.poolq.filter (fun x => decide (x ≠ c)) } }

/-- Channel `c` enters LOST (R393); a peer already fenced is recorded as informational, and nothing ends (R400). -/
def chanLost (c : Nat) (hw : Hw) : Hw :=
  let gone := decide (chanState hw c = 4)
  let id := hw.fld (farReg c 0) 0 18
  let port := hw.fld (farReg c 0) 18 1
  let hw1 := raise { cls := cPEER_LOST, sev := if gone then 0 else 1, unit := 0x24 + port, q := .none, addr := id, syn := c } hw
  let hw2 := if gone then hw1 else tellLoss id (port % 2) true hw1
  if gone then hw2
  else
    let hw3 := setChanState c 3 (clearChan c hw2)
    let ts := hw3.net.txns.filter (fun t => t.far && decide (t.fc = c))
    let hw4 := ts.foldl (fun h t => endTxn t cPEER_LOST h) hw3
    breakFar c cPEER_LOST hw4

/-! ### The receive pool (R388–R390) -/

/-- Free buffers: COUNT less those granted and those that hold packets. -/
def poolFree (hw : Hw) : Nat :=
  hw.fld 0x801008 0 11 - ((List.range 32).map (fun c => (hw.chan c).granted + farWaiting hw c)).sum

/-- Buffers that hold a packet. -/
def poolUsed (hw : Hw) : List Nat :=
  hw.bg.filterMap (fun b => match b.what with
    | .far _ _ _ k => some k
    | _ => none)

/-- The buffer that an arriving packet fills: the lowest that holds none (log entry 112). -/
def poolBuffer (hw : Hw) : Nat :=
  let used := poolUsed hw
  ((List.range (used.length + 1)).find? (fun k => decide (k ∉ used))).getD 0

/-- A packet's payload stands in its buffer, 4 KiB in CSM (R388). -/
def poolFill (k : Nat) (pl : List Byte) (hw : Hw) : Hw :=
  if pl.isEmpty then hw
  else (hw.write (atAddr (hw.reg64 0x801000 + 4096 * k) (pl.take 4096)) none .none).1

/-- A channel obtains a buffer and grants its credit. -/
def grantOne (c : Nat) (hw : Hw) : Hw := hw.modChan c (fun x => { x with granted := x.granted + 1, tell := x.tell + 1 })

/-- A channel is answered POOL_EMPTY: it joins the queue; the first after a free buffer is recorded (R390). -/
def poolEmpty (c : Nat) (hw : Hw) : Hw :=
  let hw1 := Hw.bump 0x80100C 24 8 (hw.modNet (fun n => { n with poolq := n.poolq ++ [c] }))
  if hw.net.poolDry then hw1
  else raise { cls := cPOOL_EMPTY, sev := 0, unit := 0x24 + hw.fld (farReg c 0) 18 1, q := .none, syn := c }
    (hw1.modNet (fun n => { n with poolDry := true }))

/-- A channel that carries packets, and does not wait already, asks for a buffer while its outstanding credits are below MAX (R389). -/
def poolWants (hw : Hw) (c : Nat) : Bool :=
  farLive hw c && decide ((hw.chan c).granted < hw.fld (farReg c 0x14) 0 7 ∧ c ∉ hw.net.poolq)

/-- One request of a channel (R390). -/
def poolAsk (c : Nat) (hw : Hw) : Hw :=
  if !poolWants hw c then hw
  else if poolFree hw = 0 ∨ hw.net.poolq ≠ [] then poolEmpty c hw
  else grantOne c (hw.modNet (fun n => { n with poolDry := false }))

/-- The channels that want buffers ask, one each in a round, the lowest first; far credit is withheld in SHELVED (R389, R390, R395).
Fuel: the largest MAX. -/
def poolRounds : Nat → Hw → Hw
  | 0, hw => hw
  | k + 1, hw =>
    if pwrState hw = 2 ∨ !(List.range 32).any (poolWants hw) then hw
    else poolRounds k ((List.range 32).foldl (fun h c => poolAsk c h) hw)

def poolRequest (hw : Hw) : Hw := poolRounds 64 hw

/-- A freed buffer goes to the head of the queue (R390). -/
def poolGrant (hw : Hw) : Hw :=
  match hw.net.poolq with
  | [] => hw
  | c :: l =>
    if poolFree hw = 0 ∨ pwrState hw = 2 then hw
    else poolRequest (grantOne c (hw.modNet (fun n => { n with poolq := l, poolDry := false })))

/-! ### States of channels and ports -/

/-- A channel enters UP with both sequence numbers at 0 (R404). -/
def chanUp (c : Nat) (hw : Hw) : Hw :=
  (setChanState c 2 (clearChan c hw)).setReg (farReg c 0x18) 0#32 |>.setFld (farReg c 8) 16 9 0

/-- A channel enters JOINING and announces itself (R402, R403). -/
def chanJoin (c : Nat) (hw : Hw) : Hw :=
  sendPlain c 0x13 (setChanState c 1 (clearChan c (hw.modNet (fun n => { n with pool := true }))))

/-- The first READY after a reset: every configured channel joins (R402, R467). -/
def joinAll (hw : Hw) : Hw :=
  (List.range 32).foldl (fun h c => if nbit (h.reg (farReg c 0)).toNat 31 then chanJoin c h else h) hw

/-- The NEXT copies become current: calendars, die table (with no entry lost or fenced), far-channel configuration. A channel whose
configuration stays keeps its state, but for one in JOINING, which enters UP if its peer is still named (R262, R404); one that is
configured anew, or lost, joins; one no longer configured is DOWN. Then the channels in UP ask for their buffers. -/
def applyNext (up : Bool) (hw : Hw) : Hw :=
  let hw1 := (List.range 16).foldl (fun h i => h.setReg (mshDie i) (hw.reg (0x700080 + 4 * i) &&& 0x87FFFFFF#32)) hw
  let hw2 := (List.range 4).foldl (fun h p => (List.range 260).foldl (fun h s =>
    h.setReg (mshCal p s) (hw.reg (0x703000 + p * 0x800 + 4 * s) &&& 0x8F#32)) h) hw1
  let hw3 := hw2.modNet (fun n => { n with dieFenced := [] })
  poolRequest ((List.range 32).foldl (fun h c =>
    let old := h.reg (farReg c 0)
    let new := h.reg (farReg c 4)
    let h1 := h.setReg (farReg c 0) new
    if !nbit new.toNat 31 then setChanState c 0 (clearChan c h1)
    else if chanState h c = 1 then (if up && decide (nbits old.toNat 0 18 = nbits new.toNat 0 18) then chanUp c h1 else h1)
    else if up && (decide (old ≠ new) || decide (chanState h c = 3)) then chanJoin c h1
    else h1) hw3)

/-- A write of MSH_HB_CTL: EN 0 takes every port DOWN, EN from 0 to 1 to ANNOUNCING (R380). -/
def hbEnWrite (v : W32) (hw : Hw) : Hw :=
  let on := nbit v.toNat 0
  let was := nbit (hw.reg 0x700010).toNat 0
  let hw1 := hw.setReg 0x700010 (v &&& 1#32)
  if on && was then hw1
  else (List.range 4).foldl (fun h p => (h.setFld (mshStat p) 26 3 (if on then 1 else 0)).setFld (mshStat p) 22 4 0) hw1

/-! ### Fencing (R396–R400) -/

/-- FENCE leaves on every far channel in UP and on every mesh port in UP; from then on what is received is answered PEER_FENCED (R399,
R492). -/
def sendFence (hw : Hw) : Hw :=
  let hw1 := (List.range 4).foldl (fun h p => if portState h p = 2 then sendMaint p 5 h.cid 0 h else h) hw
  let hw2 := (List.range 32).foldl (fun h c =>
    if chanState h c = 2 then queuePacket c ⟨0, 0x08, false, 0, h.fld (farReg c 0) 0 18, 0, [], [], 0, 0⟩ h else h) hw1
  hw2.modNet (fun n => { n with fenced := true })

/-- In ARCHIVING every transaction that is not host-tagged is answered PEER_FENCED, also one that waits for its slots (R492). -/
def fenceWaiting (hw : Hw) : Hw :=
  let no (host : Bool) (typ : Nat) (b : BgReq) : BgReq :=
    if host ∨ typ = 3 ∨ typ = 5 ∨ typ = 8 then b else { b with todo := [], ans := cPEER_FENCED }
  { hw with bg := hw.bg.map (fun b => match b.what with
    | .mesh _ fl => no (fl.headD default).host (fl.headD default).typ b
    | .far _ h _ _ => no (nbit (leAt h 0 4) 13) (leAt h 0 1) b
    | _ => b) }

/-- A FENCE received for an ID: at a mesh port the die-table entries, or the channel, enter FENCED (R400), and the contexts whose route
it was break (R331). -/
def fencePeer (unit : Nat) (id : Nat) (chan : Option Nat) (hw : Hw) : Hw :=
  let hw1 := raise { cls := cPEER_FENCED, sev := 0, unit := unit, q := .none, addr := id } hw
  match chan with
  | some c => breakFar c cPEER_FENCED (setChanState c 4 hw1)
  | none =>
    let mine := (List.range 16).filter (fun i => nbit (hw.reg (mshDie i)).toNat 31 && decide (hw.fld (mshDie i) 0 18 = id))
    breakMesh id cPEER_FENCED (hw1.modNet (fun n => { n with dieFenced := mine.foldl (fun l i => setIns i l) n.dieFenced }))

end Sys2Proof.Machine
end

