-- ==== Sys2Proof/Machine/NetIn.lean ====
section
/-!
DEFINITION. What the ports take in and tell (spec/12): what ingress may reach (R189, R190, R358), signals, barrier messages and answers
(R370, R373), maintenance messages (R370, R379–R381), the timers of the ports (R379, R386, R391–R393), late transactions (R268), and
the pins of the link stations (R516).
-/
namespace Sys2Proof.Machine

/-! ### What ingress may reach -/

/-- The host window to a TCM address is open (R358). -/
def tcmWindow (hw : Hw) (a : Nat) : Bool :=
  decide (cluState hw = 3) || (nbit a 17 && nbit (hw.reg 0xD000D4).toNat 3)

/-- Whether ingress may access a byte of memory (R189, R358). -/
def ingressMay (hw : Hw) (host wr : Bool) (a : Nat) : Bool :=
  match regionOf hw a with
  | .bm _ o => decide (o < reservedFrom hw) || (host && !wr)
  | .csm => true
  | .lm _ => true
  | .scratch _ => host
  | .tcm => host && (!wr || tcmWindow hw a)
  | .regs _ => host && !wr
  | .unpopulated => false

/-- The address lies in the register space. -/
def inRegs (hw : Hw) (a : Nat) : Bool := match regionOf hw a with
  | .regs _ => true
  | _ => false

/-- Whether ingress of `k` bytes at `a` is forbidden: 0, or the class that answers it. The payload of a WRITE is no 32-bit access: the
register space refuses it (R6), and a host writes a register by a command of its own; what a host reads there is read as 32-bit
registers (log entry 65). -/
def ingressClass (hw : Hw) (host wr : Bool) (a k : Nat) : Nat :=
  if host && wr && inRegs hw a then cADMISSION_REFUSED
  else if (List.range (k / 128 + 1)).all (fun i => ingressMay hw host wr (a + min (128 * i) (k - 1))) && ingressMay hw host wr (a + (k - 1)) then 0
  else cACCESS_RANGE

/-- What the receiving port records of an access that fails (R6, R190, R320). -/
def ingressRecord (unit cls a : Nat) (hw : Hw) : Hw :=
  if cls = cADMISSION_REFUSED then refuse unit hw
  else if cls = cACCESS_RANGE then raise { cls := cls, sev := 0, unit := unit, q := .none, addr := a } hw
  else hw

/-- A remote signal (R320, R322, R324): its status. -/
def ingressSignal (unit src : Nat) (pl : List Byte) (hw : Hw) : Hw × Nat :=
  match refSem (leAt pl 0 4) with
  | none => (hw, cILLEGAL_INSTR)
  | some i =>
    if semOn hw i then (signalAll i (leAt pl 4 2) unit 0 src (hw.now + 8) hw, 0)
    else (raise { cls := cACCESS_RANGE, sev := 0, unit := unit, q := .none, syn := i } hw, cACCESS_RANGE)

/-- A barrier message (kind 6 or 7): its status (R318, R328, R330). -/
def ingressBar (kind : Nat) (src : UpFrom) (pl : List Byte) (hw : Hw) : Hw × Nat :=
  match refBar (leAt pl 0 4) with
  | none => (hw, cILLEGAL_INSTR)
  | some k => (if kind = 6 then upArrival k src hw else barrierRelease k hw, 0)

/-! ### Answers -/

/-- An answer leaves in a slot of the mesh: READ_DATA (3) or ERROR (5), with the host tag of what it answers (R373). -/
def meshAnswer (p kind : Nat) (f : Flit) (l : List Byte) (hw : Hw) : Hw :=
  let t : Txn := ⟨f.txid, .answer, kind, 0x20 + p, false, 0, f.src, f.addr, l, l.length, f.host, false, hw.now, .none, 0, false, false⟩
  hw.modNet (fun n => { n with txns := n.txns ++ [t] })

def meshError (p cls : Nat) (f : Flit) (hw : Hw) : Hw := meshAnswer p 5 f [BitVec.ofNat 8 cls] hw

/-- ACK on the maintenance lane (R370). -/
def meshAck (p status : Nat) (f : Flit) (hw : Hw) : Hw := sendMaint p 2 f.txid status hw

/-- An answer on a far channel. -/
def farAnswer (c kind : Nat) (h : List Byte) (l : List Byte) (hw : Hw) : Hw :=
  let host := nbit (leAt h 0 4) 13
  let a := leAt h 0x14 4 + leAt h 0x18 4 % 512 * 2 ^ 32
  queuePacket c ⟨0, kind, host, leAt h 0x1C 4 / 65536 % 2048, leAt h 0x0C 4 % 2 ^ 18, a, if kind = 5 then l else [],
    if kind = 3 then l else [], 0, 0⟩ hw

/-! ### Mesh transactions -/

/-- What a received transaction is answered with before it is performed: fenced (R399, R492), not addressed as R447 asks. -/
def meshRefuse (hw : Hw) (f : Flit) : Option Nat :=
  if hw.net.fenced ∧ ¬ (f.host ∧ cluState hw ≥ 8) then some cPEER_FENCED
  else if cluState hw = 1 then
    (match f.host, regionOf hw f.addr with
     | true, .regs _ => none
     | true, .csm => none
     | _, _ => some cACCESS_RANGE)
  else none

/-- Credit goes back when flits leave the ingress buffer (R371). -/
def meshCredit (p : Nat) (fl : List Flit) (hw : Hw) : Hw :=
  let s := (fl.filter (fun f => f.slot)).length
  let o := fl.length - s
  let hw1 := if s = 0 then hw else sendMaint p 1 s 1 hw
  if o = 0 then hw1 else sendMaint p 1 o 0 hw1

/-- A flit that fails its check or whose type is not listed is discarded and recorded (R368). -/
def discardFlit (p : Nat) (hw : Hw) (_ : Flit) : Hw :=
  raise { cls := cACCESS_RANGE, sev := 0, unit := 0x20 + p, q := .none } hw

/-! ### Maintenance messages -/

/-- Any maintenance message counts for R381. -/
def heard (p : Nat) (hw : Hw) : Hw := hw.modPort p (fun m => { m with heard := true })

/-- Credit comes back (R371). -/
def mntCredit (p : Fin 4) (n : Nat) (slot : Bool) (hw : Hw) : Hw :=
  (heard p.val hw).modPort p.val (fun m =>
    if slot then { m with credSlot := min 128 (m.credSlot + n % 1024), heard := true }
    else { m with credOther := min 128 (m.credOther + n % 1024), heard := true })

/-- ACK of a write, a signal or a barrier message (R370). -/
def mntAck (p : Fin 4) (txid : Nat) (status : Byte) (hw : Hw) : Hw :=
  let hw1 := heard p.val hw
  match hw1.net.txns.find? (fun t => decide (t.txid = txid ∧ t.owner ≠ .answer ∧ t.kind ≠ 2) && t.sent && !t.far) with
  | none => hw1
  | some t => endTxn t (if status = 0 then 0 else errorStatus status.toNat) hw1

/-- The port enters UP: both sides have whole credit pools, and the sender's ID is recorded (R371, R380). -/
def portUp (p id : Nat) (hw : Hw) : Hw :=
  ((hw.setFld (mshStat p) 26 3 2).setFld (mshStat p) 0 18 id).setFld (mshStat p) 22 4 0 |>.modPort p (fun m =>
    { m with credSlot := 128, credOther := 128, heard := true })

/-- HEARTBEAT brings a port that announces, or has lost its partner, to UP (R380, R381). -/
def mntHeartbeat (p : Fin 4) (id : Nat) (hw : Hw) : Hw :=
  let st := portState hw p.val
  if st = 1 ∨ st = 3 then portUp p.val id hw
  else if st = 2 then (heard p.val hw).setFld (mshStat p.val) 0 18 id
  else hw

/-- ANNOUNCE does so too; received in UP it means that the partner was reset (R380, R381). -/
def mntAnnounce (p : Fin 4) (id : Nat) (hw : Hw) : Hw :=
  let st := portState hw p.val
  if st = 1 ∨ st = 3 then portUp p.val id hw
  else if st = 2 then portLost p.val (heard p.val hw)
  else hw

/-- FENCE of a peer (R400). -/
def mntFence (p : Fin 4) (id : Nat) (hw : Hw) : Hw := fencePeer (0x20 + p.val) (id % 2 ^ 18) none (heard p.val hw)

/-- Every microsecond: HEARTBEAT, or ANNOUNCE while the port announces (R379); an interval without a message counts (R381). -/
def heartbeatTimer (p : Fin 4) (hw : Hw) : Hw :=
  if !nbit (hw.reg 0x700010).toNat 0 ∨ !hw.clk.lock then hw
  else
    let st := portState hw p.val
    let hw1 := sendMaint p.val (if st = 1 then 4 else 3) hw.cid 0 hw
    let miss := if (hw.port p.val).heard then 0 else min 8 (hw.fld (mshStat p.val) 22 4 + 1)
    (hw1.setFld (mshStat p.val) 22 4 (if st = 2 then miss else 0)).modPort p.val (fun m => { m with heard := false })

/-- Eight silent intervals (R381). -/
def portSilent (p : Fin 4) (hw : Hw) : Hw :=
  if portState hw p.val = 2 ∧ hw.fld (mshStat p.val) 22 4 = 8 then portLost p.val hw else hw

/-! ### Far packets -/

/-- Transactions of channel `c` whose packet is acknowledged end well, a read excepted. -/
def farAcked (c : Nat) (p : FarPkt) (hw : Hw) : Hw :=
  match hw.net.txns.find? (fun t => t.far && decide (t.fc = c ∧ t.txid = p.txid ∧ t.kind = p.typ ∧ t.kind ≠ 2)) with
  | some t => endTxn t 0 hw
  | none => hw

/-- Take the acknowledgement and the credit of a header (R385–R387). -/
def farHeader (c : Nat) (h : List Byte) (hw0 : Hw) : Hw :=
  let hw := farTo hw0
  let ack := leAt h 0x6 2
  let old (p : FarPkt) : Bool := decide (0 < (ack + 65536 - p.seq) % 65536 ∧ (ack + 65536 - p.seq) % 65536 ≤ 32768)
  let gone := (hw.chan c).kept.filter old
  let hw1 := hw.modChan c (fun ch => { ch with
    kept := ch.kept.filter (fun p => !old p)
    again := ch.again.filter (fun q => ch.kept.any (fun p => decide (p.seq = q) && !old p)) })
  let hw2 := hw1.setFld (farReg c 8) 16 9 (min 511 (hw.fld (farReg c 8) 16 9 + leAt h 8 4 % 128))
  pump c (gone.foldl (fun x p => farAcked c p x) hw2)

/-- Resend from `from_`, or lose the channel when its oldest packet has been sent MAXRETRY + 1 times (R391, R393). -/
def farRetry (c from_ : Nat) (hw : Hw) : Hw :=
  if (hw.chan c).kept.any (fun p => decide (hw.fld (farReg c 0xC) 16 3 + 1 ≤ p.sends ∧ (p.seq + 65536 - from_) % 65536 < 32768)) then
    chanLost c hw
  else resendFrom c from_ hw

/-- ACK when nothing else has carried ACKSEQ within 8 frames (R386). -/
def lfcAckTimer (c : Fin 32) (hw : Hw) : Hw :=
  match (hw.chan c.val).ackDue with
  | none => hw
  | some _ => if chanState hw c.val = 2 ∨ chanState hw c.val = 4 then sendPlain c.val 0x10 hw else hw

/-- RTO frames have passed since the oldest packet was sent (R391). -/
def rtoExpiry (c : Fin 32) (hw : Hw) : Hw :=
  match (hw.chan c.val).kept with
  | [] => hw
  | p :: _ => if chanState hw c.val = 2 ∨ chanState hw c.val = 4 then farRetry c.val p.seq hw else hw

/-- A configured channel that sent nothing for an interval sends KEEPALIVE, or ANNOUNCE while it joins, while its port's link is up (R392,
R402); nothing before the PLL locks (R446). -/
def keepaliveTimer (c : Fin 32) (hw : Hw) : Hw :=
  let cfg := (hw.reg (farReg c.val 0)).toNat
  if !hw.clk.lock ∨ !nbit cfg 31 ∨ !(hw.net.linkup.getD (nbits cfg 18 1) false) ∨ chanState hw c.val = 0 then hw
  else sendPlain c.val (if chanState hw c.val = 1 then 0x13 else 0x12) hw

/-- Silence, or exhausted retries, of a channel in UP; of a fenced one it is recorded only (R393, R400). -/
def farChannelLost (c : Fin 32) (hw : Hw) : Hw := if chanState hw c.val = 2 ∨ chanState hw c.val = 4 then chanLost c.val hw else hw

/-- FPn_LINKUP changes its level (R516). -/
def linkupChange (p : Fin 2) (up : Bool) (hw : Hw) : Hw := hw.modNet (fun n => { n with linkup := n.linkup.set p up })

/-- MESH_SLOT_DEPART: sends that are due are handed over, then a slot of the port begins (R266, R377, R378). -/
def meshSlotDepart (p : Fin 4) (hw : Hw) : Hw := slotDepart p.val (sendsDue hw)

/-- The frame by which a far transaction must be acknowledged: its hand-over's and the channel's bound (R268). -/
def linkDue (hw : Hw) (t : Txn) : Nat := frameOf t.handed + (hw.reg (farReg t.fc 0x10)).toNat

/-- LINK_LATE of the earliest far transaction of channel `c` that has passed its bound and is not yet recorded (R268). -/
def linkLate (c : Fin 32) (hw : Hw) : Hw :=
  match hw.net.txns.find? (fun t => t.far && decide (t.fc = c.val ∧ t.owner ≠ .answer ∧ linkDue hw t < hw.frame) && !t.late) with
  | none => hw
  | some t =>
    let hw1 := hw.modNet (fun n => { n with txns := n.txns.map (fun x => if x = t then { x with late := true } else x) })
    let r : FaultRec := { cls := cLINK_LATE, sev := 1, unit := 0x24 + hw.fld (farReg c.val 0) 18 1, q := t.q, exp := linkDue hw t,
                          act := hw.frame, addr := t.addr, syn := c.val }
    Hw.bump (farReg c.val 0x1C) 16 16 (raise r hw1)

end Sys2Proof.Machine
end

