-- ==== Sys2Proof/Machine/Context.lean ====
section
/-!
DEFINITION. Queue contexts and residency (R340–R344): where a context is, its fields, and what changes at a phase boundary: page-ins
that enter the table (R343) and administrative commands that take effect (R351).
-/
namespace Sys2Proof.Machine

/-- The first address of the reserved region in the interleaved view (R192, R340). -/
def reservedBase (hw : Hw) : Nat := if twoLayers hw then 0xBC000000 else 0x5C000000

/-- The address of a queue's context in the store. -/
def qAddr (hw : Hw) (q : Nat) : Nat := reservedBase hw + q * 0x200

/-- A queue's entry of the residency table, if its context is not that of a victim on its way out. -/
def resOf (hw : Hw) (q : Nat) : Option Res :=
  if hw.fw.inc.any (fun p => decide (p.victim = some q)) then none else hw.fw.res.find? (fun r => decide (r.qid = q))

/-- The entry of a victim whose context is moving: until the move ends it is the copy that holds the context (R348). -/
def leaving (hw : Hw) (q : Nat) : Option Res :=
  if hw.fw.inc.any (fun p => decide (p.victim = some q ∧ p.stage = 0)) then hw.fw.res.find? (fun r => decide (r.qid = q)) else none

/-- The context of a queue, in the copy that holds it (R341, R348). -/
def qCtx (hw : Hw) (q : Nat) : List Byte :=
  match hw.fw.inc.find? (fun p => decide (p.qid = q)), (resOf hw q).or (leaving hw q) with
  | some p, _ => p.ctx
  | none, some r => r.ctx
  | none, none => hw.seen (qAddr hw q) 512

/-- The queue engine holds a queue's context itself, for an entry or on the way to one; else the store holds it. -/
def ctxHeld (hw : Hw) (q : Nat) : Bool := hw.fw.inc.any (fun p => decide (p.qid = q)) || ((resOf hw q).or (leaving hw q)).isSome

/-- Replace a queue's context where it stands; in the store by a write that waits for its slots (R17, R217). -/
def setQCtx (q : Nat) (l : List Byte) (hw : Hw) : Hw :=
  if hw.fw.inc.any (fun p => decide (p.qid = q)) then
    { hw with fw := { hw.fw with inc := hw.fw.inc.map (fun p => if p.qid = q then { p with ctx := l } else p) } }
  else match (resOf hw q).or (leaving hw q) with
    | some _ => { hw with fw := { hw.fw with res := hw.fw.res.map (fun r => if r.qid = q then { r with ctx := l } else r) } }
    | none => post 0x19 0 (qAddr hw q) l hw

/-- Change `k` bytes of a context at an offset. -/
def putQ (q off k n : Nat) (hw : Hw) : Hw :=
  if ctxHeld hw q then setQCtx q (overlay (qCtx hw q) off (leBytes n k)) hw else post 0x19 0 (qAddr hw q + off) (leBytes n k) hw

/-! Fields of a context (R341) -/

def qFlag (c : List Byte) (bit : Nat) : Bool := nbit (leAt c 0 4) bit
def qCreated (c : List Byte) : Bool := qFlag c 16
def qPinned (c : List Byte) : Bool := qFlag c 17
def qSqLen (c : List Byte) : Nat := 2 ^ nbits (leAt c 4 4) 0 5
def qCqLen (c : List Byte) : Nat := 2 ^ nbits (leAt c 4 4) 8 5
/-- An address in the register pair layout. -/
def pairAddr (lo hi : Nat) : Nat := hi % 512 * 2 ^ 32 + lo
def qSqBase (c : List Byte) : Nat := pairAddr (leAt c 8 4 / 64 * 64) (leAt c 0xC 4)
def qCqBase (c : List Byte) : Nat := pairAddr (leAt c 0x10 4 / 32 * 32) (leAt c 0x14 4)
def qSqHead (c : List Byte) : Nat := leAt c 0x18 2
def qSqTail (c : List Byte) : Nat := leAt c 0x1A 2
def qCqHead (c : List Byte) : Nat := leAt c 0x1C 2
def qCqTail (c : List Byte) : Nat := leAt c 0x1E 2
def qCqP (c : List Byte) : Nat := leAt c 0x20 2 % 2
def qResv (c : List Byte) : Nat := leAt c 0x22 2
def qLast (c : List Byte) : Nat := leAt c 0x28 8
def qOut (c : List Byte) : Nat := leAt c 0x1C0 2
/-- The semaphore range: base and count. -/
def qRange (c : List Byte) : Nat × Nat := (nbits (leAt c 0x100 4) 0 12, nbits (leAt c 0x100 4) 16 7)
/-- The barrier contexts. -/
def qBars (c : List Byte) : List Nat :=
  let b := leAt c 0x104 4
  (if nbit b 6 then [nbits b 0 6] else []) ++ (if nbit b 14 then [nbits b 8 6] else [])

/-- Two semaphore ranges overlap. -/
def rangesMeet (a b : Nat × Nat) : Bool := decide (a.1 < b.1 + b.2 ∧ b.1 < a.1 + a.2)

/-- The submission ring holds undecided commands. -/
def qWork (c : List Byte) : Bool := decide (qSqHead c ≠ qSqTail c)

/-- QUE_STAT as it reads (R366). -/
def queStat (hw : Hw) : Nat :=
  hw.fw.res.length % 512 + (hw.fw.res.filter (fun r => qPinned r.ctx)).length * 2 ^ 16 + min 255 hw.fw.pwait.length * 2 ^ 24

/-- Page-ins whose transfers are complete enter the residency table, and their victims leave it (R343). -/
def pageSwap (hw : Hw) : Hw :=
  let ready := hw.fw.inc.filter (fun p => decide (p.stage = 2))
  let gone := ready.filterMap (fun p => p.victim)
  let new := ready.map (fun p => (⟨p.qid, p.ctx, hw.fw.clock⟩ : Res))
  { hw with fw := { hw.fw with
    res := hw.fw.res.filter (fun r => decide (r.qid ∉ gone)) ++ new
    inc := hw.fw.inc.filter (fun p => decide (p.stage ≠ 2)) } }

/-- The heartbeat word (R360). -/
def hbWord (hw : Hw) : Nat := hw.num 0x2003FFF000 8
def hbSeqOf (w : Nat) : Nat := nbits w 0 16
def hbInterval (w : Nat) : Nat := min 100 (nbits w 16 7)
def hbInstance (w : Nat) : Nat := nbits w 32 32

/-- The context that QCREATE makes (R341, R346); its semaphores and barrier contexts begin at zero. -/
def newCtx (hw : Hw) (c : Cmd) : List Byte :=
  let b (o : Nat) : Nat := leAt c.body o 4
  let q := b 0x10 % 16384
  leBytes (q + 2 ^ 16) 4 ++ leBytes (b 0x14) 4 ++ leBytes (b 0x18) 4 ++ leBytes (b 0x1C) 4 ++ leBytes (b 0x20) 4 ++ leBytes (b 0x24) 4 ++
  List.replicate 8 0 ++ leBytes 1 4 ++ leBytes (hbInstance (hbWord hw)) 4 ++ List.replicate 0xD8 0 ++
  leBytes (b 0x28) 4 ++ leBytes (b 0x2C) 4 ++ List.replicate 0xF8 0

/-- Let go of a queue's semaphores and barrier contexts. -/
def dropSync (c : List Byte) (hw : Hw) : Hw :=
  let r := qRange c
  let hw1 := (List.range r.2).foldl (fun h j => h.clrReg (allocReg (r.1 + j)) (2 ^ ((r.1 + j) % 32))) hw
  (qBars c).foldl (fun h k => (h.modBar k (fun b => ⟨b.gen, false, false, 0, 0, 0, []⟩)).setFld (barCfg k) 24 3 0) hw1

/-- What was fetched of the head of a queue's ring is of no use any more. -/
def dropHead (q : Nat) (hw : Hw) : Hw := bgDrop (.list q) (bgDrop (.cmd q) hw)

/-- The effect of an administrative command, and whether it could take effect: PIN waits for its queue's entry; q0 stays pinned
(R342). -/
def adminEffect (c : Cmd) (hw : Hw) : Hw × Bool :=
  let q := leAt c.body 0x10 4 % 16384
  let x := qCtx hw q
  if c.status ≠ 0 then (hw, true)
  else if c.typ = 0x10 then
    let hw1 := setQCtx q (newCtx hw c) (dropHead q hw)
    ({ hw1 with fw := { hw1.fw with made := setIns q hw1.fw.made } }, true)
  else if c.typ = 0x11 then
    let hw1 := if (resOf hw q).isSome then dropSync x hw else hw
    let hw2 := putQ q 0 4 (leAt x 0 4 % 2 ^ 16) hw1
    let hw3 := if ctxHeld hw q then post 0x19 0 (qAddr hw q) (qCtx hw2 q) hw2 else hw2
    ({ hw3 with fw := { hw3.fw with made := hw3.fw.made.filter (fun i => decide (i ≠ q)),
                                    res := hw3.fw.res.filter (fun r => decide (r.qid ≠ q)) } }, true)
  else if c.typ = 0x12 then
    if (resOf hw q).isNone then (hw, false) else (putQ q 0 4 (leAt x 0 4 ||| 2 ^ 17) hw, true)
  else (if q = 0 then hw else putQ q 0 4 (leAt x 0 4 - b2n (qPinned x) * 2 ^ 17) hw, true)

/-- An administrative command at a boundary: it has its effect, unless it was decided too late for this boundary, waits for an entry, or a
command before it for the same queue waits (`wait` lists their queues). -/
def adminOne (r : Hw × List Nat) (c : Cmd) : Hw × List Nat :=
  let k := leAt c.body 0x10 4 % 16384
  let e := adminEffect c r.1
  if k ∈ r.2 ∨ r.1.frame ≤ c.at_ ∨ !e.2 then (r.1, k :: r.2)
  else ({ e.1 with fw := { e.1.fw with cmds := e.1.fw.cmds.map (fun x => if x = c then { x with fin := true } else x) } }, r.2)

/-- Administrative commands decided before take effect at a boundary, those of one queue in their order (R351). -/
def adminApply (hw : Hw) : Hw :=
  ((hw.fw.cmds.filter (fun c => decide (0x10 ≤ c.typ) && !c.fin)).foldl adminOne (hw, [])).1

end Sys2Proof.Machine
end

