-- ==== Sys2Proof/Machine/CoreSys.lean ====
section
/-!
DEFINITION. The system instructions of a compute core (R100, R103, R104, R109, spec/03 class 0x1E) but for MFSR and MTSR, its start and
stop (R107, R108, R206, R258), its range engine and set-and-way maintenance (R205–R209), stride prefetch (R204) and the scrubbers
of the SRAMs (R195).
-/
namespace Sys2Proof.Machine

/-! ### System instructions -/

/-- TRAP enters the handler at CORE_TVEC, 4 cycles later; in the handler it is illegal (R103, R104). -/
def coreTrap (n : Fin 8) (w : W32) (hw : Hw) : Hw :=
  withIssue n .trap w hw (fun cyc pc hw =>
    if (hw.core n).inTrap then coreFault n (plainFault n cILLEGAL_INSTR pc 0 0) hw
    else
      let hw1 := (hw.setReg64 (coreReg n 0x28) ((pc + 4) % 2 ^ 41)).setReg (coreReg n 0x30) (BitVec.ofNat 32 (imm12Of w))
      jumpTo n (hw.reg64 (coreReg n 0x20)) cyc 4 (hw1.modCore n (fun c => { c with inTrap := true })))

/-- ERET returns to CORE_EPC, 3 cycles later (R82, R103). -/
def coreEret (n : Fin 8) (w : W32) (hw : Hw) : Hw :=
  withIssue n .eret w hw (fun cyc _ hw =>
    jumpTo n (hw.reg64 (coreReg n 0x28)) cyc 3 (hw.modCore n (fun c => { c with inTrap := false })))

/-- FENCE: the next instruction issues in the cycle after the last acknowledgement of an earlier store (R100). -/
def coreFence (n : Fin 8) (w : W32) (hw : Hw) : Hw :=
  withIssue n .fence w hw (fun cyc _ hw =>
    (advance n w cyc hw).modCore n (fun c =>
      { c with next := c.stores.foldl (fun m o => max m (o.ack + 1)) c.next, slot0 := none }))

/-- IDLE: the first instruction that is not its partner issues imm12 cycles later. Of two IDLEs that pair no rule says which count holds:
the model issues after the larger one and reports the second's, a DESIGN CHOICE (log entry 102). -/
def coreIdle (n : Fin 8) (w : W32) (hw : Hw) : Hw :=
  withIssue n .idle w hw (fun cyc _ hw =>
    (advance n w cyc hw).modCore n (fun c => { c with next := max c.next (cyc + imm12Of w), idle := some (cyc + imm12Of w) }))

/-- The partner of the instruction that issued last has not issued, and pairs with it (R81). -/
def partnerWaits (c : Core) : Bool :=
  match c.slot0 with
  | some (_, w0) => nbit c.pc 2 && pairs w0 (fetchWord c c.pc)
  | none => false

/-- The count of an IDLE ends, once its partner has issued: time reaches the cycle of the next issue (R81, R84). -/
def idleExpiry (n : Fin 8) (hw : Hw) : Hw :=
  let c := hw.core n
  match c.idle with
  | some t => if c.st ≠ .run ∨ partnerWaits c then hw else (hw.at t).modCore n (fun c => { c with idle := none })
  | none => hw

/-- HALT: nothing issues after it, and the core drains (R109). -/
def coreHalt (n : Fin 8) (w : W32) (hw : Hw) : Hw :=
  withIssue n .halt w hw (fun cyc _ hw =>
    (advance n w cyc hw).modCore n (fun c => { c with halting := true, slot0 := none }))

/-- RDFRM: the frame of the issue cycle. -/
def coreRdfrm (n : Fin 8) (w : W32) (hw : Hw) : Hw := coreK .rdfrm 2 (fun cyc => BitVec.ofNat 64 (cyc / 6)) n w hw

/-- RDPOS: the position within the frame. -/
def coreRdpos (n : Fin 8) (w : W32) (hw : Hw) : Hw := coreK .rdpos 1 (fun cyc => BitVec.ofNat 64 (cyc % 6)) n w hw

/-! ### Start and stop -/

/-- IDLE, STOPPED_FAULT or STOPPED_REQ. -/
def atRest (c : Core) : Bool := decide (c.st = .idle ∨ c.st = .stoppedFault ∨ c.st = .stoppedReq)

/-- ARMED, RUN or WAIT. -/
def inUse (c : Core) : Bool := decide (c.st = .armed ∨ c.st = .run ∨ c.st = .wait)

/-- A write of 1 to CORE_CTL.ARM by unit `u` (R107, R206, R471). -/
def coreArm (n : Fin 8) (u : Nat) (hw : Hw) : Hw :=
  let c := hw.core n
  let go := hw.reg64 (coreReg n 0x18)
  if !awake hw ∨ !atRest c ∨ !nbit (hw.reg (coreReg n 0x620)).toNat 0 then refuse u hw
  else if go ≤ hw.frame then
    (raise { cls := cSCHED_LATE, sev := 1, unit := n.val, q := .none, exp := go, act := hw.frame, syn := 0x70000000 } hw).modCore
      n (fun c => { c with lastClass := cSCHED_LATE })
  else hw.modCore n (fun c => { c with st := .armed })

/-- A write of 1 to CORE_CTL.STOP: the core issues nothing from the next cycle on and its array halts; an armed core returns to IDLE; a
wait that has taken nothing is abandoned at its SWAIT; a core that drains after HALT goes on to IDLE (R108, R109, R143, R325). -/
def coreStop (n : Fin 8) (hw0 : Hw) : Hw :=
  let hw := syncTo hw0.now hw0
  let c := hw.core n
  match c.st with
  | .armed => hw.setCore n { c with st := .idle }
  | .run => stopArray n hw.now (if c.halting then hw else hw.setCore n (c.stop .stopping hw.now))
  | .wait => stopArray n hw.now (hw.setCore n (c.stop .stopping hw.now))
  | _ => hw

/-- An armed core starts at the boundary of CORE_GOFRAME; away from an accepted phase boundary it returns to IDLE (R107, R258). -/
def coreGo (n : Fin 8) (hw : Hw) : Hw :=
  let go := hw.reg64 (coreReg n 0x18)
  if (hw.core n).st ≠ .armed ∨ go ≠ hw.frame then hw
  else if !atBoundary hw then
    (refuseWhy n.val 0x09 hw).modCore n (fun c => { c with st := .idle, lastClass := cADMISSION_REFUSED })
  else
    (hw.at (6 * go)).modCore n (fun c =>
      { c with st := .run, pc := hw.reg64 (coreReg n 0x10), next := 6 * go, slot0 := none, idle := none, grace := none, halting := false,
               wait := none })

/-- The cycle by which every result of the core has landed, every row has passed its chain, and every send has handed over its last beat
(R108). -/
def drainCyc (c : Core) : Nat :=
  let a := c.sb.foldl (fun m e => max m e.2.cyc) 0
  let b := c.rows.foldl (fun m e => max m e.cyc) (c.folios.toList.foldl (fun m f => max m (max f.landD.cyc f.landS.cyc)) a)
  c.sends.foldl (fun m s => s.beats.foldl (fun m x => max m x.1) m) b

/-- Nothing of the core's older instructions is outstanding, but for what time alone completes (R108). -/
def drained (c : Core) : Bool :=
  c.loads.isEmpty && c.stores.isEmpty && c.floads.isEmpty && c.restore.isNone && c.ops.isEmpty && c.seq.isNone && c.mmacs.isEmpty &&
    c.halt.isNone

/-- Everything issued before the stop or HALT has completed: STOPPED_REQ, or IDLE (R108, R109). -/
def coreDrainDone (n : Fin 8) (hw : Hw) : Hw :=
  let c := hw.core n
  if !(drained c) ∨ (c.st ≠ .stopping ∧ ¬ (c.st = .run ∧ c.halting)) then hw
  else
    let hw1 := sendsDue (rowsTo n (drainCyc c) (hw.at (drainCyc c)))
    hw1.modCore n (fun c =>
      if c.st = .stopping then { c with st := .stoppedReq }
      else if c.st = .run then { c with st := .idle, halting := false }
      else c)

/-- A write of CORE_ASEQ entry `j`, refused while the array is active (R141). -/
def aseqWrite (n : Fin 8) (j : Fin 16) (u : Nat) (v : W32) (hw : Hw) : Hw :=
  let off := coreReg n (0x200 + 4 * j.val)
  if (hw.core n).ast ≠ .idle then
    raiseBy { cls := cPROG_WRITE_ACTIVE, sev := 1, unit := u, addr := 0x4000000000 + off } hw
  else hw.setReg off v

/-! ### The range engine (R205, R207, R208) -/

def rngBase (hw : Hw) (n : Fin 8) : Nat := hw.reg64 (coreReg n 0x608)
def rngLen (hw : Hw) (n : Fin 8) : Nat := (hw.reg (coreReg n 0x610)).toNat

/-- Why a GO is refused (R207). -/
def rangeRefused (hw : Hw) (n : Fin 8) (op : Nat) : Bool :=
  let c := hw.core n
  c.range.isSome || decide (5 ≤ op ∨ rngBase hw n % 128 ≠ 0 ∨ rngLen hw n = 0) ||
  (decide (op = 3 ∨ op = 4) && inUse c) || (decide (op = 3) && decide (rngLen hw n % 128 ≠ 0 ∨ 0x10000 < rngLen hw n))

/-- The memory that IPRELOAD may read (R189, R205): LM of this core, CSM, BM outside the reserved region. -/
def codePlace (hw : Hw) (n : Fin 8) (r : RangeOp) : Bool :=
  (List.range (r.len / 128)).all (fun i => corePerm hw n (r.base + 128 * i))

/-- A write of 1 to CORE_RNG_CTL.GO with operation `op` by unit `u` (R207): BUSY from the next cycle on. DCLEAN and DCLINV wait for the
core's stores to lines of the range; the walk of DINV begins at once; IPRELOAD's reads wait for free slots. -/
def rangeGo (op : Nat) (n : Fin 8) (u : Nat) (hw : Hw) : Hw :=
  if rangeRefused hw n op then refuse u hw
  else
    let r0 : RangeOp := ⟨op, rngBase hw n, rngLen hw n, hw.now + 1, [], none, 0, 0⟩
    let own := (hw.core n).stores.filter (fun o => decide (hw.now ≤ o.ack) && o.lines.any (fun a => rangeLines r0 (a / 128)))
    let ids := if op = 1 ∨ op = 2 then own.map (fun o => o.id) else []
    let r := { r0 with stores := ids, walkAt := if op = 0 ∨ (op = 2 ∧ ids = []) then some (hw.now + 1) else none }
    let hw1 := (hw.setReg (coreReg n 0x614) (BitVec.ofNat 32 (2 * op))).setFld (coreReg n 0x618) 2 8 0
    let hw2 := (hw1.setFld (coreReg n 0x618) 0 1 1).modCore n (fun c => { c with range := some r })
    if op = 4 then hw2.clrReg (coreReg n 0x620) 1
    else if op = 3 ∧ codePlace hw n r then bgAdd (bgNew hw2 n.val (readAccs hw2 r.base r.len) (.code n.val)) hw2
    else hw2

/-- Code that IPRELOAD has read is in the instruction cache: its bytes, and its words in memory words `bads`, which the reads found
uncorrectable (R205). -/
def preload (n : Fin 8) (r : RangeOp) (code : List Byte) (bads : List Nat) (hw : Hw) : Hw :=
  let lost (a : Nat) : Bool := decide (wordOf (physOf hw a) ∈ bads)
  let bad := ((List.range (r.len / 8)).filter (fun i => lost (r.base + 8 * i))).map (fun i => (r.base + 8 * i) / 8)
  let hw1 := hw.modCore n (fun c =>
    { c with icode := (atAddr r.base code).foldl (fun t p => tabPut memReset p.1 p.2 t) [], ibad := bad, isoft := [] })
  let lo := r.base % 2 ^ 32 + 1
  ((hw1.setReg (coreReg n 0x620) (BitVec.ofNat 32 lo)).setReg (coreReg n 0x624) (BitVec.ofNat 32 (r.base / 2 ^ 32))).setReg
    (coreReg n 0x628) (BitVec.ofNat 32 r.len)

/-- BUSY clears, and DONE is set. -/
def rangeEnd (n : Fin 8) (hw : Hw) : Hw := (hw.setFld (coreReg n 0x618) 0 2 2).modCore n (fun c => { c with range := none })

/-- A fill that the range engine has marked, or will know as one at its bank slot, has not landed (R208). -/
def markedFill (hw : Hw) (r : RangeOp) (o : LoadOp) : Bool :=
  o.drop && !o.dst.isChain && rangeLines r (o.addr / 128) && (o.alloc || hw.beats.any (fun b => decide (b.id = o.id) && !b.fin))

/-- The operation in progress ends once its stores are acknowledged, its walk has ended and its marked fills have landed, or its code has
been read: BUSY clears, DONE is set (R208). -/
def rangeDone (n : Fin 8) (hw : Hw) : Hw :=
  match (hw.core n).range with
  | none => hw
  | some r =>
    if (hw.core n).stores.any (fun o => decide (o.id ∈ r.stores)) then hw
    else match r.op, r.walkAt with
      | 1, _ => rangeEnd n (hw.at r.start)
      | 3, _ =>
        if !codePlace hw n r then rangeEnd n (raiseBy { cls := cACCESS_RANGE, sev := 2, unit := n.val, addr := r.base } (hw.at r.start))
        else (match bgDone hw (.code n.val) with
          | some b => rangeEnd n (preload n r b.got b.bads (bgDrop (.code n.val) hw))
          | none => hw)
      | 4, _ => rangeEnd n ((hw.at (r.start + 512)).modCore n (fun c => { c with icode := [], ibad := [], isoft := [] }))
      | _, some w =>
        let h := walkTo n (w + walkLen r - 1) (hw.at (w + walkLen r))
        if (h.core n).loads.any (markedFill h r) then hw
        else rangeEnd n (h.at (((h.core n).range.map (fun x => x.fillEnd)).getD 0))
      | _, none => hw

/-! ### Set-and-way maintenance (R209) -/

/-- A write of CORE_SWCTL with GO: `op` on set and way of the word. -/
def swMaint (op : Nat) (n : Fin 8) (u : Nat) (set way : Nat) (hw : Hw) : Hw :=
  let c := hw.core n
  let k := 8 * (set % 64) + way % 8
  let hw1 := hw.setReg (coreReg n 0x630) (BitVec.ofNat 32 (op * 2 ^ 10 + set % 64 * 16 + way % 8 * 2))
  if !atRest c ∨ c.ast ≠ .idle ∨ c.range.isSome then refuse u hw
  else if op = 0 then hw1.setCore n (setLine c k none)
  else if op = 1 then (hw1.at (hw.now + 64)).setCore n { c with dlines := [] }
  else if op = 2 then
    match tabGet (fun _ => none) c.dlines k with
    | some d => hw1.setReg (coreReg n 0x634) (BitVec.ofNat 32 (d.tag % 2 ^ 28 + b2n d.perr * 2 ^ 30 + 2 ^ 31))
    | none => hw1.setReg (coreReg n 0x634) 0#32
  else
    let a := hw.reg64 (coreReg n 0x620) - hw.fld (coreReg n 0x620) 0 7 + 128 * k
    (hw1.clrReg (coreReg n 0x620) 1).setCore n { c with
      icode := c.icode.filter (fun e => decide (e.1 / 128 ≠ a / 128))
      ibad := c.ibad.filter (fun x => decide (x / 16 ≠ a / 128))
      isoft := c.isoft.filter (fun x => decide (x / 16 ≠ a / 128)) }

/-! ### Prefetch and scrubbing -/

/-- The next line of a learned stream, of which at most four are requested ahead: the request, if it may fill the cache (R200, R204). -/
def prefetchNext (n : Fin 8) (hw : Hw) : Option BgReq × Hw :=
  let c := hw.core n
  if !dcctl hw n 2 then (none, hw)
  else match c.streams.find? (fun s => decide (1 ≤ s.hits ∧ 1 ≤ s.stride ∧ s.stride ≤ 8 ∧ s.ahead < 4)) with
    | none => (none, hw)
    | some s =>
      let line := ((s.line : Int) + s.stride * (s.ahead + 1)).toNat
      let hw1 := hw.setCore n { c with streams := c.streams.map (fun x => if x = s then { s with ahead := s.ahead + 1 } else x) }
      match cacheable hw (line * 128) with
      | some bm =>
        if corePerm hw n (line * 128) && dcctl hw n (if bm then 1 else 0) then
          (some (bgNew hw n.val (readAccs hw (line * 128) 128) (.prefetch n.val line)), hw1)
        else (none, hw1)
      | none => (none, hw1)

/-- The SRAM scrubber reads and rewrites one line: an error that can be corrected is counted and gone; one that cannot stays (R195,
R486). -/
def sramScrub (key : Nat) (hw : Hw) : Hw :=
  match hw.soft.find? (fun w => decide (w = wordOf key) && decide (wordSize w = 8)) with
  | some w => countCorr .none { hw with soft := hw.soft.filter (fun x => decide (x ≠ w)) } w
  | none => hw

end Sys2Proof.Machine
end

