-- ==== Sys2Proof/Machine/Timing.lean ====
section
/-!
DEFINITION. The timing contract (spec/08): the meter (R269–R272), frames (R22), phase boundaries (R255–R258, R262, R273, R277), the
schedule hold (R279–R283), and slow-exact mode (R24, R284, R285).
-/
namespace Sys2Proof.Machine

/-- An interrupt source raises its pending bit (R416). -/
def irq (src : Nat) (hw : Hw) : Hw := hw.orReg (0xD00040 + 4 * (src / 32)) (2 ^ (src % 32))

/-! ### The meter (R269–R272) -/

/-- Stop the unit that a TOKEN_OVERRUN names (R272). -/
def overrunStop (r : FaultRec) (hw : Hw) : Hw :=
  if h : r.unit < 8 then stopArray ⟨r.unit, h⟩ hw.now (coreStopNow ⟨r.unit, h⟩ r hw)
  else if h : r.unit - 0x40 < 64 then
    carStop ⟨r.unit - 0x40, h⟩ ((raise r hw).modCar (r.unit - 0x40) (fun e => { e with lastClass := r.cls }))
  else raise r hw

/-- The meter has seen the present frame up to cycle `t`: it raises its fault in the first cycle that calls for it (R271). -/
def meterTo (t : Nat) (hw : Hw) : Hw :=
  match meterFirst hw t with
  | some x => Hw.asOf x.1 (overrunStop x.2) { hw with tok := hw.frame + 1 }
  | none => hw

/-- The meter when frame `f` has ended: LAST and MAX, and the tokens that METER reports (R430). -/
def meterFrame (f : Nat) (hw : Hw) : Hw :=
  let n := min 511 (frameTokens hw f (6 * f + 5))
  let hw1 := (hw.setFld 0x200020 0 9 n).setFld 0x200020 16 9 (max n (hw.fld 0x200020 16 9))
  { hw1 with
    fw := { hw1.fw with tokens := hw1.fw.tokens + n }
    cores := hw1.cores.map (fun c => { c with charges := c.charges.filter (fun x => decide (6 * f ≤ x.last)) })
    cars := hw1.cars.map (fun e => { e with charges := e.charges.filter (fun x => decide (f ≤ x.last)) }) }

/-! ### Frames -/

/-- Change the first element that `p` holds of. -/
def modFirst (p : Cmd → Bool) (f : Cmd → Cmd) : List Cmd → List Cmd
  | [] => []
  | c :: l => if p c then f c :: l else c :: modFirst p f l

/-- Change the command of a phase: the RUN at its place of its ring that has not ended; two commands may have one CID (R354). -/
def modCmd (p : Phase) (f : Cmd → Cmd) (hw : Hw) : Hw :=
  { hw with fw := { hw.fw with
    cmds := modFirst (fun c => decide (c.qid = p.qid ∧ c.idx = p.idx ∧ c.typ = 1) && !c.fin && !c.refused) f hw.fw.cmds } }

/-- The command whose phase runs in slow-exact mode (R353). -/
def markWall (hw : Hw) : Hw :=
  match hw.fw.phase with
  | none => hw
  | some p => if !p.running then hw else modCmd p (fun c => { c with wall := true }) hw

/-- KCP_TSTAT.FATAL (R414). -/
def kcFatal (hw : Hw) : Bool := nbit (hw.reg 0xD00004).toNat 3

/-- Firmware runs: KC is released, is not halted, and is not in its archive routine. -/
def fwRuns (hw : Hw) : Bool := hw.kc.on && !hw.kc.halted && !kcFatal hw

/-- The smallest Δ of R280. -/
def holdDelta (f now : Nat) : Nat := (now + 2 - f + 4159) / 4160 * 4160

/-- Stop every unit of the phase: cores, carrels, transfer channels (R108, R229, R312). -/
def stopUnits (hw : Hw) : Hw :=
  let hw1 := (List.finRange 8).foldl (fun h n => coreStop n h) hw
  let hw2 := (List.finRange 64).foldl (fun h c => carStop c h) hw1
  (List.finRange 64).foldl (fun h k => if (h.te k.val).st = .run ∨ (h.te k.val).st = .wait then tenStop k h else h) hw2

/-- The hold ends with its phase (R281). -/
def holdEnd (hw : Hw) : Hw := stopUnits { hw with hold := { hw.hold with held := false, pend := false, par := none } }

/-- The reload of the halted array has passed its check (R145). -/
def holdScrubbed (hw : Hw) : Bool :=
  match hw.hold.par with
  | some (n, _) => fsValid hw (Fin.ofNat 8 n)
  | none => false

/-- Firmware aborts a hold that it may not release: the scrub has failed, or Δ would exceed 8,320 frames (R282). It does so at the first
boundary at which that is so: a DESIGN CHOICE (log entry 90). -/
def firmHold (hw : Hw) : Hw :=
  if fwRuns hw ∧ hw.hold.held ∧ !hw.hold.pend ∧ (!holdScrubbed hw ∨ 8320 < holdDelta (hw.reg64 0x300030) hw.frame) then holdEnd hw else hw

/-- FRAME_BOUNDARY: TIM_FRAME counts (R22); the meter and the overdue watch see the frame that ended (R271, R337), with the semaphore block
come to its end; slow-exact mode counts its frames without TEMERG (R284), and the frames it takes are two of the heartbeat's time (R362). -/
def frameBoundary (hw : Hw) : Hw :=
  if !hw.clk.lock then hw
  else
    let t := 6 * (hw.frame + 1)
    let hw1 := watchFrame (syncTo t (meterFrame hw.frame ((meterTo (t - 1) hw).at t)))
    let low := if hw.clk.slow ∧ !hw.clk.temerg then hw.clk.lowFrames + 1 else 0
    let hw2 := { hw1 with
      frame := hw.frame + 1
      clk := { hw1.clk with lowFrames := low }
      fw := { hw1.fw with hbClock := hw1.fw.hbClock + (if hw.clk.slow then 2 else 1) } }
    firmHold (farTo (if hw.clk.slow then markWall (hw2.orReg 0x30001C 4) else hw2))

/-! ### Phase boundaries -/

/-- The handoff list that TIM_HOFF_BASE and TIM_HOFF_CNT name (R273). -/
def handoffEntry (hw : Hw) (a : Nat) : Handoff :=
  let w (i : Nat) := hw.num (a + 4 * i) 4
  ⟨(w 1 % 512 * 2 ^ 32 + w 0) / 128, nbits (w 2) 0 24, nbits (w 2) 24 8, nbits (w 3) 0 8, nbits (w 3) 8 7, nbits (w 3) 15 17⟩

def handoffList (hw : Hw) : List Handoff :=
  (List.range (hw.fld 0x300048 0 7)).map (fun i => handoffEntry hw (hw.reg64 0x300040 + 16 * i))

/-- Why the cluster refuses a boundary, if it does (R256, R273, R277; the reasons of spec/08). -/
def boundaryReason (hw : Hw) : Option Nat :=
  let peak := hw.fld 0x200004 16 9
  let masks := hw.fld 0x200008 16 8 ||| hw.fld 0x200008 24 8
  if nbit (hw.reg TIM_CHK_STAT).toNat 0 then some 0x07
  else if hw.fld 0x200000 16 9 < peak then some 0x02
  else if masks &&& hw.coreEn ≠ masks then some 0x03
  else if 64 < hw.fld 0x300048 0 7 ∨ (handoffList hw).any (fun h => decide (64 ≤ h.ref ∧ h.ref < 127)) then some 0x0A
  else none

/-- Units armed for the present frame return to IDLE (R256). -/
def disarmUnits (hw : Hw) : Hw :=
  let hw1 := (List.finRange 8).foldl (fun h n =>
    if (h.core n).st = .armed ∧ h.reg64 (coreReg n 0x18) = h.frame then h.modCore n (fun c => { c with st := .idle }) else h) hw
  (List.range 64).foldl (fun h c =>
    if (h.car c).st = .armed ∧ h.reg64 (carReg c 0x10) = h.frame then h.modCar c (fun e => { e with st := .idle }) else h) hw1

/-- A refused boundary latches nothing (R256). -/
def refuseBoundary (why : Nat) (hw : Hw) : Hw :=
  let hw1 := refuseWhy 0xF0 why (disarmUnits hw)
  irq 0x08 ((hw1.clrReg 0x300018 1).orReg 0x30001C 1)

/-- An epoch that waits becomes current at the first boundary at or after its frame (R262, R425). -/
def epochBoundary (hw : Hw) : Hw :=
  if nbit (hw.reg 0xD0018C).toNat 0 ∧ hw.reg64 0xD00180 ≤ hw.frame then
    { (applyNext true hw).setReg 0xD0018C 2#32 with fw := { hw.fw with epochTo := 0 } }
  else hw

/-- What an accepted boundary latches (R67, R255, R273, R276, R293, R479): budget, limit and masks, the mode of each core, the handoff list,
the start of the phase, its queue, both copies of every checker in service, and the prepared phase runs. What rows and slices of the
cycles before set stands under the old mode (R74). -/
def latchBoundary (hw : Hw) : Hw :=
  let hw0 := (List.finRange 8).foldl (fun h n => rowsTo n (6 * h.frame - 1) h) hw
  let hw1 := { hw0 with handoff := handoffList hw, chkOff := [], chkBoth := [] }.clrReg TIM_CHK_STAT 6
  let hw2 := (hw1.setFld 0x200000 0 9 (hw.fld 0x200000 16 9)).setFld 0x200004 0 9 (hw.fld 0x200004 16 9)
  let hw3 := (hw2.setFld 0x200008 0 16 (hw.fld 0x200008 16 16)).setReg64 0x200018 (hw.reg64 0x200010)
  let hw4 := ((hw3.setReg64 TIM_PHASE_START hw.frame).clrReg 0x300018 1).setReg FLT_QID (hw.reg 0xB00008)
  let hw5 := (List.finRange 8).foldl (fun h n => h.setFld (coreReg n 0x400) 0 1 (h.fld (coreReg n 0x400) 1 1)) hw4
  let run (p : Phase) : Phase := if p.start = hw.frame ∧ !p.running then { p with running := true } else p
  { hw5 with
    rcd := { hw5.rcd with phaseSeen := true }
    hold := { hw5.hold with errors := 0, par := if hw.hold.held then hw.hold.par else none, delta := if hw.hold.held then hw.hold.delta else 0 }
    fw := { hw5.fw with phase := hw5.fw.phase.map run } }

/-- An accepted boundary: it latches, a waiting epoch, the page-ins and the administrative commands take effect (R255, R262, R343, R351). -/
def acceptBoundary (hw0 : Hw) : Hw := irq 0x08 (adminApply (pageSwap (epochBoundary (latchBoundary (settle hw0.now hw0)))))

/-- PHASE_BOUNDARY: TIM_FRAME equals TIM_PHASE_NEXT while ARMED is 1 (R255). -/
def phaseBoundary (hw : Hw) : Hw :=
  if !nbit (hw.reg 0x300018).toNat 0 ∨ hw.reg64 0x300008 ≠ hw.frame then hw
  else match boundaryReason hw with
    | some r => refuseBoundary r hw
    | none => acceptBoundary hw

/-- A write of 1 to TIM_PHASE_CTL.ARMED by unit `u` (R257, R471). -/
def phaseArm (u : Writer) (hw : Hw) : Hw :=
  if !awake hw then refuse u.unit hw
  else if hw.reg64 0x300008 ≤ hw.frame then
    raise { cls := cSCHED_LATE, sev := 1, unit := u.unit, q := .none, exp := hw.reg64 0x300008, act := hw.frame, syn := 0x70000001 } hw
  else hw.orReg 0x300018 1

/-- A write of 1 to TIM_PHASE_CTL.DISARM. -/
def phaseDisarm (hw : Hw) : Hw := hw.clrReg 0x300018 1

/-! ### The schedule hold (R279–R283) -/

/-- HOLD_BEGIN: the first frame boundary after a recoverable skew parity error (R279). -/
def holdBegin (hw : Hw) : Hw :=
  match hw.hold.due with
  | some f =>
    if hw.hold.held ∨ hw.frame ≤ f then hw
    else
      let hw1 := syncTo (6 * hw.frame) hw
      { hw1 with hold := { hw1.hold with due := none, held := true, pend := false, delta := 0 } }.setReg64 0x300030 hw.frame
  | none => hw

/-- Commands whose promise a move of the calendar carries along: RUNs not run to their end, what waits for a boundary, and a SIGNAL behind
such a RUN of its queue, whose promise it has (R351, R353). -/
def movesWith (l : List Cmd) (c : Cmd) : Bool :=
  if c.typ = 2 then !c.refused && (l.takeWhile (fun x => decide (x ≠ c))).any (fun x => decide (x.qid = c.qid ∧ x.typ = 1) && !x.fin) else !c.fin

/-- The calendar moves by `d`: HOLDX of every command that it carries along grows, and the phases of RUNs move (R353). -/
def moveCalendar (d : Nat) (hold : Bool) (hw : Hw) : Hw :=
  let move (c : Cmd) : Cmd :=
    if !movesWith hw.fw.cmds c then c
    else if c.typ ≠ 1 then { c with holdx := c.holdx + d }
    else { c with allow := c.allow + d, holdx := c.holdx + d, hold := c.hold || hold }
  { hw with fw := { hw.fw with cmds := hw.fw.cmds.map move, calEnd := hw.fw.calEnd + d } }

/-- A write of 1 to TIM_HOLD_CTL.RELEASE (R280, R283, R353). -/
def holdRelease (u : Writer) (hw : Hw) : Hw :=
  if !hw.hold.held ∨ hw.hold.pend ∨ !holdScrubbed hw then refuse u.unit hw
  else
    let f := hw.reg64 0x300030
    let d := holdDelta f hw.frame
    let hw1 := { hw with hold := { hw.hold with pend := true, delta := d } }.setReg64 0x300038 (f + d)
    let longer (p : Phase) : Phase := { p with len := p.len + d }
    moveCalendar d true { hw1 with fw := { hw1.fw with phase := hw1.fw.phase.map longer } }

/-- A write of 1 to TIM_HOLD_CTL.ABORT (R281). -/
def holdAbort (u : Writer) (hw : Hw) : Hw := if !hw.hold.held then refuse u.unit hw else holdEnd hw

/-- The halted array of core `n` relaunches, issued at cycle `t` (R146, R280). -/
def holdRelaunch (n : Fin 8) (t : Nat) (hw : Hw) : Hw :=
  let fs := (hw.reg (coreReg n FSTART)).toNat
  let aw := hw.reg (coreReg n ALAUNCH)
  let pc := (hw.core n).pc
  let clear (hw : Hw) : Hw := (hw.clrReg (coreReg n FSTART) 0x80000000)
  if !nbit fs 31 ∨ (hw.core n).ast ≠ .stalled then hw
  else if mmS aw then
    seqEntry n aw pc t (nbits fs 16 4) true (nbits fs 0 7) (fun r hw => coreStopNow n r hw) hw clear
  else
    let x : MmaCtx := ⟨pc, t, t, none, none, true, nbits fs 0 7, none⟩
    withMma n x (plainMma aw) (fun r hw => coreStopNow n r hw) hw (fun op ss d hw => launchOp n op ss d (clear hw))

/-- How far a hold of `d` cycles moves the start of a descriptor that a channel holds, `head` if it is the next (R280, R313): not that of a
paced one, nor one that counts from a take still to come or from a predecessor that is moved itself. -/
def holdShift (hw : Hw) (c : TeCh) (d : Nat) (head : Bool) (x : Desc) : Nat :=
  let moved := if head ∧ c.anchor.isSome then true
    else if dWait x then false
    else decide (dRef x ≠ 0) || head
  if dExact hw x ∧ moved then x.shift + d else x.shift

/-- HOLD_RESUME at F + Δ: every issue that had not taken place moves by Δ; the faulted core runs again, and its array relaunches
(R280). The takes of the hold's cycles are over before (R283). -/
def holdResume (hw : Hw) : Hw :=
  if !hw.hold.held ∨ !hw.hold.pend ∨ hw.frame < hw.reg64 0x300038 then hw
  else
    let hw0 := syncTo (6 * hw.frame) (hw.at (6 * hw.frame))
    let d := 6 * hw.hold.delta
    let bad : Nat := match hw.hold.par with
      | some (n, _) => n
      | none => 8
    let core (i : Nat) (c : Core) : Core :=
      if c.st = .run ∨ (i = bad ∧ c.st = .stoppedFault) then
        { c with st := .run, next := c.next + d, slot0 := c.slot0.map (fun s => (s.1 + d, s.2)), idle := c.idle.map (fun t => t + d) }
      else c
    let car (e : Car) : Car := if e.st = .run then { e with last := e.last + d / 2 } else e
    let te (c : TeCh) : TeCh :=
      { c with held := c.held.mapIdx (fun i x => { x with shift := holdShift hw0 c d (decide (i = 0)) x }) }
    let hw1 := { hw0 with
      cores := hw0.cores.mapIdx core, cars := hw0.cars.map car, tes := hw0.tes.map te
      hold := { hw0.hold with held := false, pend := false, par := none } }
    match hw.hold.par with
    | some (n, t) => holdRelaunch (Fin.ofNat 8 n) (t + d) hw1
    | none => hw1

/-! ### Slow-exact mode (R24, R284, R285) -/

/-- A request for a mode takes effect at the second frame boundary after it (R24). One for the mode that will be in force then, by the
requests before it, asks for no change. -/
def clockRequest (slow : Bool) (hw : Hw) : Hw :=
  if (hw.clk.changes.getLast?).elim hw.clk.slow (fun x => x.1) = slow then hw
  else { hw with clk := { hw.clk with changes := hw.clk.changes ++ [(slow, hw.frame + 2)] } }

/-- A write of 1 to CLK_SLOW_CTL.ENTER. -/
def slowEnter (hw : Hw) : Hw := clockRequest true hw

/-- TEMERG is asserted. -/
def temergAssert (hw : Hw) : Hw := clockRequest true { hw with clk := { hw.clk with temerg := true, lowFrames := 0 } }

/-- TEMERG is deasserted. -/
def temergDeassert (hw : Hw) : Hw := { hw with clk := { hw.clk with temerg := false, lowFrames := 0 } }

/-- 4,160 consecutive frames in slow-exact mode without TEMERG, and HOLD 0: the cluster asks to return (R284), once. -/
def slowExitTimer (hw : Hw) : Hw :=
  if hw.clk.slow ∧ !hw.clk.temerg ∧ 4160 ≤ hw.clk.lowFrames ∧ !nbit (hw.reg 0x100004).toNat 1 ∧ hw.clk.changes.all (fun x => x.1) then
    clockRequest false hw
  else hw

/-- A requested mode takes effect (R24, R285). -/
def enterMode (slow : Bool) (hw : Hw) : Hw :=
  let n := if slow then satInc hw.clk.slowCount 255 else hw.clk.slowCount
  let hw1 := { hw with clk := { hw.clk with slow := slow, slowCount := n, lowFrames := 0 } }
  if slow then hw1.orReg 0x30001C 4 else hw1

/-- CLOCK_MODE_SWITCH: the requests whose boundary has come take effect, oldest first. -/
def clockSwitch (hw : Hw) : Hw :=
  let due := hw.clk.changes.filter (fun x => decide (x.2 ≤ hw.frame))
  due.foldl (fun h x => enterMode x.1 h) { hw with clk := { hw.clk with changes := hw.clk.changes.filter (fun x => decide (hw.frame < x.2)) } }

end Sys2Proof.Machine
end

