-- ==== Sys2Proof/Machine/Firm.lean ====
section
/-!
DEFINITION. What firmware's duties share (spec/13, spec/15): when firmware runs, mailbox messages that wait their turn (R423), ledger
and trace points (R438, R439), the bytes of a fault record (R478), cluster states (R462) and entering ARCHIVING (R490–R492).
-/
namespace Sys2Proof.Machine

def setState (st : Nat) (hw : Hw) : Hw := hw.setFld 4 0 4 st

/-! ### Mailboxes -/

/-- The barrier hub holds SCH's mailbox: its message is there, or one waits for it (R424). -/
def hubHolds (hw : Hw) : Bool :=
  decide (hw.sync.schq ≠ []) || (outBusy hw 2 && decide (hw.fld (mbox 2) 0 8 = 0x91 ∨ hw.fld (mbox 2) 0 8 = 0x94))

/-- Firmware can send to mailbox `m`: the outbound area is free (R423), and the hub holds neither of SCH's and PMC's (R424). -/
def mailFree (hw : Hw) (m : Nat) : Bool := !outBusy hw m && (decide (m = 0) || !hubHolds hw)

/-- The first message of firmware that waits for mailbox `m` is sent, if it can be. -/
def mailNext (m : Nat) (hw : Hw) : Hw :=
  match hw.fw.mailq.find? (fun x => decide (x.1 = m)) with
  | some x => if mailFree hw m then postMail m x.2.1 x.2.2 { hw with fw := { hw.fw with mailq := hw.fw.mailq.erase x } } else hw
  | none => hw

/-- Firmware sends a message to mailbox `m`, behind those that wait for it. -/
def fwMail (m typ : Nat) (words : List Nat) (hw : Hw) : Hw :=
  mailNext m { hw with fw := { hw.fw with mailq := hw.fw.mailq ++ [(m, typ, words)] } }

/-! ### Ledger and trace (R438, R439) -/

/-- A trace record, if the point is enabled and the ring has a size that R440 allows; KCP_TRACE_WIDX counts it once it is written. Its two
arguments are free values. -/
def tracePoint (pt : Nat) (hw : Hw) : Hw :=
  let lg := hw.fld 0xD00118 0 5
  if !nbit (hw.reg (0xD00140 + 4 * (pt / 32))).toNat (pt % 32) ∨ lg < 12 ∨ 24 < lg then hw
  else
    let w := (hw.reg 0xD0011C).toNat + posted hw 0xD0011C
    post 0x18 0xD0011C (hw.reg64 0xD00110 + w * 16 % 2 ^ lg) (leBytes hw.frame 8 ++ leBytes pt 1 ++ leBytes (Config.freeNat hw.free) 7) hw.draw

/-- Firmware writes a ledger entry, whose SEQ is 0 in `l`: its body first, and KCP_LEDGER_SEQ counts it once it is written. -/
def ledgerWrite (lg : Nat) (hw : Hw) (l : List Byte) : Hw :=
  let q := (hw.reg 0xD0010C).toNat + posted hw 0xD0010C
  post 0x18 0xD0010C (hw.reg64 0xD00100 + q * 32 % 2 ^ lg) (overlay l 8 (leBytes q 4)) hw

/-- The entries that firmware owes, once it has placed a ledger of a size that R440 allows. -/
def ledgerOwed (hw : Hw) : Hw :=
  let lg := hw.fld 0xD00108 0 5
  if lg < 12 ∨ 20 < lg then hw else hw.fw.owed.foldl (ledgerWrite lg) { hw with fw := { hw.fw with owed := [] } }

/-- A ledger entry of a point with its 16 bytes of data, those of a fault record or not. -/
def ledgerBody (pt : Nat) (fault : Bool) (d : List Byte) (hw : Hw) : Hw :=
  let l := leBytes hw.frame 8 ++ leBytes 0 4 ++ leBytes (pt + b2n fault * 0x100) 4 ++ d
  ledgerOwed { hw with fw := { hw.fw with owed := hw.fw.owed ++ [l] } }

/-- A ledger entry: `data` are bytes 0–15 of a fault record, or none for the point's arguments, which are free values. -/
def ledgerEntry (pt : Nat) (data : Option (List Byte)) (hw : Hw) : Hw :=
  match data with
  | some l => ledgerBody pt true (bytesAt l 0 16) hw
  | none => ledgerBody pt false (leBytes (Config.freeNat hw.free) 16) hw.draw

/-- Firmware passes a ledger point. -/
def ledger (pt : Nat) (hw : Hw) : Hw := tracePoint pt (ledgerEntry pt none hw)

/-! ### Fault records as bytes (R478) -/

/-- Bytes 0x00–0x2B of a record. -/
def recHead (r : FaultRec) (qw : Nat) : List Byte :=
  leBytes (r.cls % 256 + r.sev % 4 * 2 ^ 8 + r.unit % 256 * 2 ^ 16 + r.ch % 4 * 2 ^ 24) 4 ++ leBytes qw 4 ++
  leBytes (r.instr % 2 ^ 41) 8 ++ leBytes r.exp 8 ++ leBytes r.act 8 ++ leBytes (r.addr % 2 ^ 59) 8 ++ leBytes r.syn 4

/-- A whole record with its SEQ. -/
def recBytes (seq : Nat) (e : QueuedRec) : List Byte :=
  let b := recHead e.fr e.qword ++ leBytes seq 4 ++ leBytes e.rframe 8 ++ leBytes (min 0xFFFF e.dropped) 4
  b ++ leBytes (crc32 b) 4

/-- The latest cluster-fatal record: in the recorder's queue, or the last one written. -/
def triggerRec (hw : Hw) : List Byte :=
  let w := (hw.reg FLT_WIDX).toNat
  let all := (hw.rcd.queue.mapIdx (fun i e => (i, e))).filter (fun p => decide (p.2.fr.sev = 3))
  match all.getLast? with
  | some p => recBytes (w + p.1) p.2
  | none => if hw.rcd.fatal = [] then List.replicate 64 0 else hw.rcd.fatal

/-! ### Cluster states -/

/-- Firmware sets RUN while it holds an accepted command that has not completed, and READY otherwise (R462). -/
def fwState (hw : Hw) : Hw :=
  if cluState hw = 4 ∨ cluState hw = 5 then setState (if hw.fw.cmds.all (fun c => c.refused) then 4 else 5) hw else hw

/-- Every context that the queue engine holds goes back to the store, in free slots (R491). -/
def writeBack (hw : Hw) : Hw :=
  let hw1 := hw.fw.res.foldl (fun h r => post 0x19 0 (qAddr hw r.qid) r.ctx h) hw
  hw.fw.inc.foldl (fun h p => post 0x19 0 (qAddr hw p.qid) p.ctx h) hw1

def Hw.modKc (hw : Hw) (f : Kc → Kc) : Hw := { hw with kc := f hw.kc }
def KCP_PROG : Nat := 0xD00020

/-- No access of KC waits any more. -/
def kcDrop (hw : Hw) : Hw :=
  { hw with bg := hw.bg.filter (fun b => match b.what with
    | .kc _ => false
    | _ => true) }

/-- The archive routine begins, where KC can run it: it is counted, and abandons the micro-routine under way (R493). -/
def archiveBegin (hw : Hw) : Hw :=
  if !hw.kc.on ∨ hw.kc.halted then hw
  else
    let hw1 := ((kcDrop hw).modKc (fun k => { k with micro := false })).setReg KCP_PROG 0#32
    hw1.setReg 0xB00304 (hw1.reg 0xB00304 + 1#32)

/-- The cluster enters ARCHIVING (R490–R492); a further cause while it archives or has failed starts nothing. -/
def enterArchiving (hw : Hw) : Hw :=
  if cluState hw = 8 ∨ cluState hw = 9 then hw
  else
    let trig := triggerRec hw
    let hw0 := stopUnits { hw with boot := { hw.boot with before := cluState hw, trigger := trig, arcWidx := (hw.reg FLT_WIDX).toNat } }
    let hw1 := (List.finRange 64).foldl (fun h k => tenStop k h) hw0
    let hw2 := writeBack (hw1.clrReg 0x300018 1)
    let hw3 := hw2.setReg 0xB00300 (BitVec.ofNat 32 (1 + b2n hw.boot.pwrfail * 8 + hw.fld 0xB00300 4 1 * 16 + leAt trig 0 1 * 0x100))
    fenceWaiting (sendFence (archiveBegin (setState 8 (hw3.setReg64 0xB00308 hw.frame))))

/-! ### Power states -/

/-- OFF was accepted (R475). -/
def offAccepted (hw : Hw) : Bool := decide (hw.boot.pwrReq = some 3) || nbit (hw.reg 0x200034).toNat 3

/-- What starts the exit from SHELVED (R474). -/
def exitTrigger (hw : Hw) : Hw :=
  if pwrState hw = 2 ∧ hw.boot.exitReq.isNone then
    { hw with boot := { hw.boot with exitReq := some hw.frame } }.setFld 0x200034 2 1 1
  else hw

end Sys2Proof.Machine
end

