-- ==== Sys2Proof/Machine/Resets.lean ====
section
/-!
DEFINITION. Resets (R152, R153, R210–R212, R314, R464–R468, R483, R522, R524): what each unit is right after a reset, the machine right
after a cold reset, and what the warm, forced, cold and per-core resets do to the machine.
-/
namespace Sys2Proof.Machine

/-! ### Units right after a reset -/

def noLand : Land := ⟨0, 0, false, false⟩

def folioFresh : Folio := ⟨0#32, [], [], false, false, noLand, noLand, [], []⟩

def bankFresh : Bank := ⟨false, none, 0, [], noLand, 0, 0, []⟩

def slotFresh : ChainSlot := ⟨false, [], noLand, [], false⟩

/-- A compute core right after a reset; the registers g, v and p, for which the spec states no value, are zero (log entry 2). -/
def coreFresh : Core :=
  { st := .idle, inTrap := false, lastClass := 0, pc := 0, next := 0, slot0 := none, idle := none, grace := none,
    halting := false, anchor := 0,
    g := Vector.replicate 32 0#64, v := Vector.replicate 32 0#1024, p := Vector.replicate 8 0#64, sb := [],
    divFree := 0, vdivFree := 0, fpSet := (0, 0), chnSet := (0, 0), rdPort := 0, wrPort := [], wait := none, loads := [], stores := [], icode := [], ibad := [],
    isoft := [], dlines := [], dclock := 0, streams := [], range := none, folios := Vector.replicate 8 folioFresh,
    banks := Vector.replicate 2 bankFresh, floads := [], restore := none, ops := [], rows := [], runs := [], seq := none, mmacs := [], ast := .idle, arrFree := 0,
    ardFree := 0, scrubEnd := 0, skewIdx := 0, halt := none, slots := Vector.replicate 4 slotFresh, sends := [], charges := [] }

def carFresh : Car := ⟨.idle, 0, 0, 0, false, none, [], [], []⟩

def teFresh : TeCh := ⟨.idle, [], [], none, none, 0, none⟩

def syncFresh : Sync := ⟨[], [], Vector.replicate 64 noBar, [], [], none, 0⟩

/-- The ports after a reset: every buffer of the partner is free (log entry 6). -/
def netFresh : Net :=
  ⟨Vector.replicate 4 ⟨128, 128, false, 0, 0, []⟩, [], Vector.replicate 32 noChan, [], false, [], Vector.replicate 2 false, false,
    Vector.replicate 2 ⟨31, 0⟩, false⟩

/-- KC held in reset; its registers, for which the spec states no value, are zero (log entry 2). -/
def kcFresh : Kc :=
  ⟨false, false, false, 0, Vector.replicate 8 0#64, Vector.replicate 64 0#64, Vector.replicate 64 0#64, Vector.replicate 24 0#64, false,
    false⟩

def fwFresh : Fw :=
  { res := [], inc := [], pwait := [], made := [], clock := 0, round := [], last := 0, cmds := [], calEnd := 0, phase := none,
    attached := none, lastInst := 0, hbSeq := 0, hbClock := 0, hbAt := 0, orphan := false, hseq := 0, orphanFrame := 0,
    readyFrame := 0, ready := false, detach := false, lastDone := 0, budget := none, budgetAt := 0, temp := none, tempAt := 0,
    tokens := 0, safe := false, epochNum := 0, epochTo := 0, firstReady := false, slotVersion := 0, mailq := [], retire := [], owed := [], loading := none }

def holdFresh : Hold := ⟨none, false, false, 0, 0, none⟩

def bootFresh : Boot := ⟨false, false, 0, false, none, [], none, none, false, 0, [], 0, false, false, false⟩

/-- Test-logic-reset selects IDCODE (R518). -/
def tapFresh : Tap := ⟨1, 0, 0, 0, [], 0, false⟩

/-- The machine with PORST_N low: straps not yet sampled, PLL not locked (spec/14, "Start sequence"). What the spec leaves undefined at
a cold reset is zero (log entry 2). -/
def hwCold : Hw :=
  { frame := 0, now := 0, free := 0, nid := 0, regs := [], rlatch := [], wlatch := [], mem := [], bad := [], soft := [],
    beats := [], got := [], rcd := ⟨[], 0, false, false, []⟩, clk := ⟨false, false, [], 0, false, 0⟩, coreEn := 0xFF, tcmSwap := false,
    active := [], shadow := [], bmc := ⟨false, false, [], [], [], [], none, false⟩, hold := holdFresh, handoff := [], chkOff := [],
    chkBoth := [], chkErr := [], cores := Vector.replicate 8 coreFresh, cars := Vector.replicate 64 carFresh, tes := Vector.replicate 64 teFresh,
    tenDone := (0, []), bg := [], sync := syncFresh, net := netFresh, kc := kcFresh, fw := fwFresh, boot := bootFresh, tap := tapFresh, tok := 0, out := [] }

/-! ### Cores -/

/-- Keep the stored registers that `keep` names; the others return to their reset values. -/
def keepRegs (keep : Nat → Bool) (hw : Hw) : Hw := { hw with regs := hw.regs.filter (fun e => keep e.1) }

/-- A core after a reset with folios and accumulators whose contents are not defined (R152): free values. -/
def coreAfter (k : Nat) : Core :=
  let tab (m i : Nat) : List (Nat × Byte) :=
    (Config.freeBytes (k + i)).foldl (fun t p => tabPut (fun _ => 0) (p.1 % m) p.2 t) []
  let bank (i : Nat) : List (Nat × Nat) :=
    (Config.freeCells (k + i)).foldl (fun t p => tabPut (fun _ => 0) (p.1 % 4096) (p.2 % 2 ^ 58) t) []
  { coreFresh with
    folios := coreFresh.folios.mapIdx (fun i f => { f with data := tab 16384 (2 * i), strip := tab 512 (2 * i + 1) })
    banks := coreFresh.banks.mapIdx (fun i b => { b with cells := bank (16 + i) }) }

/-- Reset core `n`: its state, and its CORE block but for CORE_DCSTAT.SB_LOST and LOST_LINES (R464, R468). Its sends have no owner
any more, and nothing of it waits for a slot. -/
def coreReset (n : Fin 8) (hw : Hw) : Hw :=
  let lost := hw.reg (coreReg n 0x604) &&& 0x8000FFFF#32
  let hw1 := keepRegs (fun o => decide (o < coreReg n 0 ∨ coreReg n 0x100000 ≤ o)) hw
  let hw2 := { hw1.setReg (coreReg n 0x604) lost with
    free := hw.free + 32
    bg := hw1.bg.filter (fun b => match b.what with
      | .prefetch c _ => decide (c ≠ n.val)
      | .code c => decide (c ≠ n.val)
      | _ => true)
    net := { hw1.net with txns := hw1.net.txns.filter (fun t => match t.owner with
      | .send c _ => decide (c ≠ n.val)
      | _ => true) } }
  hw2.setCore n (coreAfter hw.free)

/-- Write-buffer entries and queue lines of core `n` (R211): a store of one line is held until it is acknowledged, a line of another
operation until its beat, a line of a send until it is handed to the port (log entry 91). -/
def buffered (hw : Hw) (n : Fin 8) : Nat :=
  let c := hw.core n
  let one := (c.stores.filter (fun s => decide (hw.now < s.ack ∧ s.lines.length = 1))).map (fun s => (s.id, s.lines.headD 0 / 128))
  let many := (hw.beats.filter (fun b => decide (b.unit = n.val) && b.wr && !b.fin)).map (fun b => (b.id, b.addr / 128))
  (one ++ many).eraseDups.length + (c.sends.map (fun s => s.beats.length)).sum

/-- Record what a forced reset discards from core `n` (R211). -/
def countLost (n : Fin 8) (hw : Hw) : Hw :=
  let k := buffered hw n
  if k = 0 then hw else hw.setReg (coreReg n 0x604) (BitVec.ofNat 32 (2 ^ 31 + hw.fld (coreReg n 0x604) 16 8 * 2 ^ 16 + min 0xFFFF k))

/-! ### Warm and forced resets -/

/-- Channel `k` abandons its descriptors, which DISCARD counts (R314). -/
def abandon (k : Nat) (hw : Hw) : Hw :=
  let c := hw.te k
  let n := c.held.length + (c.flights.filter (fun f => decide (f.phase = 0))).length
  (hw.setFld (teReg k 0x18) 16 16 (min 0xFFFF (hw.fld (teReg k 0x18) 16 16 + n))).modTe k (fun _ => teFresh)

/-- Registers that a warm or forced reset keeps (R483, R524); of a register kept in part the rest is cleared by `hotClear`. -/
def hotKeeps (o : Nat) : Bool :=
  decide (o < 0x200000 + 0x100000 ∧ o ≠ 0x10000C)
  || decide (o = 0x300020 ∨ o = 0x300000)
  || decide (o = 0x400008 ∨ (0x400010 ≤ o ∧ o < 0x400020))
  || decide (0x600000 ≤ o ∧ o < 0x601000 ∧ o % 0x40 = 0x18)
  || decide (o = 0x900018 ∨ o = 0x90001C ∨ o = 0x900020)
  || decide (0xA00000 ≤ o ∧ o < 0xA04000 ∧ o % 0x100 = 0x20)
  || decide (o = FLT_STAT ∨ o = FLT_WIDX ∨ (0xB00040 ≤ o ∧ o < 0xB00080) ∨ (0xB00100 ≤ o ∧ o < 0xB00300) ∨ o = 0xB00304)
  || decide (o = 0xD00088 ∨ o = 0xD0010C ∨ o = 0xD0011C ∨ (0xD01000 ≤ o ∧ o < 0xD01C00 ∧ (o % 0x400 < 0x200 ∨ o % 0x400 = 0x204)))
  || decide (0xE00000 ≤ o ∧ o < 0xF00000)
  || decide (0x1000000 ≤ o ∧ o % 0x100000 = 0x604)

/-- The parts that go of the registers kept in part. -/
def hotClear (hw : Hw) : Hw :=
  let hw1 := (hw.clrReg 0x400008 (2 ^ 31)).setReg 0xD00088 (hw.reg 0xD00088 &&& 0x0000FF00#32)
  let hw2 := (List.range 64).foldl (fun h k => h.setReg (teReg k 0x18) (hw.reg (teReg k 0x18) &&& 0xFFFF0000#32)) hw1
  (List.finRange 8).foldl (fun h n => h.setReg (coreReg n 0x604) (h.reg (coreReg n 0x604) &&& 0x8000FFFF#32)) hw2

/-- A warm or forced reset takes effect (R464, R467, R483, R524): the cluster is HELD, KC is held. -/
def hotReset (forced : Bool) (hw0 : Hw) : Hw :=
  let hw := remapAbort (settle hw0.now hw0)
  let hw1 := if forced then (List.range 64).foldl (fun h k => abandon k h) ((List.finRange 8).foldl (fun h n => countLost n h) hw) else hw
  let hw2 := hotClear (keepRegs hotKeeps hw1)
  let hw3 := (List.finRange 8).foldl (fun h n => coreReset n h) hw2
  let hw4 := setState 3 (hw3.setFld 4 5 2 (1 + 2 * b2n forced))
  let st := hw4.setFld 0x200034 0 4 0
  { st with
    rlatch := [], wlatch := [], beats := [], got := [], tcmSwap := false, hold := holdFresh, handoff := [], chkOff := [], chkBoth := []
    chkErr := []
    rcd := { st.rcd with phaseSeen := false, ringOn := true }
    bmc := { st.bmc with swapped := false }
    cars := Vector.replicate 64 carFresh, tes := Vector.replicate 64 teFresh, bg := []
    sync := { syncFresh with time := st.now }
    net := { netFresh with linkup := st.net.linkup }
    kc := kcFresh
    fw := { fwFresh with hseq := st.fw.hseq, hbClock := st.fw.hbClock, budgetAt := st.fw.budgetAt }
    boot := { st.boot with drain := none, coreReq := [], pwrReq := none, exitReq := none, warmAfter := false } }

/-! ### Cold reset -/

/-- Storage keys of bonded memory. -/
def isBmKey (k : Nat) : Bool := decide (k < 0x2000000000 ∨ 0x80000000000 ≤ k)

/-- A cold reset (R464, R465): PORST_N is low. Bonded memory stands until training zeroes it (R460); the contents of the other
memories (R522), of folios and of accumulators (R152) are not defined: free values. What is counted from outside the cluster goes on: the levels of its pins. -/
def coldReset (hw : Hw) : Hw :=
  let sram := (Config.freeBytes hw.free).filter (fun p => !isBmKey p.1)
  let mem := sram.foldl (fun m p => tabPut memReset p.1 p.2 m) (hw.mem.filter (fun p => isBmKey p.1))
  { hwCold with
    free := hw.free + 257, nid := hw.nid, mem := mem, bad := hw.bad, soft := hw.soft, active := hw.active, shadow := hw.shadow
    clk := { hwCold.clk with temerg := hw.clk.temerg }
    cores := Vector.ofFn (fun n => coreAfter (hw.free + 1 + 32 * n.val))
    net := { netFresh with linkup := hw.net.linkup }
    tap := { hw.tap with isolated := false } }

end Sys2Proof.Machine
end

