-- ==== Sys2Proof/Machine/Queue.lean ====
section
/-!
DEFINITION. Queues, admission and the host interface (spec/11): doorbells (R348), the admin queue (R342, R366), page-ins (R342–R344),
decisions and promises (R347–R351), completion (R353, R354, R346), heartbeat, orphan state and reattachment (R360–R365).
-/
namespace Sys2Proof.Machine

/-! ### The handover record (R363, R364) -/

/-- The record's fields, bytes 0x00–0x3B. -/
def handoverFields (hw : Hw) : List Byte :=
  let f := hw.fw
  let open_ := (f.made.filter (fun q => qWork (qCtx hw q))).length
  let pin := (f.res.filter (fun r => qPinned r.ctx)).length
  leBytes 1 4 ++ leBytes f.hseq 4 ++ leBytes f.orphanFrame 8 ++ leBytes f.readyFrame 8 ++ leBytes f.lastInst 4 ++
    leBytes (b2n f.ready + 2 * b2n f.detach) 4 ++ leBytes (f.made.length + open_ * 2 ^ 16) 4 ++
    leBytes (f.res.length % 512 + pin % 256 * 2 ^ 16) 4 ++ leBytes f.lastDone 8 ++ List.replicate 12 0

def handoverBytes (hw : Hw) : List Byte := let b := handoverFields hw; b ++ leBytes (crc32 b) 4

/-- Firmware writes the whole record, in free slots (R17). -/
def writeHandover (hw : Hw) : Hw := post 0x18 0 0x2003FFF100 (handoverBytes hw) hw

/-- Firmware writes the record where what took the hardware from `a` to `b` changed a field of it (R364). -/
def handover (a b : Hw) : Hw :=
  if fwRuns b ∧ 4 ≤ cluState b ∧ cluState b ≤ 7 ∧ handoverFields a ≠ handoverFields b then writeHandover b else b

/-- An operation of the queue engine or firmware, and the record after it. -/
def noted (f : Hw → Hw) (hw : Hw) : Hw := handover hw (f hw)

/-! ### Doorbells (R348) -/

/-- An ignored doorbell is counted. -/
def dbError (q : Nat) (hw : Hw) : Hw := (hw.bump 0x400024 0 16).setFld 0x400024 16 14 q

/-- A write that KC and the exit from SHELVED see (R416, R474). -/
def doorSeen (hw : Hw) : Hw := exitTrigger (irq 0x03 hw)

/-- A write of QUE_SQDB sets the queue's SQ_TAIL. -/
def sqdbWrite (v : W32) (hw0 : Hw) : Hw :=
  let hw := doorSeen hw0
  let q := fieldOf v 16 14
  let i := fieldOf v 0 16
  let c := qCtx hw q
  if !qCreated c ∨ qSqLen c ≤ i then dbError q hw else putQ q 0x1A 2 i hw

def queSqdb (v : W32) (hw : Hw) : Hw := noted (sqdbWrite v) hw

/-- A write of QUE_CQDB sets the queue's CQ_HEAD; a head beyond CQ_TAIL is ignored. -/
def cqdbWrite (v : W32) (hw0 : Hw) : Hw :=
  let hw := doorSeen hw0
  let q := fieldOf v 16 14
  let i := fieldOf v 0 16
  let c := qCtx hw q
  let n := qCqLen c
  if !qCreated c ∨ n ≤ i ∨ (qCqTail c + n - qCqHead c) % n < (i + n - qCqHead c % n) % n then dbError q hw else putQ q 0x1C 2 i hw

def queCqdb (v : W32) (hw : Hw) : Hw := noted (cqdbWrite v) hw

/-! ### The admin queue (R342, R366) -/

/-- q0's context when it is enabled: rings from the QUE registers, indices zero, CQ_P 1. -/
def adminCtx (hw : Hw) (v : W32) : List Byte :=
  let c := qCtx hw 0
  let w (o n k : Nat) (l : List Byte) : List Byte := overlay l o (leBytes n k)
  w 0 (2 ^ 16 + 2 ^ 17 + 2 ^ 18) 4 (w 4 (fieldOf v 0 5 + fieldOf v 8 5 * 0x100) 4 (w 8 (hw.reg64 0x400010) 8
    (w 0x10 (hw.reg64 0x400018) 8 (w 0x18 0 8 (w 0x20 1 4 c)))))

/-- A write of QUE_ADMIN_CFG, refused while q0 has OUTSTANDING nonzero; EN from 0 to 1 enables q0. -/
def adminCfgWrite (u : Writer) (v : W32) (hw : Hw) : Hw :=
  if qOut (qCtx hw 0) ≠ 0 then refuse u.unit hw
  else
    let was := nbit (hw.reg 0x400008).toNat 31
    let on := nbit v.toNat 31
    let hw1 := hw.setReg 0x400008 (v &&& 0x80001F1F#32)
    if on && !was then
      let hw2 := setQCtx 0 (adminCtx hw1 v) (dropHead 0 hw1)
      { hw2 with fw := { hw2.fw with made := setIns 0 hw2.fw.made } }
    else if was && !on then
      let hw2 := putQ 0 2 1 6 hw1
      { hw2 with fw := { hw2.fw with made := hw2.fw.made.filter (fun q => decide (q ≠ 0)) } }
    else hw1

def queAdminCfg (u : Writer) (v : W32) (hw : Hw) : Hw := noted (adminCfgWrite u v) hw

/-- q0 becomes resident and pinned at the first READY (R342). -/
def adminResident (hw : Hw) : Hw :=
  if (resOf hw 0).isSome then hw
  else
    let c := qCtx hw 0
    let c1 := overlay c 0 (leBytes (leAt c 0 4 ||| (2 ^ 17 + 2 ^ 18)) 4)
    { hw with fw := { hw.fw with res := hw.fw.res ++ [⟨0, c1, hw.fw.clock⟩] } }

/-! ### Parking and page-ins (R342–R344) -/

/-- The queue engine's transfer registers name a queue's record (R333, R335). -/
def xferSet (q : Nat) (hw : Hw) : Hw :=
  let c := qCtx hw q
  (((hw.setReg 0x500014 (BitVec.ofNat 32 (leAt c 0x100 4) &&& 0x7F0FFF#32)).setReg 0x500018 (BitVec.ofNat 32 (leAt c 0x104 4) &&& 0x7F7F#32)).setReg64
    0x500020 (qAddr hw q + 0x100))

/-- Park a queue, in ORPHAN and FENCED (R363, R398): its synchronisation record leaves the block, its entry is free, and its context with the
record waits for the slots in which it goes to the store (R17). -/
def parkNow (q : Nat) (hw : Hw) : Hw :=
  let c := qCtx hw q
  let hw1 := syncTo hw.now (xferSet q hw)
  let rec_ := syncRecord hw1
  let hw2 := if saveErr hw1 true = 0 then post 0x19 0 (qAddr hw q) (overlay c 0x100 rec_) (xferClear hw1) else post 0x19 0 (qAddr hw q) c hw1
  { hw2 with fw := { hw2.fw with res := hw2.fw.res.filter (fun r => decide (r.qid ≠ q)) } }

/-- Queues that hold an entry and do not leave it, or are on their way to one. -/
def holders (hw : Hw) : List Nat :=
  (hw.fw.res.filter (fun r => (resOf hw r.qid).isSome)).map (fun r => r.qid) ++ hw.fw.inc.map (fun p => p.qid)

/-- A resident queue can be a victim (R343). -/
def canLeave (hw : Hw) (q : Nat) : Bool :=
  match resOf hw q with
  | none => false
  | some r =>
    let rg := qRange r.ctx
    decide (q ≠ 0) && !qPinned r.ctx && decide (qOut r.ctx = 0) && !qWork r.ctx &&
    (waiters hw).all (fun w => !decide (rg.1 ≤ w.2.2.sem ∧ w.2.2.sem < rg.1 + rg.2)) &&
    (qBars r.ctx).all (fun k => decide ((hw.bar k).cnt = 0 ∧ (hw.bar k).upcnt = 0 ∧ (hw.bar k).next = 0))

/-- The least recently admitted queue that can leave. -/
def lruVictim (hw : Hw) : Option Nat :=
  (hw.fw.res.foldl (fun (m : Option Res) r =>
    if !canLeave hw r.qid then m
    else match m with
      | none => some r
      | some x => if r.used < x.used then some r else m) none).map (fun r => r.qid)

/-- Two queues need the same semaphore or barrier context. -/
def syncClash (a b : List Byte) : Bool := rangesMeet (qRange a) (qRange b) || (qBars a).any (fun k => decide (k ∈ qBars b))

/-- How a page-in of queue `q` finds its entry: none if it waits, else its victim if it needs one (R343, R344). -/
def pageChoice (hw : Hw) (q : Nat) : Option (Option Nat) :=
  let c := qCtx hw q
  match (holders hw).filter (fun r => decide (r ≠ q) && syncClash c (qCtx hw r)) with
  | [v] => if canLeave hw v then some (some v) else none
  | _ :: _ => none
  | [] =>
    if hw.fw.res.length + (hw.fw.inc.filter (fun p => p.victim.isNone)).length < 256 then some none
    else (lruVictim hw).map some

/-- A queue needs an entry: undecided commands, while commands are admitted, or an admitted PIN or RUN (R343, R363, R397). -/
def needsEntry (hw : Hw) (q : Nat) : Bool :=
  let c := qCtx hw q
  qCreated c && decide (q ∉ holders hw) &&
  ((decide (cluState hw = 4 ∨ cluState hw = 5) && qWork c) ||
    hw.fw.cmds.any (fun x => decide ((x.typ = 0x12 ∧ leAt x.body 0x10 4 % 16384 = q) ∨ (x.typ = 1 ∧ x.qid = q)) && !x.fin && !x.refused))

/-- Firmware raises a cluster-fatal record for the queue-context store and archives (R490). -/
def contextLost (q : Nat) (hw : Hw) : Hw :=
  enterArchiving (raise { cls := cBM_UNCORRECTABLE, sev := 3, unit := 0x18, q := .none, addr := qAddr hw q } hw)

/-- A page-in begins: the victim's context goes to the store and its record is saved, the new queue's context is read; all of it waits for free
slots (R17, R335, R343). -/
def pageBegin (q : Nat) (v : Option Nat) (hw : Hw) : Hw :=
  let a := qAddr hw q
  let rd : List BgAcc := [.rd a 256, .rd (a + 256) 256]
  let ctx := hw.seen a 512
  let hw0 := { hw with fw := { hw.fw with
    inc := hw.fw.inc ++ [⟨q, ctx, v, 0⟩], pwait := hw.fw.pwait.filter (fun x => decide (x ≠ q)) } }
  match v with
  | none => bgAdd (bgNew hw 0x19 rd (.page q)) hw0
  | some v =>
    let c := qCtx hw v
    let b := qAddr hw v
    let wr : List BgAcc := [.wr b (bytesAt c 0 256), .wr (b + 0x1C0) (bytesAt c 0x1C0 64)]
    semSave true .kc (xferSet v (bgAdd (bgNew hw 0x19 (wr ++ rd) (.page q)) hw0))

/-- The contexts have moved: doorbells of the victim that came meanwhile stand in the store (R348), and the new queue's record is restored. -/
def pageRestore (p : PageIn) (hw : Hw) : Hw :=
  let hw1 := match p.victim.bind (leaving hw) with
    | some r =>
      let l := bytesAt r.ctx 0 256
      if hw.seen (qAddr hw r.qid) 256 = l then hw else post 0x19 0 (qAddr hw r.qid) l hw
    | none => hw
  let stage (x : PageIn) : PageIn := if x.qid = p.qid then { x with stage := 1 } else x
  semRestore true .kc (xferSet p.qid (bgDrop (.page p.qid) { hw1 with fw := { hw1.fw with inc := hw1.fw.inc.map stage } }))

/-- A page-in under way goes on once what it waits for has been served. -/
def pageNext (p : PageIn) (hw : Hw) : Hw :=
  if hw.sync.xfer.isSome then hw
  else if p.stage = 0 then
    (match bgDone hw (.page p.qid) with
    | some b => if b.bad.isSome then contextLost p.qid hw else pageRestore p hw
    | none => hw)
  else { hw with fw := { hw.fw with inc := hw.fw.inc.map (fun x => if x.qid = p.qid then { x with stage := 2 } else x) } }

/-- Firmware moves queue `q` towards an entry: it begins a page-in, and takes it through its transfers; the queue enters the
residency table at the boundary after them (R343, R344). -/
def pageIn (q : Nat) (hw : Hw) : Hw :=
  if !fwRuns hw ∨ cluState hw < 4 ∨ 7 < cluState hw ∨ pwrState hw ≠ 0 then hw
  else match hw.fw.inc.find? (fun p => decide (p.qid = q)) with
    | some p => pageNext p hw
    | none =>
      if !needsEntry hw q ∨ hw.sync.xfer.isSome then hw
      else match pageChoice hw q with
        | none => if q ∈ hw.fw.pwait then hw else ledger 0x70 { hw with fw := { hw.fw with pwait := setIns q hw.fw.pwait } }
        | some v => pageBegin q v hw

/-- QUEUE_PAGE_IN. -/
def queuePageIn (q : Nat) (hw : Hw) : Hw := noted (pageIn q) hw

/-! ### The command at the head of a ring (R345, R347) -/

/-- The command record at the queue's head, once it is fetched (R17). -/
def headCmd (hw : Hw) (q : Nat) : Option (List Byte) := (bgDone hw (.cmd q)).map (fun b => b.got)

def cmdType (b : List Byte) : Nat := leAt b 0 1
def cmdExact (b : List Byte) : Bool := nbit (leAt b 0 4) 8
def cmdCid (b : List Byte) : Nat := leAt b 2 2
def cmdDeadline (b : List Byte) : Nat := leAt b 8 8
/-- A word of the body. -/
def cw (b : List Byte) (o : Nat) : Nat := leAt b o 4
def runList (b : List Byte) : Nat := pairAddr (cw b 0x10) (cw b 0x14)
def runPhases (b : List Byte) : Nat := cw b 0x18
def runNotBefore (b : List Byte) : Nat := leAt b 0x20 8
def cmdTarget (b : List Byte) : Nat := cw b 0x10 % 16384

/-- The bits of each word that a command's type assigns. -/
def cmdMask (t : Nat) (i : Nat) : Nat :=
  if i = 0 then 0xFFFF01FF
  else if i = 2 ∨ i = 3 then 0xFFFFFFFF
  else if t = 1 then (match i with
    | 4 => 0xFFFFFF00
    | 5 => 0x1FF
    | 6 => 0xFFFFFFFF
    | 8 => 0xFFFFFFFF
    | 9 => 0xFFFFFFFF
    | _ => 0)
  else if t = 2 then (match i with
    | 4 => 0xFFFFFFFF
    | 5 => 0xFFF
    | _ => 0)
  else if t = 0x10 then (match i with
    | 4 => 0x3FFF
    | 5 => 0x1F1F
    | 6 => 0xFFFFFFC0
    | 7 => 0x1FF
    | 8 => 0xFFFFFFE0
    | 9 => 0x1FF
    | 10 => 0x7F0FFF
    | 11 => 0x7F7F
    | _ => 0)
  else if i = 4 then 0x3FFF else 0

def knownType (t : Nat) : Bool := decide (t = 1 ∨ t = 2 ∨ (0x10 ≤ t ∧ t ≤ 0x13))

/-- The first row of R350: ILLEGAL_INSTR. -/
def cmdIllegal (hw : Hw) (q : Nat) (b : List Byte) : Bool :=
  let t := cmdType b
  let bad := (List.range 16).any (fun i => decide (cw b (4 * i) &&& cmdMask t i ≠ cw b (4 * i)))
  let r := qRange (qCtx hw q)
  let s := nbits (cw b 0x14) 0 5
  let c := nbits (cw b 0x14) 8 5
  let n := nbits (cw b 0x28) 16 7
  !knownType t || (decide (0x10 ≤ t) && decide (q ≠ 0)) || bad ||
  (decide (t = 1) && decide (runPhases b = 0 ∨ 1024 < runPhases b)) ||
  (decide (t = 2) && decide (cw b 0x10 < r.1 ∨ r.1 + r.2 ≤ cw b 0x10 ∨ cw b 0x14 = 0)) ||
  (decide (t = 0x10) && decide (s < 4 ∨ 16 < s ∨ c < 4 ∨ 16 < c ∨ n = 0 ∨ 64 < n))

/-- Administrative commands decided and not yet in effect, in order. -/
def adminPending (hw : Hw) : List Cmd := hw.fw.cmds.filter (fun c => decide (0x10 ≤ c.typ) && !c.fin && !c.refused)

def isCreated (hw : Hw) (q : Nat) : Bool :=
  (adminPending hw).foldl (fun b c => if cmdTarget c.body ≠ q then b else if c.typ = 0x10 then true else if c.typ = 0x11 then false else b)
    (qCreated (qCtx hw q))

/-- A queue is pinned, as its context and the pending commands have it; q0 stays pinned (R342). -/
def isPinned (hw : Hw) (q : Nat) : Bool :=
  if q = 0 then isCreated hw 0 && qPinned (qCtx hw 0)
  else isCreated hw q && (adminPending hw).foldl (fun b c => if cmdTarget c.body ≠ q then b else decide (c.typ = 0x12)) (qPinned (qCtx hw q))

/-- A queue's semaphore range and barrier contexts, as its context has them or a pending QCREATE will. -/
def syncHeader (hw : Hw) (q : Nat) : List Byte :=
  match (adminPending hw).filter (fun c => decide (c.typ = 0x10 ∧ cmdTarget c.body = q)) with
  | c :: _ => List.replicate 0x100 0 ++ bytesAt c.body 0x28 8
  | [] => qCtx hw q

def pinnedQueues (hw : Hw) : List Nat :=
  ((hw.fw.made ++ (adminPending hw).map (fun c => cmdTarget c.body)).eraseDups).filter (fun q => isPinned hw q)

/-- The administrative rows of R350. -/
def adminRefusal (hw : Hw) (b : List Byte) : Option (Nat × Nat) :=
  let t := cmdType b
  let k := cmdTarget b
  let mine := if t = 0x10 then List.replicate 0x100 0 ++ bytesAt b 0x28 8 else syncHeader hw k
  let others := (pinnedQueues hw).filter (fun q => decide (q ≠ k))
  let x := qCtx hw k
  if (t = 0x10 ∧ (k = 0 ∨ isCreated hw k)) ∨ (t ≠ 0x10 ∧ !isCreated hw k) ∨ (t = 0x11 ∧ (k = 0 ∨ qOut x ≠ 0 ∨ qWork x)) then
    some (cADMISSION_REFUSED, 0x10)
  else if t = 0x12 ∧ 224 ≤ (pinnedQueues hw).length then some (cQUEUE_EXHAUSTED, 0x01)
  else if (t = 0x10 ∨ t = 0x12) ∧ others.any (fun q => rangesMeet (qRange mine) (qRange (syncHeader hw q))) then
    some (cQUEUE_EXHAUSTED, 0x02)
  else if (t = 0x10 ∨ t = 0x12) ∧ others.any (fun q => (qBars mine).any (fun j => decide (j ∈ qBars (syncHeader hw q)))) then
    some (cQUEUE_EXHAUSTED, 0x03)
  else none

/-! ### Phase declarations (spec/08, "The phase declaration"; R350, R351) -/

def declPrimary (e : List Byte) : List Byte := bytesAt e 0 64
/-- The alternate declaration, if there is one. -/
def declAlternate (e : List Byte) : Option (List Byte) :=
  let d := bytesAt e 0x40 64
  if d.all (fun x => decide (x = 0)) then none else some d
def declLen (d : List Byte) : Nat := leAt d 0 4
def declPeak (d : List Byte) : Nat := nbits (leAt d 4 4) 0 9
def declAmask (d : List Byte) : Nat := nbits (leAt d 4 4) 16 8
def declVmask (d : List Byte) : Nat := nbits (leAt d 4 4) 24 8
def declStrict (d : List Byte) : Nat := nbits (leAt d 0x10 4) 0 8
def declFree (d : List Byte) : Nat := nbits (leAt d 0x10 4) 16 6
def declFolded (d : List Byte) : Bool := nbit (leAt d 0x10 4) 24
def declCores (e : List Byte) : Nat := nbits (leAt e 0x88 4) 0 8

/-- The allowance of a phase. -/
def allowance (e : List Byte) : Nat := 128 + max (declLen (declPrimary e)) ((declAlternate e).elim 0 declLen)

/-- Why a declaration fails (spec/08, "ADMISSION_REFUSED reasons"): 0x01, 0x03, 0x04, 0x08. -/
def declRefusal (hw : Hw) (e : List Byte) : Option Nat :=
  let off (m : Nat) : Bool := decide (m &&& hw.coreEn ≠ m)
  let one (d : List Byte) : Option Nat :=
    if 320 < declPeak d ∨ off (declAmask d) ∨ off (declVmask d) then some 0x03
    else if declFree d = 0 then some 0x04
    else if hw.fld 0 16 16 = 0xC764 ∧ !declFolded d then some 0x08
    else none
  if off (declCores e) then some 0x01
  else (one (declPrimary e)).or ((declAlternate e).bind one)

/-- The catalogue safe budget (R350, R459). -/
def safeBudget (hw : Hw) : Nat := if hw.fld 8 8 2 = 1 then 80 else nbits (hw.reg 0xE08018).toNat 0 9

/-- No declaration of the phase fits the safe budget. -/
def overSafe (hw : Hw) (e : List Byte) : Bool :=
  decide (safeBudget hw < declPeak (declPrimary e)) && ((declAlternate e).elim true (fun d => decide (safeBudget hw < declPeak d)))

/-- π of R351: 534 if the queue is not resident. -/
def admitPi (hw : Hw) (q : Nat) : Nat := if (resOf hw q).isSome then 0 else 534

/-- π of a command of queue `q`: of a PIN that of the queue it names, which it brings in (R343; log entry 53). -/
def cmdPi (hw : Hw) (q : Nat) (b : List Byte) : Nat := admitPi hw (if cmdType b = 0x12 then cmdTarget b else q)

/-- Where a RUN's first allowance begins (R351). -/
def runStart (hw : Hw) (q : Nat) (b : List Byte) : Nat :=
  let s := max (hw.frame + admitPi hw q) hw.fw.calEnd
  if cmdExact b then runNotBefore b - 128
  else if runNotBefore b ≠ 0 then max s (runNotBefore b - 128) else s

/-- The entries of a RUN's phase list, which follows its command record. -/
def runEntries (b : List Byte) : List (List Byte) := (List.range (runPhases b)).map (fun i => bytesAt b (64 + 256 * i) 256)

/-- Where its last allowance ends. -/
def runEnd (hw : Hw) (q : Nat) (b : List Byte) : Nat := (runEntries b).foldl (fun s e => s + allowance e) (runStart hw q b)

/-- EXACT cannot be met (R351). -/
def exactLate (hw : Hw) (q : Nat) (b : List Byte) : Bool :=
  cmdExact b && decide (runNotBefore b < max (hw.frame + admitPi hw q) hw.fw.calEnd + 128)

/-- The promise of a command (R351). -/
def promiseOf (hw : Hw) (q : Nat) (b : List Byte) : Nat :=
  let c := qCtx hw q
  if cmdType b = 1 then runEnd hw q b + 64
  else if cmdType b = 2 then (if qOut c ≠ 0 then qLast c else hw.frame + 64)
  else hw.frame + cmdPi hw q b + 192

/-- The rows of R350 for a RUN, from the declarations on. -/
def runRefusal (hw : Hw) (q : Nat) (b : List Byte) : Option (Nat × Nat) :=
  let es := runEntries b
  match es.findSome? (declRefusal hw) with
  | some r => some (cADMISSION_REFUSED, r)
  | none =>
    if es.any (overSafe hw) then some (cADMISSION_REFUSED, 0x0C)
    else if hw.fw.epochTo ≠ 0 ∧ hw.fw.epochTo ≤ runEnd hw q b then some (cADMISSION_REFUSED, 0x0D)
    else if exactLate hw q b then some (cADMISSION_REFUSED, 0x0F)
    else none

/-- A ring of QCREATE lies in CSM below the host page, or in BM outside the reserved region (R345). -/
def ringOk (hw : Hw) (a n : Nat) : Bool :=
  let ends := (List.range ((n + 4095) / 4096)).map (fun i => a + 4096 * i) ++ [a + n - 1]
  ends.all (fun x => match regionOf hw x with
    | .csm => decide (x < 0x2003FFF000)
    | .bm _ o => decide (o < reservedFrom hw)
    | _ => false) && decide (a / 2 ^ 32 = (a + n - 1) / 2 ^ 32)

def ringsOk (hw : Hw) (b : List Byte) : Bool :=
  ringOk hw (pairAddr (cw b 0x18) (cw b 0x1C)) (64 * 2 ^ nbits (cw b 0x14) 0 5) &&
  ringOk hw (pairAddr (cw b 0x20) (cw b 0x24)) (32 * 2 ^ nbits (cw b 0x14) 8 5)

/-- The first case of R350 that applies to a command, as STATUS and REASON; R345's ACCESS_RANGE follows the table's rows. -/
def cmdRefusal (hw : Hw) (q : Nat) (b : List Byte) : Option (Nat × Nat) :=
  let t := cmdType b
  if cmdIllegal hw q b then some (cILLEGAL_INSTR, 0)
  else
    match (if 0x10 ≤ t then adminRefusal hw b else none) with
    | some r => some r
    | none =>
      if cluState hw = 7 then some (cADMISSION_REFUSED, 0x0E)
      else match (if t = 1 then runRefusal hw q b else none) with
        | some r => some r
        | none =>
          if cmdDeadline b ≠ 0 ∧ cmdDeadline b < promiseOf hw q b then some (cADMISSION_REFUSED, 0x0B)
          else if t = 0x10 ∧ !ringsOk hw b then some (cACCESS_RANGE, 0)
          else none

/-! ### Rounds (R347, R349) -/

/-- A completion slot is free beyond those reserved. -/
def cqFree (c : List Byte) : Bool := decide ((qCqTail c + qCqLen c - qCqHead c) % qCqLen c + qResv c + 1 < qCqLen c)

/-- Phases on the commitment calendar. -/
def calPhases (hw : Hw) : Nat :=
  ((hw.fw.cmds.filter (fun c => decide (c.typ = 1) && !c.fin && !c.refused)).map (fun c => c.nphase - c.next)).sum

/-- The queue's head command can be decided now, as far as firmware knows it: a completion slot (R347), a calendar that does not hold 1,024
phases (R350), an entry for a PIN (R351). -/
def decidable (hw : Hw) (q : Nat) : Bool :=
  let c := qCtx hw q
  qCreated c && qWork c && cqFree c && decide (calPhases hw < 1024) &&
  (match headCmd hw q with
    | some b =>
      let k := cmdTarget b
      if cmdType b = 0x12 ∧ isCreated hw k ∧ k ∉ holders hw then (pageChoice hw k).isSome else true
    | none => true)

/-- Resident queues with a command to decide. -/
def candidates (hw : Hw) : List Nat := (hw.fw.res.map (fun r => r.qid)).filter (fun q => (resOf hw q).isSome && decidable hw q)

/-- A queue can still be served in a round: it was not, and q0 comes first or not at all. -/
def inRound (round : List Nat) (q : Nat) : Bool := decide (q ∉ round ∧ (q ≠ 0 ∨ round = []))

/-- The next queue of the admission round among the resident ones, and the round after it: a round begins with q0, the others follow in
ascending QID after the last queue served, each once a round. -/
def nextQueue (hw : Hw) : Option (Nat × List Nat) :=
  let cand := candidates hw
  let pick (l : List Nat) : Option Nat :=
    if 0 ∈ l then some 0
    else l.foldl (fun (m : Option Nat) q =>
      let key (x : Nat) : Nat := (x + 16383 - hw.fw.last) % 16384
      match m with
      | none => some q
      | some x => if key q < key x then some q else some x) none
  match pick (cand.filter (inRound hw.fw.round)) with
  | some q => some (q, setIns q hw.fw.round)
  | none => (pick cand).map (fun q => (q, [q]))

/-- Firmware may decide the head command of queue `q` now: in its round if it is resident, a RUN of a parked queue if an entry can be
had (R343, R351). -/
def mayDecide (hw : Hw) (q : Nat) : Option (List Nat) :=
  if !fwRuns hw ∨ !(cluState hw = 4 ∨ cluState hw = 5 ∨ cluState hw = 7) ∨ hw.fw.orphan then none
  else if (resOf hw q).isSome then
    (match nextQueue hw with
      | some (k, r) => if k = q then some r else none
      | none => none)
  else if decidable hw q ∧ (headCmd hw q).elim true (fun b => cmdType b = 1) ∧ (q ∈ holders hw ∨ (pageChoice hw q).isSome) then some hw.fw.round
  else none

/-- A round is over once no queue that can be decided was left out of it: the next begins with q0 (R349). -/
def roundEnds (hw : Hw) : Hw :=
  if (candidates hw).any (inRound hw.fw.round) then hw else { hw with fw := { hw.fw with round := [] } }

/-- The decision (R347): the slot is reserved, SQ_HEAD advances, the command stands in the calendar until its record is written. -/
def decideAs (q : Nat) (round : List Nat) (c : Cmd) (hw : Hw) : Hw :=
  let x := qCtx hw q
  let hw1 := putQ q 0x22 2 (qResv x + 1) (putQ q 0x18 2 ((qSqHead x + 1) % qSqLen x) hw)
  let hw2 := if c.refused then hw1 else putQ q 0x28 8 c.promise (putQ q 0x1C0 2 (qOut x + 1) hw1)
  let used (r : Res) : Res := if r.qid = q ∧ !c.refused then { r with used := hw.fw.clock + 1 } else r
  let hw3 := { hw2 with fw := { hw2.fw with
    cmds := hw2.fw.cmds ++ [c], round := round, last := if q = 0 then hw2.fw.last else q
    clock := hw2.fw.clock + 1, res := hw2.fw.res.map used } }
  let hw4 := roundEnds (dropHead q hw3)
  if c.refused then ledger 0x2F hw4 else fwState hw4

/-- Decide the head command of queue `q`, whose record and phase list are `b` (R347, R350, R351). -/
def decideHead (q : Nat) (round : List Nat) (b : List Byte) (hw : Hw) : Hw :=
  let c0 : Cmd :=
    { qid := q, cid := cmdCid b, idx := qSqHead (qCtx hw q), typ := cmdType b, body := b.take 64, nphase := 0, allows := [], next := 0
      allow := 0, promise := 0, holdx := 0, status := 0, reason := 0, refused := false, fin := false, hold := false, late := false
      wall := false, at_ := hw.frame + cmdPi hw q b }
  match cmdRefusal hw q b with
  | some (s, r) => decideAs q round { c0 with status := s, reason := r, refused := true, fin := true } hw
  | none =>
    let p := promiseOf hw q b
    if cmdType b = 1 then
      let e := runEnd hw q b
      decideAs q round { c0 with nphase := runPhases b, allows := (runEntries b).map allowance, allow := e, promise := p } { hw with fw := { hw.fw with calEnd := e } }
    else if cmdType b = 2 then
      signalAll (cw b 0x10) (cw b 0x14) 0x18 0 0 hw.now (syncTo hw.now (decideAs q round { c0 with promise := p, fin := true } hw))
    else decideAs q round { c0 with promise := p } hw

/-- The phase list that the decision of a command needs, as address and bytes. -/
def listOf (hw : Hw) (q : Nat) (b : List Byte) : Option (Nat × Nat) :=
  if cmdType b = 1 ∧ !cmdIllegal hw q b ∧ cluState hw ≠ 7 then some (runList b, 256 * runPhases b) else none

/-- A fetch by firmware that waits for free slots, if it is not under way (R17). -/
def fetch (a k : Nat) (what : BgWhat) (hw : Hw) : Hw := if bgWaits hw what then hw else bgAdd (bgNew hw 0x18 (readAccs hw a k) what) hw

/-- Firmware fetches the head command of queue `q`, and its phase list where the decision needs one; then it decides the
command, if it is of the row's type. -/
def decide1 (is : Nat → Bool) (q : Nat) (hw : Hw) : Hw :=
  match mayDecide hw q, headCmd hw q with
  | none, _ => hw
  | some _, none => fetch (qSqBase (qCtx hw q) + 64 * qSqHead (qCtx hw q)) 64 (.cmd q) hw
  | some round, some b =>
    if !is (cmdType b) then hw
    else match listOf hw q b with
      | none => decideHead q round b hw
      | some (a, k) =>
        match bgDone hw (.list q) with
        | some l => decideHead q round (b ++ l.got) hw
        | none => fetch a k (.list q) hw

/-- A decision row. -/
def decideRow (is : Nat → Bool) (q : Nat) (hw : Hw) : Hw := noted (decide1 is q) hw

/-- RUN; a command of an unknown type is refused with it. -/
def cmdRun (q : Nat) (hw : Hw) : Hw := decideRow (fun t => decide (t = 1) || !knownType t) q hw
def cmdSignal (q : Nat) (hw : Hw) : Hw := decideRow (fun t => decide (t = 2)) q hw
def cmdQcreate (q : Nat) (hw : Hw) : Hw := decideRow (fun t => decide (t = 0x10)) q hw
def cmdQdestroy (q : Nat) (hw : Hw) : Hw := decideRow (fun t => decide (t = 0x11)) q hw
def cmdPin (q : Nat) (hw : Hw) : Hw := decideRow (fun t => decide (t = 0x12)) q hw
def cmdUnpin (q : Nat) (hw : Hw) : Hw := decideRow (fun t => decide (t = 0x13)) q hw

/-! ### Completion (R346, R353, R354) -/

/-- The completion record of a command. -/
def completionBytes (hw : Hw) (c : Cmd) : List Byte :=
  let x := qCtx hw c.qid
  let flags := qCqP x + 2 * b2n c.late + 4 * b2n c.hold + 8 * b2n c.wall + 16 * b2n (hw.fw.orphan && !c.refused)
  leBytes (flags + c.status % 256 * 2 ^ 8 + c.cid * 2 ^ 16) 4 ++ leBytes (c.qid + c.reason * 2 ^ 16) 4 ++
  leBytes (if c.refused then 0 else c.promise) 8 ++ leBytes hw.frame 8 ++ leBytes ((c.idx + 1) % qSqLen x) 4 ++ leBytes c.holdx 4

/-- Where the next completion record of a queue goes. -/
def cqSlot (hw : Hw) (q : Nat) : Nat := let x := qCtx hw q; qCqBase x + 32 * qCqTail x

/-- The record waits for its slot; DONE will be the frame in which it is written (R345). -/
def completeAsk (c : Cmd) (hw : Hw) : Hw := bgAdd (bgNew hw 0x18 (writeAccs hw (cqSlot hw c.qid) (completionBytes hw c)) (.cqe c.qid)) hw

/-- What was fetched of phases of a queue's command is of no use any more. -/
def dropPhases (q : Nat) (hw : Hw) : Hw :=
  { hw with bg := hw.bg.filter (fun b => match b.what with
    | .phase k => decide (k / 2 ^ 27 ≠ q)
    | .tables k => decide (k / 2 ^ 27 ≠ q)
    | _ => true) }

/-- The record was written in frame `f` and acknowledged: the completion ring advances, and the command is gone (R346, R353). -/
def completed (c : Cmd) (f : Nat) (hw0 : Hw) : Hw :=
  let hw1 := dropPhases c.qid hw0
  let x := qCtx hw1 c.qid
  let t' := (qCqTail x + 1) % qCqLen x
  let hw2 := putQ c.qid 0x1E 2 t' (putQ c.qid 0x22 2 (qResv x - 1) hw1)
  let hw3 := if t' = 0 then putQ c.qid 0x20 2 (1 - qCqP x) hw2 else hw2
  let hw4 := if c.refused then hw3 else putQ c.qid 0x1C0 2 (qOut x - 1) hw3
  { hw4 with fw := { hw4.fw with cmds := hw4.fw.cmds.filter (fun y => decide (y ≠ c)), lastDone := f } }

/-! ### Orphan state (R362, R363) -/

/-- In ORPHAN, park every unpinned queue whose OUTSTANDING is 0 and that is not leaving for another, and set READY once nothing is left and the
contexts are in the store. -/
def orphanPark (hw : Hw) : Hw :=
  let go (r : Res) : Bool := decide (r.qid ≠ 0) && !qPinned r.ctx && decide (qOut r.ctx = 0) && (resOf hw r.qid).isSome
  let hw1 := ((hw.fw.res.filter go).map (fun r => r.qid)).foldl (fun h q => parkNow q h) hw
  let done := (hw1.fw.cmds.all (fun c => c.refused)) && hw1.fw.res.all (fun r => decide (r.qid = 0) || qPinned r.ctx) &&
    hw1.fw.inc.isEmpty && postsDone hw1 0x19
  if !hw.fw.orphan ∨ !fwRuns hw ∨ 7 < cluState hw then hw
  else if done ∧ !hw1.fw.ready then { hw1 with fw := { hw1.fw with ready := true, readyFrame := hw1.frame } }
  else hw1

/-- Firmware enters ORPHAN, or in FENCED does what that state permits (R362, R363). -/
def orphanEntry (detach : Bool) (hw : Hw) : Hw :=
  let hw1 := raise { cls := cHOST_ORPHAN, sev := if detach then 0 else 1, unit := 0x18, q := .none } hw
  let hw2 := { hw1 with fw := { hw1.fw with
    orphan := true, hseq := hw1.fw.hseq + 1, orphanFrame := hw1.frame, ready := false, detach := detach
    lastInst := hw1.fw.attached.getD 0, attached := none } }
  let hw3 := if cluState hw2 = 4 ∨ cluState hw2 = 5 then setState 6 hw2 else hw2
  ledger 0xC8 (orphanPark (hw3.clrReg 0x400028 (2 ^ 24)))

/-- QUE_HB at a heartbeat counted, or at the start of monitoring. -/
def countBeat (w : Nat) (hw : Hw) : Hw :=
  let hw1 := { hw with fw := { hw.fw with hbSeq := hbSeqOf w, hbAt := hw.fw.hbClock } }
  hw1.setReg 0x400028 (BitVec.ofNat 32 (hbSeqOf w + hbInterval w * 2 ^ 16 + 2 ^ 24))

/-- Firmware reads the heartbeat word (R362). -/
def beatSample (hw0 : Hw) : Hw :=
  if !fwRuns hw0 ∨ cluState hw0 < 4 ∨ 7 < cluState hw0 then hw0
  else
    let hw := settle hw0.now hw0
    let w := hbWord hw
    match hw.fw.attached with
    | none =>
      if hw.fw.orphan then orphanPark hw
      else if hbInterval w = 0 then hw
      else countBeat w { hw with fw := { hw.fw with attached := some (hbInstance w) } }
    | some i =>
      if hbSeqOf w ≠ hw.fw.hbSeq ∧ hbInstance w = i then
        (if hbInterval w = 0 then orphanEntry true (countBeat w hw) else countBeat w hw)
      else if 800000 * hw.fld 0x400028 16 7 ≤ hw.fw.hbClock - hw.fw.hbAt then orphanEntry false hw
      else hw

/-- HEARTBEAT_SAMPLE. -/
def heartbeatSample (hw : Hw) : Hw := noted beatSample hw

/-- A write of QUE_ATTACH (R365). -/
def attachWrite (v : W32) (hw0 : Hw) : Hw :=
  let hw := settle hw0.now (doorSeen hw0)
  let w := hbWord hw
  let r := if cluState hw ≠ 6 then 1 else if !hw.fw.ready then 2 else if v.toNat ≠ hw.fw.hseq % 2 ^ 32 then 3 else if hbInterval w = 0 then 4 else 0
  let hw1 := hw.setReg 0x400030 (BitVec.ofNat 32 r)
  if r ≠ 0 then hw1
  else
    let hw2 := countBeat w { hw1 with fw := { hw1.fw with attached := some (hbInstance w), orphan := false } }
    ledger 0xC9 (setState 4 hw2)

def queAttach (v : W32) (hw : Hw) : Hw := noted (attachWrite v) hw

/-- Firmware writes the completion record of queue `q`'s earliest command, if that command has ended; once the record is
written the command is gone (R353, R354), the cluster returns to READY when none is left (R462), and in ORPHAN queues are parked (R363). -/
def completeNext (q : Nat) (hw : Hw) : Hw :=
  if !fwRuns hw ∨ cluState hw < 4 ∨ 7 < cluState hw then hw
  else match hw.fw.cmds.find? (fun c => decide (c.qid = q)) with
    | none => orphanPark hw
    | some c =>
      if !c.fin then hw
      else if !bgWaits hw (.cqe q) then completeAsk c hw
      else match bgDone hw (.cqe q) with
        | some b => orphanPark (fwState (completed c (frameOf b.since) (bgDrop (.cqe q) hw)))
        | none => hw

/-- COMMAND_COMPLETE. -/
def commandComplete (q : Nat) (hw : Hw) : Hw := noted (completeNext q) hw

/-- A phase boundary, at which in ORPHAN the queues that have entered the table are parked (R363). -/
def boundaryRow (hw : Hw) : Hw := noted (fun h => orphanPark (phaseBoundary h)) hw

end Sys2Proof.Machine
end

