-- ==== Sys2Proof/Machine/Calendar.lean ====
section
/-!
DEFINITION. Dispatch of the commitment calendar (spec/13 "Dispatch", spec/08, spec/11): preparing a phase (R352, R427), its end (R259–
R261, R428), stopping it on a fault (R355, R429), and fencing, which ends the calendar (R396–R399).
-/
namespace Sys2Proof.Machine

/-! ### The next phase (R352, R354) -/

/-- The command whose phase comes next: commands run in the order in which they were admitted. -/
def nextCmd (hw : Hw) : Option Cmd := hw.fw.cmds.find? (fun c => decide (c.typ = 1) && !c.fin && !c.refused)

/-- Where the allowance of its next phase begins: the end of the allowance of the phase before it. -/
def allowStart (c : Cmd) : Nat := c.allow - (c.allows.drop c.next).sum

/-- The number that stands for a command's next phase in the requests that fetch it: queue, place in the ring, phase. -/
def phaseKey (c : Cmd) : Nat := c.qid * 2 ^ 27 + c.idx * 2 ^ 11 + c.next

/-- Firmware can place a boundary at frame `b`: 8 frames from now (R427), no later than R352 allows, not before NOTBEFORE, and at it
for an EXACT command's first phase. -/
def placeOk (hw : Hw) (c : Cmd) (b : Nat) : Bool :=
  let nb := if c.next = 0 then runNotBefore c.body + c.holdx else 0
  decide (hw.frame + 8 ≤ b ∧ nb ≤ b ∧ b ≤ max (allowStart c) (max (hw.frame + 8) nb)) &&
  (if c.next = 0 ∧ cmdExact c.body then decide (b = max nb (hw.frame + 8)) else true)

/-- Every core and carrel of two masks is at rest. -/
def coresRest (hw : Hw) (m : Nat) : Bool := (List.finRange 8).all (fun n => !nbit m n.val || atRest (hw.core n))
def carRest (e : Car) : Bool := decide (e.st = .idle ∨ e.st = .stoppedFault ∨ e.st = .stoppedReq)
def carsRest (hw : Hw) (m : Nat) : Bool := (List.range 64).all (fun c => !nbit m c || carRest (hw.car c))

/-! ### Preparing it (R427) -/

/-- The accesses that read the tables of a phase's entry: the core table, where it names cores, and the TXLIST. -/
def tableAccs (hw : Hw) (e : List Byte) : List BgAcc :=
  (if declCores e = 0 then [] else readAccs hw (pairAddr (leAt e 0x80 4 / 32 * 32) (leAt e 0x84 4)) 256) ++
  readAccs hw (pairAddr (leAt e 0xA0 4 / 64 * 64) (leAt e 0xA4 4)) (8 * min 64 (leAt e 0xA8 4 % 128))

/-- Entry `n` of the core table, from the bytes of the tables. -/
def coreEntry (tb : List Byte) (n : Nat) : List Byte := bytesAt tb (32 * n) 32

/-- Step 1 for a core: its code is preloaded. -/
def preloadCore (e tb : List Byte) (hw : Hw) (n : Fin 8) : Hw :=
  if !nbit (declCores e) n.val then hw
  else
    let t := coreEntry tb n.val
    let r (o : Nat) : Nat := coreReg n o
    rangeGo 3 n 0x18
      ((hw.setReg64 (r 0x608) (pairAddr (leAt t 0 4 / 128 * 128) (leAt t 4 4))).setReg (r 0x610) (BitVec.ofNat 32 (leAt t 8 4 % 2 ^ 17)))

/-- Step 2 for a core: its registers are written. -/
def prepareCore (e tb : List Byte) (b : Nat) (hw : Hw) (n : Fin 8) : Hw :=
  if !nbit (declCores e) n.val then hw
  else
    let t := coreEntry tb n.val
    let r (o : Nat) : Nat := coreReg n o
    let hw3 := hw.setReg (r 0x600) (BitVec.ofNat 32 (leAt t 0x1C 4 % 8))
    let hw4 := hw3.setReg64 (r 0x10) (pairAddr (leAt t 0xC 4 / 4 * 4) (leAt t 0x10 4))
    (hw4.setReg64 (r 0x20) (pairAddr (leAt t 0x14 4 / 4 * 4) (leAt t 0x18 4))).setReg64 (r 0x18) b

/-- Step 2 for a carrel. -/
def prepareCar (e : List Byte) (b : Nat) (hw : Hw) (c : Nat) : Hw :=
  if !nbit (leAt e 0x90 8) c then hw
  else (hw.setReg (carReg c 8) (BitVec.ofNat 32 (leAt e 0x98 4 / 32 * 32 % 2 ^ 18))).setReg64 (carReg c 0x10) b

/-- The declaration that R352 selects: the primary if its PEAK fits PWR_BUDGET.NEXT, else the alternate. -/
def chosenDecl (hw : Hw) (e : List Byte) : List Byte :=
  let p := declPrimary e
  if declPeak p ≤ hw.fld 0x200000 16 9 then p else (declAlternate e).getD p

/-- Step 3. -/
def prepareRegs (d : List Byte) (b q : Nat) (hw : Hw) : Hw :=
  let hw1 := (List.finRange 8).foldl (fun h n => h.setFld (coreReg n 0x400) 1 1 (b2n (nbit (declStrict d) n.val))) hw
  let hw2 := (hw1.setFld 0x200004 16 9 (declPeak d)).setFld 0x200008 16 16 (declAmask d + declVmask d * 256)
  let hw3 := (hw2.setReg64 0x200010 (leAt d 8 8)).setReg64 0x300040 (pairAddr (leAt d 0x18 4 / 16 * 16) (leAt d 0x1C 4))
  ((hw3.setReg 0x300048 (BitVec.ofNat 32 (leAt d 0x20 4 % 128))).setReg64 0x300008 b).setReg 0xB00008 (BitVec.ofNat 32 q)

/-- The TXLIST: record addresses and channels. -/
def txList (e tb : List Byte) : List (Nat × Nat) :=
  let a := if declCores e = 0 then 0 else 256
  (List.range (min 64 (leAt e 0xA8 4 % 128))).map (fun i =>
    let w := leAt tb (a + 8 * i) 8
    (w % 2 ^ 41 / 64 * 64, nbits w 48 6))

/-- Every stopped channel is resumed. -/
def resumeChannels (hw : Hw) : Hw := (List.finRange 64).foldl (fun h k => tenResume k h) hw

/-- Step 5 for a descriptor. -/
def enqueueTx (hw : Hw) (t : Nat × Nat) : Hw := tenEnq (Fin.ofNat 64 t.2) .kc (hw.setReg64 (teReg (t.2 % 64) 8) t.1)

/-- Firmware prepares the phase of command `c` that entry `e` and its tables describe for the boundary at `b`, its code being preloaded
(R427). -/
def prepare (c : Cmd) (b : Nat) (e tb : List Byte) (hw0 : Hw) : Hw :=
  let hw := dropPhases c.qid (settle hw0.now hw0)
  let d := chosenDecl hw e
  let cars := leAt e 0x90 8
  let tx := txList e tb
  let hw1 := (List.finRange 8).foldl (prepareCore e tb b) hw
  let hw2 := phaseArm .kc (prepareRegs d b c.qid ((List.range 64).foldl (prepareCar e b) hw1))
  let hw3 := (List.finRange 8).foldl (fun h n => if nbit (declCores e) n.val then coreArm n 0x18 h else h) hw2
  let hw4 := (List.finRange 64).foldl (fun h k => if nbit cars k.val then carArm k .kc h else h) hw3
  let hw5 := tx.foldl enqueueTx (resumeChannels hw4)
  let p : Phase := ⟨c.qid, c.cid, c.idx, b, declLen d, declCores e, cars, (tx.map (fun t => t.2)).eraseDups, nbit (leAt e 0x88 4) 8, false,
    false, false⟩
  { hw5 with fw := { hw5.fw with phase := some p, loading := none } }

/-- A boundary without a phase, for page-ins and administrative commands that wait for one (R343, R351; log entry 20). -/
def emptyBoundary (b : Nat) (hw : Hw) : Hw :=
  phaseArm .kc (prepareRegs (List.replicate 64 0) b (hw.fld 0xB00008 0 14) hw)

/-- Something waits for a boundary. -/
def boundaryWanted (hw : Hw) : Bool := !(adminPending hw).isEmpty || hw.fw.inc.any (fun p => decide (p.stage = 2))

/-- A queue has its entry, or enters the table at the next boundary: its synchronisation record is in the block (R343). -/
def holdsEntry (hw : Hw) (q : Nat) : Bool := (resOf hw q).isSome || hw.fw.inc.any (fun p => decide (p.qid = q ∧ p.stage = 2))

/-- DISPATCH_PHASE: firmware fetches what describes the next phase of the calendar and preloads its code, then prepares and arms it for frame `b`. -/
def dispatchPhase (b : Nat) (hw : Hw) : Hw :=
  let fencing := decide (cluState hw = 7) && nbit (hw.reg 0x700020).toNat 1
  if !fwRuns hw ∨ cluState hw < 4 ∨ 7 < cluState hw ∨ fencing ∨ hw.fw.phase.isSome ∨ nbit (hw.reg 0x300018).toNat 0 ∨ hw.hold.held ∨
      !awake hw then hw
  else match nextCmd hw with
    | none => if boundaryWanted hw ∧ hw.frame + 8 ≤ b then emptyBoundary b hw else hw
    | some c =>
      let k := phaseKey c
      match bgDone hw (.phase k) with
      | none => fetch (runList c.body + 256 * c.next) 256 (.phase k) hw
      | some r =>
        let e := r.got
        let accs := tableAccs hw e
        match (if accs.isEmpty then some [] else (bgDone hw (.tables k)).map (fun x => x.got)) with
        | none => if bgWaits hw (.tables k) then hw else bgAdd (bgNew hw 0x18 accs (.tables k)) hw
        | some tb =>
          if !holdsEntry hw c.qid ∨ !coresRest hw (declCores e) ∨ !carsRest hw (leAt e 0x90 8) then hw
          else if declCores e ≠ 0 ∧ hw.fw.loading ≠ some k then
            let h := (List.finRange 8).foldl (preloadCore e tb) (settle hw.now hw)
            { h with fw := { h.fw with loading := some k } }
          else if (List.finRange 8).any (fun n => nbit (declCores e) n.val && (hw.core n).range.isSome) ∨ !placeOk hw c b then hw
          else prepare c b e tb hw

/-! ### The end of a phase (R259–R261, R428, R429) -/

/-- The first fault's class ends the command (R355). -/
def failCmd (cls : Nat) (c : Cmd) : Cmd := if c.status = 0 then { c with status := cls } else c

/-- Firmware stops every unit of the running phase for a fault of class `cls` (R429). -/
def stopPhase (cls : Nat) (hw : Hw) : Hw :=
  match hw.fw.phase with
  | none => hw
  | some p =>
    if !p.running then hw
    else stopUnits (modCmd p (failCmd cls) { hw with fw := { hw.fw with phase := some { p with stopped := true } } })

/-- Units that a phase started and that have not ended (R259). -/
def notEnded (hw : Hw) (p : Phase) : List Nat :=
  (List.finRange 8).filterMap (fun n => if nbit p.cores n.val && !atRest (hw.core n) then some n.val else none) ++
  (List.range 64).filterMap (fun c => if nbit p.cars c && !carRest (hw.car c) then some (0x40 + c) else none)

/-- PHASE_LEN_CHECK, at TIM_PHASE_START + LEN (R259). -/
def phaseLenCheck (hw : Hw) : Hw :=
  match hw.fw.phase with
  | none => hw
  | some p =>
    if !p.running ∨ p.checked ∨ hw.hold.held ∨ hw.frame < p.start + p.len then hw
    else
      let us := notEnded hw p
      let hw1 := { hw with fw := { hw.fw with phase := some { p with checked := true } } }
      if us.isEmpty then hw1
      else
        let late (h : Hw) (u : Nat) : Hw :=
          raise { cls := cSCHED_LATE, sev := 0, unit := u, exp := p.start + p.len, act := hw.frame, syn := 0x71000000 } h
        modCmd p (fun c => { c with late := true }) ((us.foldl late hw1).orReg 0x30001C 2)

/-- PHASE_GRACE_EXPIRY, at TIM_PHASE_START + LEN + 64: firmware stops what has not ended (R260). -/
def phaseGrace (hw : Hw) : Hw :=
  match hw.fw.phase with
  | none => hw
  | some p =>
    if !fwRuns hw ∨ !p.running ∨ hw.hold.held ∨ hw.frame < p.start + p.len + 64 ∨ (notEnded hw p).isEmpty then hw
    else modCmd p (fun c => { c with late := true }) (stopPhase cSCHED_LATE hw)

/-- Every unit of the phase is at rest, and every pre-enqueued descriptor has completed or failed (R428); of a phase that was stopped, every
descriptor (R261). -/
def phaseOver (hw : Hw) (p : Phase) : Bool :=
  (notEnded hw p).isEmpty &&
  (if p.stopped then List.range 64 else p.chans).all (fun k =>
    let c := hw.te (k % 64)
    c.flights.all (fun f => decide (f.phase ≠ 0)) && (c.held.isEmpty || decide (c.st = .stoppedFault ∨ c.st = .stoppedReq)))

/-- Cores of the phase that end with array state are reset, unless the phase keeps it (R428). -/
def cleanCores (p : Phase) (hw : Hw) : Hw :=
  if p.keep then hw
  else (List.finRange 8).foldl (fun h n =>
    if nbit p.cores n.val ∧ fuseWord (h.core n) h.now &&& 0x300FF ≠ 0 then ledger 0x49 (coreReset n h) else h) hw

/-- An overrun's excess moves later phases, whose records carry LATE (R261, R353). -/
def overrun (d : Nat) (hw : Hw) : Hw :=
  if d = 0 then hw
  else
    let hw1 := moveCalendar d false hw
    { hw1 with fw := { hw1.fw with cmds := hw1.fw.cmds.map (fun c => if c.fin ∨ c.typ ≠ 1 then c else { c with late := true }) } }

/-! ### Fencing (R396–R399) -/

/-- Insert a command behind those of its queue and of queues before it. -/
def insertCmd (c : Cmd) : List Cmd → List Cmd
  | [] => [c]
  | x :: l => if c.qid < x.qid then c :: x :: l else x :: insertCmd c l

/-- Accepted commands not ended, in ring order within each queue and ascending QID. -/
def unfinished (hw : Hw) : List Cmd := (hw.fw.cmds.filter (fun c => !c.fin && !c.refused)).foldl (fun l c => insertCmd c l) []

/-- An entry of the unfinished list. -/
def unfinishedBytes (c : Cmd) : List Byte :=
  leBytes (c.qid + c.cid * 2 ^ 16) 4 ++ leBytes (c.idx + c.next * 2 ^ 16) 4 ++ leBytes c.nphase 4 ++ leBytes 0 4

/-- With MODE 1, once no phase runs: every accepted command ends with PEER_FENCED and stands in the unfinished list (R397). -/
def handOff (hw : Hw) : Hw :=
  if cluState hw ≠ 7 ∨ !nbit (hw.reg 0x700020).toNat 1 ∨ hw.fw.phase.isSome then hw
  else
    let l := (unfinished hw).take 1024
    let hw1 := post 0x18 0 (hw.reg64 0x700028) (l.flatMap unfinishedBytes) hw
    let hw2 := hw1.setFld 0x700030 16 16 (hw.fld 0x700030 16 16 + l.length)
    { hw2 with fw := { hw2.fw with cmds := hw2.fw.cmds.map (fun c =>
      if c.fin ∨ c.refused then c else { c with fin := true, status := if c.status = 0 then cPEER_FENCED else c.status }) } }

/-- A record is of a phase: it names the phase's queue or none, and was raised in the phase. -/
def ofPhase (p : Phase) (qword rframe : Nat) : Bool := (!nbit qword 14 || decide (nbits qword 0 14 = p.qid)) && decide (p.start ≤ rframe)

/-- The class of the first fatal record of a phase that has not been written to the ring yet (R355). -/
def queuedFatal (hw : Hw) (p : Phase) : Option Nat :=
  (hw.rcd.queue.find? (fun e => decide (2 ≤ e.fr.sev) && ofPhase p e.qword e.rframe)).map (fun e => e.fr.cls)

/-- PHASE_END: firmware treats the phase as ended (R428); the excess of one that it stopped moves the calendar (R261). A phase whose
boundary was refused is taken back. -/
def phaseEnd (hw : Hw) : Hw :=
  match hw.fw.phase with
  | none => hw
  | some p =>
    if !fwRuns hw then hw
    else if !p.running then
      if nbit (hw.reg 0x300018).toNat 0 ∨ hw.frame < p.start then hw
      else
        let hw1 := p.chans.foldl (fun h k => tenResume (Fin.ofNat 64 k) (tenStop (Fin.ofNat 64 k) h)) hw
        handOff (ledger 0x48 { hw1 with fw := { hw1.fw with phase := none } })
    else if !phaseOver hw p then hw
    else
      let ends := (nextCmd hw).elim 0 (fun c => allowStart { c with next := c.next + 1 })
      let hw0 := (queuedFatal hw p).elim hw (fun cls => modCmd p (failCmd cls) hw)
      let hw1 := cleanCores p { hw0 with fw := { hw0.fw with phase := none } }
      let step (c : Cmd) : Cmd :=
        let c1 := { c with next := c.next + 1 }
        if c1.status ≠ 0 ∨ c1.next = c1.nphase then { c1 with fin := true } else c1
      let hw2 := modCmd p step hw1
      handOff (if p.stopped then overrun (hw.frame - ends) hw2 else hw2)

/-- A write of MSH_FENCE_CTL with GO (R396, R397, R469). A fenced cluster leaves service only by a cold reset: a warm reset that waits for an
exit is dropped (R401, R466). -/
def fenceGo (u : Writer) (v : W32) (hw : Hw) : Hw :=
  let st := cluState hw
  if !(st = 4 ∨ st = 5 ∨ st = 6) ∨ hw.boot.drain.isSome then refuse u.unit hw
  else
    let hw0 := { hw with boot := { hw.boot with warmAfter := false } }
    let hw1 := (hw0.setReg 0x700020 (v &&& 2#32)).setReg 0x700030 1#32
    let hw2 := irq 0x0A (setState 7 (hw1.orReg 4 0x10))
    let hw3 := match hw2.fw.phase with
      | some p =>
        if nbit v.toNat 1 ∧ !p.running ∧ fwRuns hw2 then
          let h := stopUnits (phaseDisarm hw2)
          { h with fw := { h.fw with phase := none, loading := none } }
        else hw2
      | none => hw2
    if fwRuns hw3 then ledger 0xC4 (handOff hw3) else hw3

/-- Every queue is parked: those that wait only for the boundary at which they enter the table, whose victims have left, and the resident
ones, pinned or not (R398). -/
def parkAll (hw : Hw) : Hw :=
  let gone := hw.fw.inc.filterMap (fun p => p.victim)
  let hw1 := hw.fw.inc.foldl (fun h p => parkNow p.qid h) hw
  let hw2 := { hw1 with fw := { hw1.fw with inc := [], res := hw1.fw.res.filter (fun r => decide (r.qid ∉ gone)) } }
  (hw2.fw.res.map (fun r => r.qid)).foldl (fun h q => parkNow q h) hw2

/-- FENCE_DRAIN_DONE: every accepted command is completed; firmware stops the channels, and once all units are idle parks every queue; once
every context is in the store, STEP 2 sends FENCE and tells SCH (R398, R399). -/
def fenceDrainDone (hw : Hw) : Hw :=
  if !fwRuns hw ∨ cluState hw ≠ 7 ∨ hw.fld 0x700030 0 2 ≠ 1 ∨ !hw.fw.cmds.isEmpty ∨ hw.fw.phase.isSome ∨
      !coresRest hw 0xFF ∨ !carsRest hw (2 ^ 64 - 1) then hw
  else
    let hw1 := (List.finRange 64).foldl (fun h k => tenStop k h) hw
    if !(List.range 64).all (fun k => (hw1.te k).flights.isEmpty) ∨ hw1.fw.inc.any (fun p => decide (p.stage ≠ 2)) then hw1
    else
      let hw2 := parkAll hw1
      if !postsDone hw2 0x19 then hw2
      else
        let hw3 := sendFence (hw2.setFld 0x700030 0 2 2)
        ledger 0xC4 (fwMail 2 0x92 [hw3.cid] hw3)

/-- FENCE_ACKS_DONE: every far channel has acknowledged its FENCE or is LOST, those that their peers have fenced too (R399, R439). -/
def fenceAcksDone (hw : Hw) : Hw :=
  let waits (c : Nat) : Bool := farLive hw c &&
    ((hw.chan c).kept ++ (hw.chan c).waitq).any (fun p => decide (p.typ = 0x08))
  if hw.fld 0x700030 0 2 ≠ 2 ∨ (List.range 32).any waits then hw
  else
    let hw1 := hw.setFld 0x700030 0 2 3
    if fwRuns hw then ledger 0xC4 hw1 else hw1

end Sys2Proof.Machine
end

