-- ==== Sys2Proof/Machine/KcCtl.lean ====
section
/-!
DEFINITION. The control core's surroundings (spec/13): traps and interrupts (R412–R416), the watchdog (R431, R432), loading and
authentication (R421, R422), mailboxes (R423, R424), epochs (R425, R426), the power loop (R430) and live update (R433–R437).
-/
namespace Sys2Proof.Machine

def KCP_TSTAT : Nat := 0xD00004

def kcInTrap (hw : Hw) : Bool := nbit (hw.reg KCP_TSTAT).toNat 0
def kcIe (hw : Hw) : Bool := nbit (hw.reg KCP_TSTAT).toNat 1

/-! ### Traps (R412–R415) -/

/-- The vector of a trap cause. -/
def kcVector (cause : Nat) : Nat := if cause = 0x10 then 0x400 else if cause = 0x1F then 0x7C0 else 0x40 * cause

/-- An access of the instruction that KC executes has not been served, or its result not been used. -/
def kcBusy (hw : Hw) : Bool := hw.bg.any (fun b => match b.what with
  | .kc _ => true
  | _ => false)

/-- KC halts and the cluster enters FAILED (R415). -/
def kcHalt (hw : Hw) : Hw := setState 9 ((kcDrop hw).modKc (fun k => { k with halted := true, micro := false }))

/-- KC goes to a vector. -/
def kcJump (cause : Nat) (hw : Hw) : Hw :=
  (kcDrop hw).modKc (fun k => { k with pc := (hw.reg64 0xD00018 / 2048 * 2048 + kcVector cause) % 2 ^ 64, wfi := false, micro := false })

/-- What R412 saves of a trap: its return address, and the address of its data where it has one. -/
def kcSave (tpc : Nat) (addr : Option Nat) (hw : Hw) : Hw :=
  let hw1 := hw.setReg64 0xD00008 tpc
  match addr with
  | some a => hw1.setReg64 0xD00010 a
  | none => hw1

/-- A trap that arises while IN_TRAP is 1 (R414): the fatal entry. -/
def kcDouble (cause tpc : Nat) (addr : Option Nat) (hw : Hw) : Hw :=
  let first := hw.fld KCP_TSTAT 16 5
  let hw1 := raise { cls := cDOUBLE_TRAP, sev := 3, unit := 0x18, q := .none, syn := cause + first * 0x100 } hw
  let hw2 := (kcSave tpc addr hw1).setFld KCP_TSTAT 16 5 0x1F
  kcJump 0x1F (enterArchiving ((hw2.orReg KCP_TSTAT 8).clrReg KCP_TSTAT 2))

/-- KC takes a trap: cause, return address, data address, interrupt source, KTRAP's code (R412–R415). -/
def kcTrap (cause tpc : Nat) (addr src code : Option Nat) (hw : Hw) : Hw :=
  if kcFatal hw then kcHalt hw
  else if kcInTrap hw then kcDouble cause tpc addr hw
  else
    let hw1 := (kcSave tpc addr hw).setFld KCP_TSTAT 16 5 cause
    let hw2 := match src with
      | some s => hw1.setFld KCP_TSTAT 24 8 s
      | none => hw1
    let hw3 := match code with
      | some c => hw2.setFld KCP_TSTAT 4 12 c
      | none => hw2
    kcJump cause (((hw3.setFld KCP_TSTAT 2 1 (hw.fld KCP_TSTAT 1 1)).clrReg KCP_TSTAT 2).orReg KCP_TSTAT 1)

/-! ### Interrupts (R416) -/

/-- The level sources of KCP_IRQ_PEND word `i`. -/
def irqLevels (hw : Hw) (i : Nat) : Nat :=
  if i = 0 then (List.range 3).foldl (fun a m => a + b2n (nbit (hw.reg (mbox m + 0x204)).toNat 1) * 2 ^ m) 0
  else if i = 1 then b2n (nbit (hw.reg 0x500044).toNat 0)
  else (hw.reg (0x601000 + 4 * (i - 2))).toNat

/-- KCP_IRQ_PEND word `i` as it reads. -/
def irqPend (hw : Hw) (i : Nat) : Nat := (hw.reg (0xD00040 + 4 * i)).toNat ||| irqLevels hw i

/-- The lowest source that is pending and enabled. -/
def irqSource (hw : Hw) : Option Nat :=
  (List.range 128).find? (fun j => nbit (irqPend hw (j / 32)) (j % 32) && nbit (hw.reg (0xD00050 + 4 * (j / 32))).toNat (j % 32))

/-- WFI ends once an enabled source is pending; in SHELVED KC stays in WFI until the exit completes (R474). -/
def kcWake (hw : Hw) : Hw :=
  if hw.kc.wfi ∧ (irqSource hw).isSome ∧ pwrState hw ≠ 2 then hw.modKc (fun k => { k with wfi := false }) else hw

/-- KC_INTERRUPT: KC takes the lowest source that is pending and enabled, with IE 1 and outside the trap window, once no instruction or
element waits for an access; a micro-routine keeps its progress (R416, R418). -/
def kcInterrupt (hw0 : Hw) : Hw :=
  let hw := kcWake hw0
  if !hw.kc.on ∨ hw.kc.halted ∨ hw.kc.wfi ∨ !kcIe hw ∨ kcInTrap hw ∨ kcBusy hw then hw
  else match irqSource hw with
    | none => hw
    | some s => kcTrap 0x10 hw.kc.pc none (some s) none hw

/-- KC_TIMER_MATCH: TIM_FRAME reached KCP_TIMER while EN is 1. -/
def kcTimer (hw : Hw) : Hw := if nbit (hw.reg 0xD00030).toNat 0 ∧ hw.reg64 0xD00028 = hw.frame then irq 0x04 hw else hw

/-! ### Watchdog (R431, R432) -/

/-- A write of KCP_WDT_KICK. -/
def wdtKick (v : W32) (hw : Hw) : Hw :=
  if fieldOf v 0 16 = 0xC864 then hw.modKc (fun k => { k with missed := false }) else hw.bump 0xD00088 16 8

/-- The second expiry: KC alone is reset and starts at the fatal vector in the trap window; KCP_TBASE stands (log entry 22). -/
def wdtFatal (hw : Hw) : Hw :=
  let hw1 := raise { cls := cWATCHDOG, sev := 3, unit := 0x18, q := .none } hw
  let hw2 := (hw1.setReg 0xD00000 0x10#32).setReg KCP_TSTAT 0x001F0009#32
  kcJump 0x1F (enterArchiving { hw2 with kc := { kcFresh with on := true } })

/-- WATCHDOG_EXPIRY: a period ends without a kick; the watchdog runs from the release of KC and pauses in SHELVED and once OFF is accepted
(R432, R473, R475). -/
def watchdogExpiry (hw : Hw) : Hw :=
  if !hw.kc.on ∨ pwrState hw = 2 ∨ offAccepted hw then hw
  else
    let hw1 := hw.bump 0xD00088 8 8
    if kcFatal hw then kcHalt hw1
    else if hw.kc.missed then wdtFatal hw1
    else irq 0x07 ((hw1.orReg 0xD00088 1).modKc (fun k => { k with missed := true }))

/-! ### Mailboxes (R423, R424, R514) -/

/-- A write of MB_CTL.SEND of mailbox `m` by unit `u`. -/
def mbSend (m : Fin 3) (u : Writer) (hw : Hw) : Hw :=
  let b := mbox m.val
  if outBusy hw m.val then refuse u.unit hw
  else
    let w0 := hw.reg b
    let n := fieldOf w0 16 7
    let l := (List.range n).flatMap (fun i => leBytes (hw.reg (b + 4 * i)).toNat 4)
    emit (.mail m.val l) ((hw.setFld (b + 0x204) 16 8 (fieldOf w0 8 8)).orReg (b + 0x204) 1)

/-- A write of MB_CTL.ACK: INFULL clears. -/
def mbAck (m : Fin 3) (hw : Hw) : Hw := hw.clrReg (mbox m.val + 0x204) 2

/-- The peer delivers a message of 1 to 64 words; while INFULL is 1 nothing happens (R514). A shelved cluster begins its exit (R474). -/
def svcSend (m : Fin 3) (ws : List W32) (hw : Hw) : Hw :=
  let b := mbox m.val
  if nbit (hw.reg (b + 0x204)).toNat 1 then hw
  else
    let l := ws.take 64
    let hw1 := (l.mapIdx (fun i w => (i, w))).foldl (fun h p => h.setReg (b + 0x100 + 4 * p.1) p.2) hw
    let seq := fieldOf (hw1.reg (b + 0x100)) 8 8
    exitTrigger ((hw1.setFld (b + 0x204) 8 8 seq).orReg (b + 0x204) 2)

/-- The peer acknowledges: OUTBUSY clears, and what waits for the mailbox is sent, the hub's messages first (R424). -/
def svcAck (m : Fin 3) (hw : Hw) : Hw :=
  let hw1 := hw.clrReg (mbox m.val + 0x204) 1
  let hw2 := match hw1.sync.schq with
    | (t, k) :: l => if m.val = 2 then postMail 2 t [k] (hw1.modSync (fun s => { s with schq := l })) else hw1
    | [] => hw1
  mailNext 2 (mailNext 1 (mailNext 0 hw2))

/-- Word `i` of the message that waits in mailbox `m`. -/
def inWord (hw : Hw) (m i : Nat) : Nat := (hw.reg (mbox m + 0x100 + 4 * i)).toNat

/-- The length in words of each inbound type of mailbox `m`; none for a type that does not belong there (R424). -/
def inLength (m t : Nat) : Option Nat :=
  if m = 0 then (if t = 0x20 then some 2 else none)
  else if m = 1 then (if t = 1 ∨ t = 2 ∨ t = 3 then some 2 else none)
  else if t = 0x10 then some 6 else if t = 0x11 then some 2 else none

/-- A message waits in mailbox `m`: one of type `t` goes to `k` and is acknowledged; one of no known type or of a wrong length is
acknowledged, discarded and entered in the ledger; another is left (R424). -/
def onMessage (m : Fin 3) (t : Nat) (hw : Hw) (k : Hw → Hw) : Hw :=
  let w0 := inWord hw m.val 0
  if !nbit (hw.reg (mbox m.val + 0x204)).toNat 1 then hw
  else if inLength m.val (nbits w0 0 8) ≠ some (nbits w0 16 7) then
    (if fwRuns hw then ledger 0xAF (mbAck m hw) else mbAck m hw)
  else if nbits w0 0 8 = t then mbAck m (k hw) else hw

/-- A firmware row acts on a message only while firmware runs. -/
def onFirmware (m : Fin 3) (t : Nat) (hw : Hw) (k : Hw → Hw) : Hw := if fwRuns hw then onMessage m t hw k else hw

/-- BUDGET: a value from 80 to 320 is valid (R430). -/
def mailBudget (hw : Hw) : Hw := onFirmware 1 1 hw (fun hw =>
  let v := nbits (inWord hw 1 1) 0 9
  if 80 ≤ v ∧ v ≤ 320 then { hw with fw := { hw.fw with budget := some v, budgetAt := hw.frame } } else hw)

/-- TEMP: the die temperature in 1/16 °C (R430). -/
def mailTemp (hw : Hw) : Hw := onFirmware 1 2 hw (fun hw =>
  { hw with fw := { hw.fw with temp := some (nsigned (nbits (inWord hw 1 1) 0 16) 16), tempAt := hw.frame } })

/-- SLOWHOLD: firmware writes CLK_SLOW_CTL.HOLD (R430). -/
def mailSlowhold (hw : Hw) : Hw := onFirmware 1 3 hw (fun hw => hw.setFld 0x100004 1 1 (nbits (inWord hw 1 1) 0 1))

/-- MB_BAR_REL: SCH releases a barrier context (R330, R424). -/
def mailBarRel (hw : Hw) : Hw := onMessage 2 0x11 hw (fun hw => barrierRelease (nbits (inWord hw 2 1) 0 6) hw)

/-! ### Epochs (R425, R426) -/

/-- Copy an epoch image into the NEXT tables: die table, calendars, and the first word of each far-channel pair (log entry 23). -/
def copyEpoch (a : Nat) (hw0 : Hw) : Hw :=
  let hw := settle hw0.now hw0
  let w (i : Nat) : Nat := hw.num (a + 4 * i) 4
  let hw1 := (List.range 16).foldl (fun h i => h.setReg (0x700080 + 4 * i) (BitVec.ofNat 32 (w i) &&& 0x87FFFFFF#32)) hw
  let hw2 := (List.range 4).foldl (fun h p => (List.range 260).foldl (fun h s =>
    h.setReg (0x703000 + p * 0x800 + 4 * s) (BitVec.ofNat 32 (w (16 + 260 * p + s)) &&& 0x8F#32)) h) hw1
  (List.range 32).foldl (fun h c => h.setReg (farReg c 4) (BitVec.ofNat 32 (w (1056 + 2 * c)) &&& 0x80FFFFFF#32)) hw2

/-- EPOCH: firmware copies the image, arms the epoch and answers; fewer than 534 frames ahead it is late, and armed for the earliest
boundary (R425). While one is armed the message waits. -/
def mailEpoch (hw : Hw) : Hw :=
  if nbit (hw.reg 0xD0018C).toNat 0 then hw
  else onFirmware 2 0x10 hw (fun hw =>
    let f := inWord hw 2 2 + 2 ^ 32 * inWord hw 2 3
    let late := decide (f < hw.frame + 534)
    let at_ := if late then max f hw.frame else f
    let n := inWord hw 2 1
    let hw1 := (copyEpoch (pairAddr (inWord hw 2 4) (inWord hw 2 5)) hw).setReg64 0xD00180 at_
    let hw2 := { hw1.orReg 0xD0018C 1 with fw := { hw1.fw with epochNum := n, epochTo := if late then at_ + 1 else 0 } }
    let hw3 := fwMail 2 0x90 [n, b2n late] hw2
    if late then ledger 0xA5 hw3 else hw3)

/-- A write of KCP_EPOCH_CTL.ARM. -/
def epochArm (hw : Hw) : Hw := hw.orReg 0xD0018C 1

/-- A write of KCP_EPOCH_CTL.NOW, accepted only while no phase boundary has occurred (R426). -/
def epochNow (u : Writer) (hw : Hw) : Hw := if hw.rcd.phaseSeen then refuse u.unit hw else applyNext false hw

/-! ### Power and thermal loop (R430) -/

/-- One millisecond in frames at normal RCLK; in slow-exact mode as many frames last twice as long (R4). -/
def msFrames : Nat := 266667

/-- Step 1: COOL_NEXT is 1 only while the latest TEMP of the last millisecond is below 85 °C (R224). -/
def loopTemp (hw : Hw) : Hw :=
  let cool := match hw.fw.temp with
    | some t => decide (t < 85 * 16) && decide (hw.frame ≤ hw.fw.tempAt + msFrames)
    | none => false
  hw.setFld 0x900000 0 1 (b2n cool)

/-- Step 2: PWR_METER is read, which clears MAX, and METER is sent. -/
def loopMeter (hw : Hw) : Hw :=
  let hw1 := fwMail 1 0x81 [hw.fld 0x200020 16 9, hw.fw.tokens] hw
  { hw1.setFld 0x200020 16 9 0 with fw := { hw1.fw with tokens := 0 } }

/-- Firmware writes PWR_BUDGET.NEXT and enters a change in the ledger. -/
def setBudget (v pt : Nat) (hw : Hw) : Hw :=
  let hw1 := hw.setFld 0x200000 16 9 v
  if hw.fld 0x200000 16 9 = v then hw1 else ledger pt hw1

/-- Steps 3 and 4. -/
def loopBudget (hw : Hw) : Hw :=
  match hw.fw.budget with
  | some v => setBudget v 0x80 { hw with fw := { hw.fw with budget := none, safe := false } }
  | none =>
    if hw.frame ≤ hw.fw.budgetAt + msFrames then hw
    else
      let hw1 := setBudget (safeBudget hw) 0x81 { hw with fw := { hw.fw with safe := true } }
      fwMail 1 0x82 [safeBudget hw] hw1

/-- Firmware updates FWFRAME and FWSEQ in the host page, in free slots (R17, R357). -/
def hostPage (hw : Hw) : Hw :=
  let n := leNat (hw.seen 0x2003FFF048 4)
  post 0x18 0 0x2003FFF048 (leBytes (n + 1) 4) (post 0x18 0 0x2003FFF040 (leBytes hw.frame 8) hw)

/-- POWER_LOOP_TICK. -/
def powerLoop (hw : Hw) : Hw := if fwRuns hw then hostPage (loopBudget (loopMeter (loopTemp (settle hw.now hw)))) else hw

/-! ### Loading and authentication (R421, R422) -/

/-- The address of a slot of tightly coupled memory. -/
def slotBase (s : Nat) : Nat := 0x3C00000000 + s * 0x20000

/-- A word of a slot's image header. -/
def imgWord (hw : Hw) (s o : Nat) : Nat := hw.num (slotBase s + o) 4

/-- The header's fields and reserved bytes pass. -/
def headerOk (hw : Hw) (s : Nat) : Bool :=
  let len := imgWord hw s 8
  let ent := imgWord hw s 0xC
  let lg := imgWord hw s 0x1C
  decide (imgWord hw s 0 = 0x43465731 ∧ imgWord hw s 4 = 1) && decide (len % 256 = 0 ∧ len ≤ 130816) &&
  decide (ent % 4 = 0 ∧ 0x100 ≤ ent ∧ ent + 4 ≤ 0x100 + len) && decide (imgWord hw s 0x14 < 256) && decide (12 ≤ lg ∧ lg ≤ 20) &&
  (hw.bytes (slotBase s + 0x20) 0x80).all (fun b => decide (b = 0))

/-- A load or update fails: a record, and the reason in the block's register. -/
def authRecord (hw : Hw) : Hw := raise { cls := cFIRMWARE_AUTH, sev := 1, unit := 0x18, q := .none } hw
def bootFail (reason : Nat) (hw : Hw) : Hw := authRecord (hw.setReg 0xD000C4 (BitVec.ofNat 32 (4 + reason * 0x100)))
def setStep (n : Nat) (hw : Hw) : Hw := let h := hw.setFld 0xD000D4 0 3 n; if fwRuns h then ledger (0x08 + n) h else h
def updFail (reason : Nat) (hw : Hw) : Hw := authRecord (setStep 0 (hw.setFld 0xD000D4 8 8 reason))

/-- A write of KCP_BOOT.AUTH. -/
def authStart (u : Writer) (hw0 : Hw) : Hw :=
  let hw := settle hw0.now hw0
  let st := hw.fld 0xD000C4 0 3
  if cluState hw ≠ 3 ∨ st = 1 ∨ st = 2 then refuse u.unit hw
  else if headerOk hw 0 then hw.setReg 0xD000C4 1#32
  else bootFail 1 hw

/-- AUTH_REQ with the digest and signature of a slot, as little-endian words of their bytes. -/
def authRequest (s : Nat) (hw : Hw) : Hw :=
  let b := slotBase s
  let d := sha384 (hw.bytes b 0xA0 ++ hw.bytes (b + 0x100) (imgWord hw s 8))
  let ws (l : List Byte) : List Nat := (chunks 4 l.length l).map leNat
  fwMail 0 0xA0 ((s + imgWord hw s 0x14 * 0x100) :: ws d ++ ws (hw.bytes (b + 0xA0) 96)) hw

/-- HASH_DONE: the hash of slot 0, or of slot 1 in an update, is complete. -/
def hashDone (hw0 : Hw) : Hw :=
  let hw := settle hw0.now hw0
  if hw.fld 0xD000C4 0 3 = 1 then authRequest 0 (hw.setReg 0xD000C4 2#32)
  else if hw.fld 0xD000D4 0 3 = 2 then authRequest 1 (setStep 3 hw)
  else hw

/-- KC begins at an address in W0 with OCC 1, SPILLED 0 and IE 0, outside the trap window, with w.i0 to w.i2 given (R422, R435). -/
def kcEnter (pc i0 i1 i2 : Nat) (hw : Hw) : Hw :=
  let hw1 := ((kcDrop hw).setReg 0xD00000 0x10#32).clrReg KCP_TSTAT 3
  let v (n : Nat) : W64 := BitVec.ofNat 64 n
  hw1.modKc (fun k => { k with
    on := true, halted := false, wfi := false, micro := false, missed := false, pc := pc
    outs := ((k.outs.setIfInBounds 56 (v i0)).setIfInBounds 57 (v i1)).setIfInBounds 58 (v i2) })

/-- The released image's ENTRY and VERSION. -/
def kcRelease (hw : Hw) : Hw :=
  let hw1 := kcEnter (slotBase 0 + imgWord hw 0 0xC) 0 0 0 hw
  ledger 0x00 { hw1 with fw := { hw1.fw with slotVersion := imgWord hw 0 0x10 } }

/-- AUTH_RESULT: SEC's verdict (R422, R434). -/
def authResult (hw : Hw) : Hw := onMessage 0 0x20 hw (fun hw =>
  let pass := nbit (inWord hw 0 1) 0
  if hw.fld 0xD000C4 0 3 = 2 then (if pass then kcRelease (hw.setReg 0xD000C4 3#32) else bootFail 2 hw)
  else if hw.fld 0xD000D4 0 3 = 3 then (if pass then setStep 4 hw else updFail 2 hw)
  else hw)

/-- AUTH_TIMEOUT: 100 ms without SEC's answer. -/
def authTimeout (hw : Hw) : Hw :=
  if hw.fld 0xD000C4 0 3 = 2 then bootFail 3 hw
  else if hw.fld 0xD000D4 0 3 = 3 then updFail 3 hw
  else hw

/-! ### Live update (R433–R437) -/

def isHost (u : Writer) : Bool := decide (u ≠ .kc)

/-- A host's write of KCP_UPD_CTL is source 0x09. -/
def updSeen (u : Writer) (hw : Hw) : Hw := if isHost u then irq 0x09 hw else hw
def updStep (hw : Hw) : Nat := hw.fld 0xD000D4 0 3

/-- OPEN (R433). -/
def updOpen (u : Writer) (hw0 : Hw) : Hw :=
  let hw := updSeen u hw0
  if !isHost u ∨ !(cluState hw = 4 ∨ cluState hw = 5) ∨ updStep hw ≠ 0 then refuse u.unit hw
  else if fwRuns hw then setStep 1 (hw.orReg 0xD000D4 8) else hw

/-- COMMIT, a host's at STEP 1 (R434). -/
def updCommit (u : Writer) (hw0 : Hw) : Hw :=
  let hw := settle hw0.now (updSeen u hw0)
  if !isHost u ∨ updStep hw ≠ 1 then hw
  else
    let hw1 := hw.clrReg 0xD000D4 8
    if headerOk hw 1 then setStep 2 hw1 else updFail 1 hw1

/-- ABANDON below STEP 4 (R434). -/
def updAbandon (u : Writer) (hw0 : Hw) : Hw :=
  let hw := updSeen u hw0
  if updStep hw < 4 then setStep 0 (hw.clrReg 0xD000D4 8) else hw

/-- The next phase of a command to run: the one after the phase that runs. -/
def nextPhase (hw : Hw) (c : Cmd) : Nat :=
  match hw.fw.phase with
  | some p => if p.running ∧ p.qid = c.qid ∧ p.idx = c.idx ∧ (nextCmd hw) = some c then c.next + 1 else c.next
  | none => c.next

/-- A calendar entry of the handoff record. -/
def calendarEntry (hw : Hw) (c : Cmd) : List Byte :=
  leBytes (c.qid + c.cid * 2 ^ 16) 4 ++ leBytes (nextPhase hw c % 2 ^ 11 + c.nphase * 2 ^ 16) 4 ++ leBytes (runList c.body) 8 ++ leBytes c.allow 8 ++
  leBytes c.promise 8

/-- The handoff record (R437; spec/13, "Handoff record header"). -/
def handoffBytes (hw : Hw) : List Byte :=
  let cs := hw.fw.cmds.filter (fun c => decide (c.typ = 1) && !c.fin && !c.refused)
  let ents := cs.flatMap (calendarEntry hw)
  let planned := match hw.fw.phase with
    | some p => if p.running then 0 else p.start
    | none => 0
  let nextq := match nextQueue hw with
    | some (q, _) => q
    | none => (hw.fw.last + 1) % 16384
  let seq (m : Nat) : Nat := hw.fld (mbox m + 0x204) 8 8
  let head := leBytes 1 4 ++ leBytes (64 + ents.length) 4 ++ leBytes (imgWord hw 0 0x10) 4 ++ leBytes hw.fw.epochNum 4 ++
    leBytes hw.fw.calEnd 8 ++ leBytes planned 8 ++ leBytes (nextq + cs.length * 2 ^ 16) 4 ++ leBytes (hw.fw.attached.getD 0) 4 ++
    leBytes (b2n hw.fw.attached.isSome + 2 * b2n hw.fw.orphan + 4 * b2n hw.fw.safe + 8 * hw.fld 0x900000 0 1) 4 ++
    leBytes (seq 0 + seq 1 * 2 ^ 8 + seq 2 * 2 ^ 16) 4 ++ List.replicate 12 0
  head ++ leBytes (crc32 (head ++ ents)) 4 ++ ents

/-- The slots exchange addresses. -/
def swapSlots (hw : Hw) : Hw := { hw with tcmSwap := !hw.tcmSwap }.setFld 0xD000D4 4 1 (b2n !hw.tcmSwap)

/-- SWITCH, by KC (R435): the handoff record is written (R437), the slots are exchanged, and KC begins the new image. -/
def updSwitch (u : Writer) (hw0 : Hw) : Hw :=
  let hw := settle hw0.now (updSeen u hw0)
  if isHost u ∨ updStep hw ≠ 4 ∨ nbit (hw.reg 0x300018).toNat 0 ∨ nbit (hw.reg KCP_PROG).toNat 31 ∨ kcInTrap hw then
    refuse u.unit hw
  else
    let ho := hw.reg64 0xD000D8
    let old := imgWord hw 0 0x10
    let hw1 := swapSlots (hw.store ho (handoffBytes hw))
    let hw2 := kcEnter (slotBase 0 + imgWord hw1 0 0xC) ho old 0 hw1
    setStep 5 { hw2 with fw := { hw2.fw with slotVersion := imgWord hw1 0 0x10 } }

/-- CONFIRM, by KC at STEP 5 (R436). -/
def updConfirm (u : Writer) (hw0 : Hw) : Hw :=
  let hw := updSeen u hw0
  if isHost u ∨ updStep hw ≠ 5 then hw else setStep 0 hw

/-- The old firmware comes back (R436). -/
def rollback (reason : Nat) (hw : Hw) : Hw :=
  let hw1 := swapSlots hw
  let v := imgWord hw1 0 0x10
  let hw2 := kcEnter (slotBase 0 + imgWord hw1 0 0xC) (hw1.reg64 0xD000D8) v 1 hw1
  ledger 0x0E (updFail reason { hw2 with fw := { hw2.fw with slotVersion := v } })

/-- REJECT, by KC at STEP 5. -/
def updReject (u : Writer) (hw0 : Hw) : Hw :=
  let hw := settle hw0.now (updSeen u hw0)
  if isHost u ∨ updStep hw ≠ 5 then hw else rollback 4 hw

/-- 10 ms without CONFIRM. -/
def updTimeout (hw0 : Hw) : Hw :=
  let hw := settle hw0.now hw0
  if updStep hw ≠ 5 then hw else rollback 5 hw

end Sys2Proof.Machine
end

