-- ==== Sys2Proof/Machine/FaultPath.lean ====
section
/-!
DEFINITION. The path of a fault record (spec/15): raising by KC (R484), the ring (R482, R483, R494), what firmware does with a record
(R429, R439, R487), the supply monitor (R494, R509) and the end of ARCHIVING (R495).
-/
namespace Sys2Proof.Machine

/-! ### Raising a record (R484) -/

/-- The record in FLT_RAISE0–10. -/
def raisedRec (hw : Hw) : FaultRec :=
  let w (k : Nat) : Nat := (hw.reg (0xB00080 + 4 * k)).toNat
  let pair (k : Nat) : Nat := w k + 2 ^ 32 * w (k + 1)
  { cls := nbits (w 0) 0 8, sev := nbits (w 0) 8 2, unit := nbits (w 0) 16 8, ch := nbits (w 0) 24 2
    q := .word (w 1)
    instr := pair 2 % 2 ^ 41, exp := pair 4, act := pair 6, addr := pair 8 % 2 ^ 59, syn := w 10 }

/-- A write of 1 to FLT_RAISE_CTL.GO. -/
def fltRaise (u : Writer) (hw : Hw) : Hw :=
  let r := raisedRec hw
  if r.cls = 0 ∨ u ≠ .kc ∨ !canAccept hw r then refuse u.unit hw else raise r hw

/-! ### Firmware's answer to a record (R429, R487) -/

/-- A ring record's bytes. -/
def ringBytes (hw : Hw) (seq : Nat) : List Byte := hw.bytes (reservedBase hw + 0x800000 + 64 * (seq % 16384)) 64

/-- The group and row that an address names; a spare row that serves none has no address, and its record 0 (log entry 114). -/
def rowAt (hw : Hw) (a : Nat) : Option (Nat × Nat) :=
  match regionOf hw a with
  | .bm g o => if a = 0 then none else some (g, rowOf o)
  | _ => none

/-- Records of BM_CORRECTED in the ring that name a row within one scrub pass. -/
def rowHits (hw : Hw) (x : Nat × Nat) : Nat :=
  let w := (hw.reg FLT_WIDX).toNat
  ((List.range (min w 16384)).filter (fun i =>
    let b := ringBytes hw (w - 1 - i)
    decide (leAt b 0 1 = cBM_CORRECTED ∧ hw.frame ≤ leAt b 0x30 8 + 25600 * 520 ∧ rowAt hw (leAt b 0x20 8) = some x))).length

/-- Retire a row: a shadow entry for a free spare row of its bank, and a rebuild; without a free spare the ledger tells the row
(R487). While a rebuild runs, the row waits for its end. -/
def retireRow (g row : Nat) (hw : Hw) : Hw :=
  let es := remapEntries hw.shadow g
  if es.any (fun x => decide (x.2.1 = row)) then hw
  else if hw.bmc.busy then { hw with fw := { hw.fw with retire := if (g, row) ∈ hw.fw.retire then hw.fw.retire else hw.fw.retire ++ [(g, row)] } }
  else
    let spare := (List.range 64).find? (fun s => es.all (fun x => decide (rowBank hw x.2.1 ≠ rowBank hw row ∨ x.2.2 ≠ s)))
    let slot := (List.range 1024).find? (fun e => es.all (fun x => decide (x.1 ≠ e)))
    match spare, slot with
    | some s, some e =>
      remapStart .kc { hw with shadow := tabPut (fun _ => 0#32) (1024 * g + e) (BitVec.ofNat 32 (2 ^ 31 + row * 2 ^ 16 + s)) hw.shadow }
    | _, _ => tracePoint 0xE0 (ledgerBody 0xE0 false (leBytes row 4 ++ leBytes g 4 ++ List.replicate 8 0) hw)

/-- The rows that waited for the end of a rebuild (R487). -/
def retireNext (hw : Hw) : Hw :=
  if hw.bmc.busy ∨ !fwRuns hw then hw
  else hw.fw.retire.foldl (fun h x => retireRow x.1 x.2 h) { hw with fw := { hw.fw with retire := [] } }

/-- The overdue watch has tripped: firmware stops the phase with class DEADLOCK and clears OW_STAT.TRIPPED, which restarts the count (R339, R429). -/
def overdueFirm (hw : Hw) : Hw := if fwRuns hw ∧ nbit (hw.reg 0x500044).toNat 0 then (stopPhase cDEADLOCK hw).clrReg 0x500044 0x1FFF0001 else hw

/-- OVERDUE_TRIP: the trip, and what firmware does on source 0x20. -/
def overdueRow (hw : Hw) : Hw := overdueFirm (overdueTrip hw)

/-- The running phase is the one of a record. -/
def inPhase (hw : Hw) (l : List Byte) : Bool := hw.fw.phase.any (fun p => ofPhase p (leAt l 4 4) (leAt l 0x30 8))

/-- What firmware does with a record of the ring: the ledger, the end of the phase of a fatal one, a row that was corrected thrice. -/
def firmwareRecord (l : List Byte) (hw : Hw) : Hw :=
  if !fwRuns hw then hw
  else
    let cls := leAt l 0 1
    let hw1 := tracePoint 0xE0 (ledgerEntry 0xE0 (some l) hw)
    let hw3 := if 2 ≤ nbits (leAt l 0 4) 8 2 ∧ inPhase hw l then stopPhase cls hw1 else hw1
    if cls ≠ cBM_CORRECTED then hw3
    else match rowAt hw3 (leAt l 0x20 8) with
      | some x => if 3 ≤ rowHits hw3 x then retireRow x.1 x.2 hw3 else hw3
      | none => hw3

/-- The record at the head of the queue has been written and acknowledged: it is copied, FLT_WIDX advances, firmware sees it (R482). -/
def recordWritten (l : List Byte) (hw : Hw) : Hw :=
  let seq := (hw.reg FLT_WIDX).toNat
  let hw2 := (List.range 16).foldl (fun h k => h.setReg (0xB00040 + 4 * k) (BitVec.ofNat 32 (leAt l (4 * k) 4))) hw
  let fatal := if nbits (leAt l 0 4) 8 2 = 3 then l else hw.rcd.fatal
  let hw3 := { hw2 with rcd := { hw2.rcd with queue := hw.rcd.queue.drop 1, fatal := fatal } }.setReg FLT_WIDX (BitVec.ofNat 32 (seq + 1))
  firmwareRecord l (irq 0x05 hw3)

/-- The ring write of bytes `l` waits for a free slot, before every other request (R18, R482). -/
def ringRequest (l : List Byte) (hw : Hw) : Hw :=
  let a := reservedBase hw + 0x800000 + 64 * ((hw.reg FLT_WIDX).toNat % 16384)
  bgAdd { bgNew hw 0 [.wr a l] .ring with got := l } hw

/-- RECORD_RING_WRITE: the record at the head of the queue asks for a slot, and once its ring write has been served it is acknowledged and
copied (R482); with the bonded memory out of service only the copy is kept (R494). -/
def recordRingWrite (hw : Hw) : Hw :=
  match hw.rcd.queue with
  | [] => hw
  | e :: _ =>
    let l := recBytes (hw.reg FLT_WIDX).toNat e
    if !hw.rcd.ringOn then hw
    else if hw.boot.pwrfail then recordWritten l (bgDrop .ring hw)
    else match hw.bg.find? (fun b => decide (b.what = .ring)) with
      | none => ringRequest l hw
      | some b =>
        if b.got ≠ l then ringRequest l (bgDrop .ring hw)
        else if b.todo.isEmpty then recordWritten l (bgDrop .ring hw)
        else hw

/-! ### Training and the supply (R461, R494, R509) -/

/-- The record that CAT_REC holds (R457, R461). -/
def holdRecord (r : FaultRec) (hw : Hw) : Hw :=
  let l := recBytes 0 ⟨hw.now, hw.frame, 0, 0, r⟩
  (List.range 16).foldl (fun h k => h.setReg (0xE00040 + 4 * k) (BitVec.ofNat 32 (leAt l (4 * k) 4))) hw

/-- A group fails training: the cluster is FAILED (R461). -/
def trainFail (g : Nat) (hw : Hw) : Hw :=
  let hw1 := holdRecord { cls := cBM_UNCORRECTABLE, sev := 3, unit := 0xF0, q := .none } hw
  setState 9 (hw1.setReg 0x900020 (BitVec.ofNat 32 (2 + g * 0x100)))

/-- BM_SUPPLY_TRIP: BM_PWRFAIL rises and stays until a cold reset (R494, R509). -/
def supplyTrip (hw : Hw) : Hw :=
  if hw.boot.pwrfail then hw
  else
    let hw1 := emit (.pin 1 true) { hw with boot := { hw.boot with pwrfail := true } }
    if cluState hw = 2 then trainFail 0x7F hw1
    else
      let hw2 := raise { cls := cBM_UNCORRECTABLE, sev := 3, unit := 0xF0, q := .none, syn := 0xF00 } hw1
      enterArchiving hw2

/-- ARCHIVE_LIMIT_EXPIRY: ARCHIVING has lasted FLT_ARC_LIMIT frames (R495). -/
def archiveLimit (hw : Hw) : Hw :=
  if cluState hw = 8 ∧ hw.reg64 0xB00308 + (hw.reg 0xB00310).toNat ≤ hw.frame then kcHalt hw else hw

end Sys2Proof.Machine
end

