-- ==== Sys2Proof/Machine/Boot.lean ====
section
/-!
DEFINITION. Straps, start-up, resets and power states (spec/14): from PORST_N to HELD (R441–R461), the reset commands (R465–R469) and
the power states (R470–R475).
-/
namespace Sys2Proof.Machine

/-! ### Straps and lock (R441, R444, R447, R459, R504) -/

def strapPos (hw : Hw) : Nat := hw.fld 8 0 6
def strapBoot (hw : Hw) : Nat := hw.fld 8 8 2
def strapLayers (hw : Hw) : Nat := hw.fld 8 10 2
def strapCatsel (hw : Hw) : Bool := nbit (hw.reg 8).toNat 12
def strapSafe (hw : Hw) : Bool := nbit (hw.reg 8).toNat 13

/-- PORST_N rises: the straps, laid out as in CLU_STRAP, are sampled, and the boot ID is the cluster's ID (R441, R447). -/
def porstRise (straps : W32) (hw : Hw) : Hw :=
  if hw.boot.porst then hw
  else
    let hw1 := (hw.setReg 8 (straps &&& 0x3F3F#32)).setReg 0xC (BitVec.ofNat 32 (0x3FFC0 + fieldOf straps 0 6))
    { hw1 with boot := { hw1.boot with porst := true, sampled := true } }

/-- PORST_N is low: a cold reset (R464). -/
def porstLow (hw : Hw) : Hw := coldReset hw

def catStep (n : Nat) (hw : Hw) : Hw := hw.setFld 0xE00000 0 4 n
def catCauseSet (n : Nat) (hw : Hw) : Hw := hw.setFld 0xE00000 8 8 n

/-- The start fails for a cause: CAT_STAT and CAT_REC tell (R457). -/
def catFail (cause : Nat) (hw : Hw) : Hw :=
  holdRecord { cls := cCATALOGUE_CRC, sev := 1, unit := 0x1B, q := .none, syn := cause } (catCauseSet cause hw)

/-- What the catalogue fixes (R458): ID, identity, cores, carrels, budget; then training. -/
def applyCat (id part cores safe : Nat) (cmap : List Nat) (hw : Hw) : Hw :=
  let hw1 := (hw.setReg 0xC (BitVec.ofNat 32 id)).setReg 0 (BitVec.ofNat 32 (part * 2 ^ 16 + 0xB000 + strapLayers hw * 2 ^ 6))
  let hw2 := (cmap.mapIdx (fun g x => (g, x))).foldl (fun h p => h.setReg (carReg p.1 0x20) (BitVec.ofNat 32 p.2)) hw1
  let hw3 := hw2.setReg 0x200000 (BitVec.ofNat 32 (safe + safe * 2 ^ 16))
  setState 2 (catStep 6 (catCauseSet 0 { hw3 with coreEn := cores }))

/-- Catalogue bypass (R459). -/
def bypassCat (hw : Hw) : Hw := applyCat (0x3FFC0 + strapPos hw) 0xC864 0xFF 80 (List.range 64) hw

/-- PLL_LOCK: TIM_FRAME counts from here (R22, R504); the boot mode decides what follows (R444, R451, R457, R459). The reader begins once the
check bits are valid (R522). -/
def pllLock (hw : Hw) : Hw :=
  if !hw.boot.porst ∨ hw.clk.lock then hw
  else
    let hw1 := { hw with frame := 0, now := 0, clk := { hw.clk with lock := true } }
    let hw2 := if strapSafe hw then clockRequest true (hw1.orReg 0x100004 2) else hw1
    let bad := decide (strapLayers hw = 0 ∨ strapLayers hw = 3)
    if strapBoot hw = 3 then catStep 8 (catCauseSet 8 hw2)
    else if bad then catFail 6 hw2
    else if strapBoot hw = 2 then catStep 7 (catCauseSet 9 hw2)
    else if strapBoot hw = 1 then bypassCat hw2
    else if strapCatsel hw then catStep 1 { hw2 with boot := { hw2.boot with catReq := true } }
    else hw2

/-- The reader begins, once the check bits of the SRAMs are valid (R522) and, for a shared flash, once it has the grant (R451). -/
def readerBegins (hw : Hw) : Hw :=
  if !hw.boot.checkbits then hw
  else if hw.boot.catReq then (if hw.boot.catGnt ∧ hw.fld 0xE00000 0 4 = 1 then catStep 2 (catCauseSet 0 hw) else hw)
  else if cluState hw = 1 ∧ strapBoot hw = 0 ∧ !strapCatsel hw ∧ hw.fld 0xE00000 0 4 = 0 ∧ hw.fld 0xE00000 8 8 = 0 then catStep 2 hw
  else hw

/-- CHECKBIT_INIT_DONE: no word of the SRAMs keeps an error (R522). -/
def checkbitDone (hw : Hw) : Hw :=
  if !hw.clk.lock ∨ hw.boot.checkbits then hw
  else readerBegins
    { hw with bad := hw.bad.filter isBmKey, soft := hw.soft.filter isBmKey, boot := { hw.boot with checkbits := true } }

/-- CAT_GNT rises (R451). -/
def catGrant (hw : Hw) : Hw := readerBegins { hw with boot := { hw.boot with catGnt := true } }

/-- 20 ms after lock without a grant (R451). -/
def catTimeout (hw : Hw) : Hw :=
  if hw.boot.catReq ∧ !hw.boot.catGnt ∧ hw.fld 0xE00000 0 4 = 1 then catCauseSet 7 hw else hw

/-! ### The catalogue (R450, R454–R458) -/

/-- A parameter table of an SFDP image: the place of the table with an ID, and its length in words (JESD216; log entry 24). -/
def sfdpTable (b : List Byte) (id : Nat) : Option (Nat × Nat) :=
  let held (i : Nat) : Bool := decide (16 + 8 * i ≤ 256 ∧ leAt b (12 + 8 * i) 3 + 4 * leAt b (11 + 8 * i) 1 ≤ 256)
  ((List.range (leAt b 6 1 + 1)).find? (fun i => held i && decide (leAt b (8 + 8 * i) 1 + leAt b (15 + 8 * i) 1 * 256 = id))).map
    (fun i => (leAt b (12 + 8 * i) 3, leAt b (11 + 8 * i) 1))

/-- The mode of transactions 2 and 3, 1-1-1 with STRAP_SAFE (R444), and whether 4-byte addressing is used (R450). -/
def sfdpMode (safe : Bool) (b : List Byte) : Option (Nat × Bool) :=
  if leAt b 0 4 ≠ 0x50444653 then none
  else (sfdpTable b 0xFF00).map (fun t =>
    let w (i : Nat) : Nat := if i ≤ t.2 then leAt b (t.1 + 4 * (i - 1)) 4 else 0
    let quad := nbit (w 1) 22 && decide (15 ≤ t.2 ∧ nbits (w 15) 20 3 = 0)
    let mode := if safe then 0 else if quad then 2 else if nbit (w 1) 16 then 1 else 0
    let bits := if nbit (w 2) 31 then 2 ^ (w 2 % 2 ^ 31) else w 2 + 1
    let four := match sfdpTable b 0xFF84 with
      | some t4 => nbit (leAt b t4.1 4) (if mode = 2 then 4 else if mode = 1 then 2 else 1)
      | none => false
    (mode, decide (2 ^ 27 < bits) && four))

/-- The record's flash offset from the directory, or none for cause 0x02 (R454). -/
def dirOffset (hw : Hw) (dir : List Byte) (four : Bool) : Option Nat :=
  let i := if strapCatsel hw then strapPos hw else 0
  let off := leAt dir (0x10 + 8 * i) 4
  if leAt dir 0 4 ≠ 0x43444952 ∨ leAt dir 4 4 % 128 ≤ i ∨ (2 ^ 24 ≤ off ∧ !four) then none else some off

def recLen (r : List Byte) : Nat := leAt r 6 2

/-- Sections of a record, as (offset, bytes); those that are absent are left out. -/
def recSections (r : List Byte) : List (Nat × Nat) :=
  [(leAt r 0x20 2, 4 * leAt r 0x22 2), (leAt r 0x24 2, leAt r 0x26 2), (leAt r 0x28 2, leAt r 0x2A 2),
   (leAt r 0x2C 2, 256 * nbits (leAt r 0x2C 4) 16 1), (leAt r 0x30 2, 64 * nbits (leAt r 0x30 4) 16 1)].filter (fun s => decide (s.2 ≠ 0))

/-- Sections break R455. -/
def sectionsBad (r : List Byte) : Bool :=
  let ss := recSections r
  ss.any (fun s => decide (s.1 % 4 ≠ 0 ∨ s.1 < 0x80 ∨ recLen r - 4 < s.1 + s.2)) ||
  (ss.mapIdx (fun i s => (ss.drop (i + 1)).any (fun t => decide (s.1 < t.1 + t.2 ∧ t.1 < s.1 + s.2)))).any id

/-- The bits that fields assign to word `i` below 0x80. -/
def recMask (i : Nat) : Nat :=
  match i with
  | 2 => 0x3FFFF
  | 3 => 0x3FFF3F
  | 4 => 0x3FFFF
  | 5 => 0xFF
  | 6 => 0x1FF
  | 7 => 0xFFFF
  | 11 => 0x1FFFF
  | 12 => 0x1FFFF
  | 13 => 0
  | 14 => 0
  | 15 => 0
  | _ => 0xFFFFFFFF

/-- A byte or bit that no field holds is nonzero. -/
def reservedBad (r : List Byte) : Bool :=
  let ss := recSections r
  (List.range 16).any (fun i => decide (leAt r (4 * i) 4 &&& recMask i ≠ leAt r (4 * i) 4)) ||
  ((r.take (recLen r - 4)).mapIdx (fun i b => decide (0x80 ≤ i ∧ b ≠ 0) && ss.all (fun s => decide (i < s.1 ∨ s.1 + s.2 ≤ i)))).any id

/-- Repair entries, as (physical group, row, spare, reserved bits). -/
def repairs (r : List Byte) : List (Nat × Nat × Nat × Nat) :=
  (List.range (leAt r 0x22 2)).map (fun i =>
    let w := leAt r (leAt r 0x20 2 + 4 * i) 4
    (nbits w 21 7, nbits w 6 15, nbits w 0 6, nbits w 28 4))

def recCmap (r : List Byte) : List Nat := (bytesAt r 0x40 64).map (fun b => b.toNat)

/-- Some two members of a list, at different places, are related. -/
def clash {α : Type} (f : α → α → Bool) (l : List α) : Bool := (l.mapIdx (fun i x => (l.drop (i + 1)).any (f x))).any id

def onesOf (n : Nat) : Nat := ((List.range 8).filter (fun i => nbit n i)).length

/-- The repair entries break R457. -/
def repairsBad (hw : Hw) (r : List Byte) : Bool :=
  let es := repairs r
  let banks := if strapLayers hw = 2 then 16 else 8
  let rows := if strapLayers hw = 2 then 24576 else 12288
  decide (2048 < es.length) ||
  es.any (fun e => decide (e.1 ∉ recCmap r ∨ rows ≤ e.2.1 ∨ e.2.2.2 ≠ 0)) ||
  clash (fun a b => decide (a.1 = b.1 ∧ (a.2.1 = b.2.1 ∨ (a.2.1 % banks = b.2.1 % banks ∧ a.2.2.1 = b.2.2.1)))) es

/-- The cause that a record fails with, or 0 (R457). -/
def recordCause (hw : Hw) (r : List Byte) : Nat :=
  let n := recLen r
  let part := leAt r 0x10 2
  let en := leAt r 0x14 1
  let safe := nbits (leAt r 0x18 4) 0 9
  if leAt r 0 4 ≠ 0x43415431 ∨ leAt r 4 2 ≠ 1 ∨ n % 4 ≠ 0 ∨ n < 256 ∨ 32768 < n then 3
  else if crc32 (bytesAt r 0 (n - 4)) ≠ leAt r (n - 4) 4 then 4
  else if !((part = 0xC864 ∧ en = 0xFF) ∨ (part = 0xC764 ∧ onesOf en = 7)) ∨ nbits (leAt r 0x10 4) 16 2 ≠ strapLayers hw ∨
      (strapCatsel hw ∧ nbits (leAt r 0xC 4) 0 6 ≠ strapPos hw) ∨ (recCmap r).any (fun g => decide (67 < g)) ∨
      clash (fun a b => decide (a = b)) (recCmap r) ∨ repairsBad hw r ∨ safe < 80 ∨ 320 < safe ∨ leAt r 0x1C 2 ≠ 0x4240 ∨
      sectionsBad r ∨ reservedBad r then 5
  else 0

/-- Check a record and apply it, or fail (R457, R458). -/
def takeRecord (r : List Byte) (hw : Hw) : Hw :=
  let c := recordCause hw r
  if c ≠ 0 then catFail c hw
  else
    let img (h : Hw) (k : Nat) : Hw := h.setReg (0xE08000 + 4 * k) (BitVec.ofNat 32 (leAt r (4 * k) 4))
    let hw1 := (List.range (recLen r / 4)).foldl img hw
    let hw2 := hw1.setReg 0xE00008 (BitVec.ofNat 32 (recLen r))
    applyCat (nbits (leAt r 8 4) 0 18) (leAt r 0x10 2) (leAt r 0x14 1) (nbits (leAt r 0x18 4) 0 9) (recCmap r) hw2

/-- CATALOGUE_READ_DONE: the reader has read SFDP, directory and record from the flash (R450). -/
def catalogueRead (sfdp dir rec_ : List Byte) (hw0 : Hw) : Hw :=
  if cluState hw0 ≠ 1 ∨ strapBoot hw0 ≠ 0 ∨ hw0.fld 0xE00000 0 4 ≠ 2 ∨ hw0.fld 0xE00000 8 8 ≠ 0 then hw0
  else
    let hw := { hw0 with boot := { hw0.boot with catReq := false, catGnt := false } }
    match sfdpMode (strapSafe hw) (sfdp.take 256) with
    | none => catFail 1 hw
    | some (mode, four) =>
      let hw1 := (hw.setFld 0xE00000 16 2 mode).setFld 0xE00000 18 1 (b2n four)
      match dirOffset hw dir four with
      | none => catFail 2 (catStep 3 hw1)
      | some _ => takeRecord rec_ (catStep 5 hw1)

/-- A write of CAT_CTL.LOAD (R459). -/
def catLoad (u : Writer) (hw0 : Hw) : Hw :=
  let hw := settle hw0.now hw0
  if strapBoot hw ≠ 2 then refuse u.unit hw
  else if cluState hw ≠ 1 ∨ hw.fld 0xE00000 0 4 ≠ 7 then hw
  else takeRecord (hw.bytes 0x2000000000 (recLen (hw.bytes 0x2000000000 8))) hw

/-! ### Training (R460, R461) -/

/-- The remap tables of every group, from the applied record's repair entries in list order (R460). -/
def repairTable (hw : Hw) : List (Nat × W32) :=
  let n := hw.fld 0xE08020 16 16
  let off := hw.fld 0xE08020 0 16
  let phys (g : Nat) : Nat := hw.fld (carReg g 0x20) 0 7
  let one (t : List (Nat × W32)) (i : Nat) : List (Nat × W32) :=
    let w := (hw.reg (0xE08000 + off + 4 * i)).toNat
    match (List.range 64).find? (fun g => decide (phys g = nbits w 21 7)) with
    | none => t
    | some g =>
      let e := (t.filter (fun x => decide (x.1 / 1024 = g))).length
      tabPut (fun _ => 0#32) (1024 * g + e) (BitVec.ofNat 32 (2 ^ 31 + nbits w 6 15 * 2 ^ 16 + nbits w 0 6)) t
  (List.range n).foldl one []

/-- TRAINING_DONE: the bonded memory is repaired and zeroed, and the cluster is HELD; or a physical group has failed. -/
def trainingDone (failed : Option Nat) (hw : Hw) : Hw :=
  if cluState hw ≠ 2 then hw
  else match failed with
    | some g => trainFail (g % 128) hw
    | none =>
      let t := repairTable hw
      let hw1 := { hw with
        mem := hw.mem.filter (fun p => !isBmKey p.1), bad := hw.bad.filter (fun k => !isBmKey k)
        soft := hw.soft.filter (fun k => !isBmKey k), active := t, shadow := t, rcd := { hw.rcd with ringOn := true } }
      setState 3 (hw1.setReg 0x900020 1#32)

/-- BIST_DONE: the self-test writes its record, which `l` gives from byte 0x04 to 0x1F with the repair entries after it (R521). -/
def bistDone (head ents : List Byte) (hw : Hw) : Hw :=
  if !hw.clk.lock ∨ strapBoot hw ≠ 3 ∨ cluState hw ≠ 1 then hw
  else
    let w1 := leAt head 0 4 % 32 ||| 1
    let n := min 2048 (leAt head 0x18 4)
    let b := leBytes 0x42495354 4 ++ leBytes w1 4 ++ bytesAt head 4 20 ++ leBytes n 4 ++ List.replicate 28 0
    let es := bytesAt ents 0 (4 * n)
    let rec_ := b ++ leBytes (crc32 (b ++ es)) 4
    let hw1 := hw.store 0x2000000000 (rec_ ++ es)
    { hw1 with tap := { hw1.tap with bist := rec_ } }

/-! ### Reset commands (R465–R469) -/

/-- A write of CLK_RST_CTL with COLD: KEY must be 0x5A (R465). -/
def coldWrite (u : Writer) (v : W32) (hw : Hw) : Hw := if fieldOf v 8 8 = 0x5A then coldReset hw else refuse u.unit hw

def fencedSince (hw : Hw) : Bool := nbit (hw.reg 4).toNat 4

/-- A warm reset stops issue and begins to drain (R210, R314). -/
def drainStart (hw : Hw) : Hw :=
  let hw1 := stopUnits hw
  let hw2 := (List.finRange 64).foldl (fun h k => tenStop k h) hw1
  { hw2 with boot := { hw2.boot with drain := some hw2.now } }

/-- The exit from IDLE or SHELVED begins. -/
def exitStart (hw : Hw) : Hw :=
  if hw.boot.exitReq.isSome then hw
  else { hw with boot := { hw.boot with exitReq := some hw.frame } }.setFld 0x200034 2 1 1

/-- A write of CLK_RST_CTL.WARM; in IDLE or SHELVED it waits for the exit that it starts (R466). -/
def warmReset (u : Writer) (hw : Hw) : Hw :=
  let st := cluState hw
  if st = 1 ∨ st = 2 ∨ st = 8 ∨ fencedSince hw then refuse u.unit hw
  else if pwrState hw ≠ 0 then exitStart { hw with boot := { hw.boot with warmAfter := true } }
  else if hw.boot.drain.isSome then hw
  else drainStart hw

/-- The last cycle at which a write of the buffers of the cores that `p` names takes place or is acknowledged. -/
def drainEnd (p : Nat → Bool) (hw : Hw) : Nat :=
  let a := hw.beats.foldl (fun m b => if b.wr ∧ b.unit < 8 ∧ p b.unit then max m b.cyc else m) hw.now
  (List.finRange 8).foldl (fun m n => if p n.val then (hw.core n).stores.foldl (fun m s => max m s.ack) m else m) a

/-- A line of a send of those cores waits in its output queue. -/
def sendsWait (p : Nat → Bool) (hw : Hw) : Bool :=
  (List.finRange 8).any (fun n => p n.val && (hw.core n).sends.any (fun s => !s.beats.isEmpty))

/-- The cycles of 2 µs, after which a reset is forced (R210). -/
def drainLimit (hw : Hw) : Nat := if hw.clk.slow then 1600 else 3200

/-- WARM_RESET_EFFECT: the buffers are empty and no descriptor is in flight, within 2 µs of the request (R210, R314). -/
def warmEffect (hw : Hw) : Hw :=
  match hw.boot.drain with
  | none => hw
  | some t =>
    let all (_ : Nat) : Bool := true
    let e := drainEnd all hw
    let hw1 := sendsDue (settle e (hw.at e))
    if t + drainLimit hw < e ∨ sendsWait all hw1 ∨
        !(List.range 64).all (fun k => (hw.te k).flights.all (fun f => decide (f.phase ≠ 0))) then hw
    else hotReset false hw1

/-- WARM_RESET_TIMEOUT: 2 µs after the request the reset is forced (R210). -/
def warmTimeout (hw : Hw) : Hw := if hw.boot.drain.isSome then hotReset true hw else hw

/-- A write of CLK_RST_CTL.FORCE (R211, R466). -/
def forcedReset (u : Writer) (hw : Hw) : Hw :=
  if cluState hw = 1 ∨ cluState hw = 2 ∨ fencedSince hw then refuse u.unit hw else hotReset true hw

/-- A write of CLK_CORE_RST for core `n` (R468). -/
def coreRst (n : Fin 8) (u : Writer) (hw : Hw) : Hw :=
  let c := hw.core n
  if !coreOn hw n.val ∨ !atRest c ∨ c.range.isSome then refuse u.unit hw
  else if nbit (hw.reg 0x10000C).toNat (16 + n.val) then hw
  else { hw.orReg 0x10000C (2 ^ (16 + n.val)) with boot := { hw.boot with coreReq := hw.boot.coreReq ++ [(n.val, hw.now)] } }

/-- The cycle at which the reset of core `n` was requested. -/
def coreReqAt (hw : Hw) (n : Nat) : Nat := ((hw.boot.coreReq.find? (fun x => decide (x.1 = n))).map (fun x => x.2)).getD hw.now

/-- CORE_RESET_DONE: the buffers are drained, within 2 µs of the request, and the core is reset; after 2 µs the reset is forced (R210, R211). -/
def coreRstDone (n : Fin 8) (hw : Hw) : Hw :=
  let own (m : Nat) : Bool := m == n.val
  let e := drainEnd own hw
  let hw1 := sendsDue (settle e (hw.at e))
  let lim := coreReqAt hw n.val + drainLimit hw
  let reset (h : Hw) : Hw :=
    let h1 := (coreReset n h).clrReg 0x10000C (2 ^ (16 + n.val))
    { h1 with boot := { h1.boot with coreReq := h1.boot.coreReq.filter (fun x => decide (x.1 ≠ n.val)) } }
  if !nbit (hw.reg 0x10000C).toNat (16 + n.val) then hw
  else if e ≤ lim ∧ !sendsWait own hw1 then reset hw1
  else if lim ≤ hw.now then reset (countLost n (settle hw.now hw))
  else hw

/-! ### Power states (R470–R475) -/

/-- A write not yet acknowledged stands in a core's write buffers, in a transfer engine or in KC's store buffer, those of firmware and the
queue engine among them (R213). -/
def unacked (hw : Hw) : Bool :=
  (List.finRange 8).any (fun i => (hw.core i).stores.any (fun s => decide (hw.now < s.ack)) || decide (buffered hw i ≠ 0)) ||
  (List.range 64).any (fun k => (hw.te k).flights.any (fun f => decide (f.phase = 0))) ||
  hw.bg.any (fun b => match b.what with
    | .kc _ => b.todo.any (fun x => match x with
      | .rd _ _ => false
      | _ => true)
    | .post _ _ => true
    | .cqe _ => !b.todo.isEmpty
    | _ => false)

/-- Why a request for a state is refused, or 0 (R470); the first case of the table that applies. -/
def pwrRefuse (hw : Hw) (n : Nat) : Nat :=
  let st := cluState hw
  let tes := (List.range 64).map (fun k => hw.te k)
  if unacked hw then 1
  else if !coresRest hw 0xFF ∨ hw.cores.toList.any (fun c => decide (c.ast ≠ .idle ∧ c.ast ≠ .stalled)) ∨ !carsRest hw (2 ^ 64 - 1) ∨
      tes.any (fun c => decide (c.st ≠ .idle ∧ c.st ≠ .stoppedFault ∧ c.st ≠ .stoppedReq)) then 2
  else if nbit (hw.reg 0x300018).toNat 0 then 3
  else if hw.cores.toList.any (fun c => c.range.isSome) ∨ hw.sync.xfer.isSome ∨ hw.bmc.busy ∨
      hw.fw.inc.any (fun p => decide (p.stage ≠ 2)) then 4
  else if (n = 2 ∧ !(st = 3 ∨ st = 4 ∨ st = 6 ∨ st = 7)) ∨ (n = 3 ∧ !(st = 1 ∨ st = 3 ∨ st = 7 ∨ st = 9)) then 5
  else 0

/-- A request is refused at the requester (R470). -/
def pwrNo (u : Writer) (why : Nat) (hw : Hw) : Hw :=
  raise { cls := cADMISSION_REFUSED, sev := 1, unit := u.unit, syn := 0xF0 } (hw.setFld 0x200034 8 8 why)

/-- A request for IDLE (1), SHELVED (2) or OFF (3). -/
def pwrDown (n : Nat) (u : Writer) (hw0 : Hw) : Hw :=
  let hw := settle hw0.now (hw0.setFld 0x200030 0 2 n)
  let busy := nbit (hw.reg 0x200034).toNat 2 || nbit (hw.reg 0x200034).toNat 3 || hw.boot.drain.isSome || decide (pwrState hw ≠ 0)
  let why := pwrRefuse hw n
  if why ≠ 0 then pwrNo u why hw
  else if busy then pwrNo u 6 hw
  else { hw with boot := { hw.boot with pwrReq := some n } }.setFld 0x200034 2 1 1

/-- A request for ACTIVE, from IDLE or SHELVED (R470, R474). -/
def pwrActive (u : Writer) (hw0 : Hw) : Hw :=
  let hw := hw0.setFld 0x200030 0 2 0
  if pwrState hw = 0 ∨ hw.boot.drain.isSome then pwrNo u 6 hw else exitStart hw

/-- The request for a power state no longer stands. -/
def pwrDone (hw : Hw) : Hw := { hw with boot := { hw.boot with pwrReq := none } }.setFld 0x200034 2 1 0

/-- The conditions of R470 hold for the request that waits; OFF, once accepted, has stopped the ports and does not lapse (R475). -/
def powerHolds (hw : Hw) : Bool :=
  match hw.boot.pwrReq with
  | none => true
  | some n => decide (n = 3 ∨ pwrRefuse hw n = 0)

/-- A request lapses in the cycle in which its conditions cease to hold, and REFUSE records the reason (R472). -/
def powerLapse (hw : Hw) : Hw :=
  match hw.boot.pwrReq with
  | none => hw
  | some n => if powerHolds hw then hw else pwrDone (hw.setFld 0x200034 8 8 (pwrRefuse hw n))

/-- POWER_STATE_ENTER: the requested state takes effect at a frame boundary, or the request lapses (R472, R473, R475). -/
def powerEnter (hw : Hw) : Hw :=
  match hw.boot.pwrReq with
  | none => hw
  | some n =>
    if !powerHolds hw then powerLapse hw
    else if n = 3 then pwrDone (hw.orReg 0x200034 8)
    else if n = 1 then pwrDone (hw.setFld 0x200034 0 2 1)
    else if hw.kc.on ∧ !hw.kc.halted ∧ !hw.kc.wfi then hw
    else pwrDone (((List.finRange 8).foldl (fun h i => coreReset i h) hw).setFld 0x200034 0 2 2)

/-- The exit is complete: ACTIVE; a warm reset that waited for it stops every unit and channel and takes effect when they are drained (R210,
R314, R466). -/
def exitEnd (hw : Hw) : Hw :=
  let hw1 := { hw with boot := { hw.boot with exitReq := none } }.setReg 0x200034 (hw.reg 0x200034 &&& 0xFF00#32)
  let hw2 := poolRequest hw1
  if hw.boot.warmAfter then warmEffect (drainStart { hw2 with boot := { hw2.boot with warmAfter := false } }) else hw2

/-- SHELVED_EXIT, at the start of a refresh period: KC leaves WFI (R474). -/
def shelvedExit (hw : Hw) : Hw :=
  if pwrState hw ≠ 2 ∨ hw.boot.exitReq.isNone ∨ hw.frame % 520 ≠ 0 then hw
  else exitEnd (hw.modKc (fun k => { k with wfi := false }))

/-- IDLE_EXIT (R474). -/
def idleExit (hw : Hw) : Hw := if pwrState hw ≠ 1 ∨ hw.boot.exitReq.isNone then hw else exitEnd hw

end Sys2Proof.Machine
end

