-- ==== Sys2Proof/Machine/Debug.lean ====
section
/-!
DEFINITION. The DBG block (spec/16 "The DBG block", R500, R501) and the test ports (R518–R521).
-/
namespace Sys2Proof.Machine

def DBG_SNAP_CTL : Nat := 0xC00008

/-- DBG_SNAP_CTL.ARMED. -/
def snapArmed (hw : Hw) : Bool := nbit (hw.reg DBG_SNAP_CTL).toNat 1

/-- SNAP_ARM (R500): refused while ARMED is 1 or once TIM_FRAME has reached DBG_SNAP_FRAME. -/
def snapArm (u : Writer) (hw : Hw) : Hw :=
  if snapArmed hw ∨ hw.reg64 0xC00000 ≤ hw.frame then refuse u.unit hw else hw.orReg DBG_SNAP_CTL 2

/-- SNAP_DISARM (R500). -/
def snapDisarm (hw : Hw) : Hw := hw.clrReg DBG_SNAP_CTL 2

/-- The offset of the next record that a carrel will issue, or CAR_PC: behind the SWT at which it waits (R101, R237, R501). -/
def snapCar (e : Car) : Nat := if e.st = .wait then (e.pc + 32) % 0x40000 else e.pc

/-- DBG_SNAPSHOT (R501): at the boundary of frame DBG_SNAP_FRAME while ARMED is 1. The next instruction of a core in RUN or WAIT and
CORE_PC are one in this model. -/
def dbgSnapshot (hw : Hw) : Hw :=
  if snapArmed hw ∧ hw.reg64 0xC00000 = hw.frame then
    let h1 := (List.finRange 8).foldl
      (fun h n => h.setReg64 (0xC00040 + 8 * n.val) (if coreOn hw n.val then (hw.core n).pc else 0)) hw
    let h2 := (List.finRange 64).foldl (fun h c => h.setReg (0xC00100 + 4 * c.val) (BitVec.ofNat 32 (snapCar (hw.cars.get c)))) h1
    (h2.clrReg DBG_SNAP_CTL 2).orReg DBG_SNAP_CTL 4
  else hw

/-! ### Test ports -/

/-- Change the test ports. -/
def Hw.modTap (f : Tap → Tap) (hw : Hw) : Hw := { hw with tap := f hw.tap }

/-- The macro is isolated (R520): after this its state is not defined until a cold reset, a free value; log entry 15. -/
def isolate (hw : Hw) : Hw :=
  let h := Config.freeHw hw.free
  { h with free := hw.free + 1, tap := { hw.tap with isolated := true } }

/-- EXTEST (R518, R520). -/
def tapExtest (hw : Hw) : Hw := isolate (hw.modTap (fun t => { t with ir := 0, dr := t.boundary }))

/-- IDCODE (R518): the data register is the identification, with the level of TEST_MFR. -/
def tapIdcode (mfr : BitVec 11) (hw : Hw) : Hw :=
  hw.modTap (fun t => { t with ir := 1, mfr := mfr.toNat, dr := 0xB * 2 ^ 28 + 0xC864 * 2 ^ 12 + mfr.toNat * 2 + 1 })

/-- SAMPLE/PRELOAD (R518): the boundary register takes a value shifted in, or samples the terminals (a free value; log entry 15). -/
def tapSample (preload : Option Nat) (hw : Hw) : Hw :=
  match preload with
  | some x => hw.modTap (fun t => { t with ir := 2, boundary := x, dr := x })
  | none =>
    let x := Config.freeNat hw.free
    hw.draw.modTap (fun t => { t with ir := 2, boundary := x, dr := x })

/-- WRAPPER (R518, R519). -/
def tapWrapper (hw : Hw) : Hw := hw.modTap (fun t => { t with ir := 8 })

/-- BIST_RESULT (R518): the head of the self-test record, 512 bits. -/
def tapBist (hw : Hw) : Hw := hw.modTap (fun t => { t with ir := 9, dr := leNat t.bist })

/-- BYPASS (R518): a one-bit register. -/
def tapBypass (hw : Hw) : Hw := hw.modTap (fun t => { t with ir := 15, dr := 0 })

/-- The wrapper's instruction register is loaded: through the TAP exactly while it holds WRAPPER, and else through the wrapper serial
port (R519). -/
def wrapper (code : Nat) (viaTap : Bool) (iso : Bool) (hw : Hw) : Hw :=
  if viaTap = decide (hw.tap.ir = 8) then
    let h := hw.modTap (fun t => { t with wir := code })
    if iso then isolate h else h
  else hw

end Sys2Proof.Machine
end

