-- ==== Sys2Proof/Machine/RegRead.lean ====
section
/-!
DEFINITION. The register space as it is read (R6, R7, R12, R499; the field tables of spec/00–spec/17): the shape of each register (which
bits have which access code, whether it is a word of a pair), the value of a register that shows internal state, and a read by a
requester.
-/
namespace Sys2Proof.Machine

/-! ### Shapes -/

/-- The bits of a register by access code: RW, W1C, RC, and stored WO; whether it is the low (1) or the high (2) word of a pair. -/
structure RegShape where
  rw : Nat := 0
  w1c : Nat := 0
  rc : Nat := 0
  wo : Nat := 0
  pos : Nat := 0
  /-- a pair whose low word latches nothing when it is read: R7 applies to counters, and of a CORE block's pairs to those that R110 names -/
  plain : Bool := false
deriving DecidableEq, Repr

/-- Read-only. -/
def shRo : RegShape := {}
/-- One register with RW bits. -/
def shRw (m : Nat) : RegShape := { rw := m }
/-- A word of an RW pair: the low word's bits, the high word's bits. -/
def shPair (lo hi o : Nat) : RegShape := if o % 8 = 0 then { rw := lo, pos := 1 } else { rw := hi, pos := 2 }
/-- A word of a read-only pair. -/
def shRoPair (o : Nat) : RegShape := { pos := 1 + o / 4 % 2 }
/-- A 64-bit RW pair. -/
def sh64 (o : Nat) : RegShape := shPair 0xFFFFFFFF 0xFFFFFFFF o
/-- An address pair: the low word's bits, and ADDR[40:32]. -/
def shAddr (lo o : Nat) : RegShape := shPair lo 0x1FF o

/-- CLU, CLK and PWR. -/
def shClu (b o : Nat) : RegShape :=
  if b = 1 then (if o = 4 then shRw 2 else shRo)
  else if b = 2 then
    (if o = 0 ∨ o = 4 then shRw 0x01FF0000 else if o = 8 then shRw 0xFFFF0000 else if o = 0x10 ∨ o = 0x14 then sh64 o
     else if o = 0x18 ∨ o = 0x1C then shRoPair o else if o = 0x20 then { rc := 0x01FF0000 } else if o = 0x30 then shRw 3 else shRo)
  else shRo

def shTim (o : Nat) : RegShape :=
  if o < 8 then shRoPair o
  else if o < 0x10 then sh64 o
  else if o < 0x18 then shRoPair o
  else if o = 0x18 then shRw 1
  else if o = 0x1C then { w1c := 7 }
  else if 0x30 ≤ o ∧ o < 0x40 then shRoPair o
  else if 0x40 ≤ o ∧ o < 0x48 then shAddr 0xFFFFFFF0 o
  else if o = 0x48 then shRw 0x7F else shRo

def shQue (o : Nat) : RegShape :=
  if o = 8 then shRw 0x80001F1F
  else if 0x10 ≤ o ∧ o < 0x20 then shAddr 0xFFFFFFE0 o
  else if o = 0x24 then { rc := 0xFFFF } else shRo

/-- SEM and the barrier contexts. -/
def shSem (o : Nat) : RegShape :=
  if o = 0 then shRw 1
  else if o = 4 then { rc := 0xFFFFFFFF }
  else if o = 0x0C then shRw 0x0FFF0FFF
  else if o = 0x10 then shRw 2
  else if o = 0x14 then shRw 0x007F0FFF
  else if o = 0x18 then shRw 0x7F7F
  else if o = 0x20 ∨ o = 0x24 then shAddr 0xFFFFFFC0 o
  else if o = 0x28 then { w1c := 2 }
  else if o = 0x40 then shRw 1
  else if o = 0x44 then { w1c := 1 }
  else if o = 0x48 then shRw 0x8FFF0FFF
  else if o = 0x50 ∨ o = 0x54 then shRoPair o
  else if 0x200 ≤ o ∧ o < 0x400 then shRw 0xFFFFFFFF
  else if 0x400 ≤ o ∧ o < 0x800 then { w1c := 0xFFFFFFFF }
  else if 0x4000 ≤ o ∧ o < 0x8000 then shRw 0xFFFF
  else if 0x8000 ≤ o ∧ o < 0x8800 then
    (let p := o % 0x20
     if p = 0 then shRw 0x07FF0FFF else if p = 4 then shRw 0x01FFFFFF else if p = 8 then shRw 0x3F
     else if p = 0x10 ∨ p = 0x14 then shRoPair o else shRo)
  else shRo

def shTen (o : Nat) : RegShape :=
  if o < 0x1000 then
    (let p := o % 0x40
     if p = 8 ∨ p = 0xC then shAddr 0xFFFFFFC0 o else if p = 0x14 then shRw 0xFFFF else shRo)
  else if o = 0x1000 then { w1c := 0xFFFFFFFF, pos := 1 }
  else if o = 0x1004 then { w1c := 0xFFFFFFFF, pos := 2 }
  else if o = 0x1008 then { rc := 0x0FFF0000 } else shRo

def shMsh (o : Nat) : RegShape :=
  if o = 0x10 then shRw 1
  else if o = 0x14 then shRw 0x1FFF
  else if o = 0x20 then shRw 2
  else if o = 0x28 ∨ o = 0x2C then shAddr 0xFFFFFFF0 o
  else if 0x80 ≤ o ∧ o < 0xC0 then shRw 0x87FFFFFF
  else if 0x3000 ≤ o ∧ o < 0x5000 ∧ o % 0x800 < 0x410 then shRw 0x8F else shRo

def shFar (o : Nat) : RegShape :=
  if o < 0x800 then
    (let p := o % 0x40
     if p = 4 then shRw 0x80FFFFFF else if p = 8 then { rc := 0xFF000000 } else if p = 0xC then shRw 0x0007FFFF
     else if p = 0x10 then shRw 0xFFFFFFFF else if p = 0x14 then shRw 0x7F else if p = 0x1C then { rc := 0xFFFFFFFF } else shRo)
  else if o = 0x1000 ∨ o = 0x1004 then shAddr 0xFFFFF000 o
  else if o = 0x1008 then shRw 0x7FF
  else if o = 0x100C then { rc := 0xFF000000 } else shRo

def shBmc (o : Nat) : RegShape :=
  if o = 0 then shRw 1
  else if o = 0x14 then { w1c := 2 }
  else if o = 0x18 ∨ o = 0x1C then shRoPair o
  else if 0x10000 ≤ o ∧ o < 0x50000 then shRw 0xFFFFFFFF else shRo

def shCar (o : Nat) : RegShape :=
  if 0x4000 ≤ o then shRo
  else
    let p := o % 0x100
    if p = 8 then shRw 0x3FFE0 else if p = 0x10 ∨ p = 0x14 then sh64 o else if p = 0x18 ∨ p = 0x1C then shRoPair o else shRo

def shFlt (o : Nat) : RegShape :=
  if o = 0 then { rc := 0xFFFF0000 }
  else if o = 8 then shRw 0x3FFF
  else if 0x80 ≤ o ∧ o < 0xAC then { wo := 0xFFFFFFFF }
  else if (0x100 ≤ o ∧ o < 0x20C) ∨ (0x210 ≤ o ∧ o < 0x250) then { rc := 0xFFFF }
  else if o = 0x250 then { rc := 0xFFFFFFFF }
  else if o = 0x308 ∨ o = 0x30C then shRoPair o
  else if o = 0x310 then shRw 0xFFFFFFFF else shRo

def shDbg (o : Nat) : RegShape :=
  if o < 8 then sh64 o
  else if o = 8 then { w1c := 4 }
  else if 0x40 ≤ o ∧ o < 0x80 then shRoPair o else shRo

/-- KCP and the mailboxes. -/
def shKcp (o : Nat) : RegShape :=
  if o = 4 then shRw 6
  else if o = 8 ∨ o = 0xC then sh64 o
  else if o = 0x10 ∨ o = 0x14 then shRoPair o
  else if o = 0x18 ∨ o = 0x1C then shPair 0xFFFFF800 0xFFFFFFFF o
  else if o = 0x20 then shRw 0xF1FFFFFF
  else if o = 0x28 ∨ o = 0x2C then sh64 o
  else if o = 0x30 then shRw 1
  else if o = 0x38 ∨ o = 0x3C then shPair 0xFFFFFF80 0xFFFFFFFF o
  else if 0x40 ≤ o ∧ o < 0x50 then { w1c := 0xFFFFFFFF }
  else if 0x50 ≤ o ∧ o < 0x60 then shRw 0xFFFFFFFF
  else if o = 0x80 then shRw 0xFFFF
  else if o = 0x88 then { rc := 0xFF0000, w1c := 1 }
  else if o = 0xD8 ∨ o = 0xDC ∨ o = 0x100 ∨ o = 0x104 ∨ o = 0x110 ∨ o = 0x114 ∨ o = 0x180 ∨ o = 0x184 then sh64 o
  else if o = 0x108 ∨ o = 0x118 then shRw 0x1F
  else if o = 0x10C ∨ (0x140 ≤ o ∧ o < 0x160) then shRw 0xFFFFFFFF
  else if o = 0x18C then { w1c := 2 }
  else if 0x1000 ≤ o ∧ o < 0x1C00 ∧ o % 0x400 < 0x100 then shRw 0xFFFFFFFF
  else if 0x2000 ≤ o ∧ o < 0x2900 then shRoPair o else shRo

/-- A CORE block. -/
def shCore (o : Nat) : RegShape :=
  if o = 0x10 ∨ o = 0x14 then { shAddr 0xFFFFFFFC o with plain := true }
  else if o = 0x18 ∨ o = 0x1C then sh64 o
  else if 0x20 ≤ o ∧ o < 0x30 then { shAddr 0xFFFFFFFC o with plain := true }
  else if o = 0x38 ∨ o = 0x3C then shRoPair o
  else if o = 0x140 then { w1c := 0xF }
  else if 0x200 ≤ o ∧ o < 0x240 then shRw 0xFFFFFFFF
  else if o = 0x400 then shRw 2
  else if o = 0x404 then { w1c := 0x1F0F }
  else if o = 0x600 then shRw 7
  else if o = 0x604 then { rc := 0x00FF0000 }
  else if o = 0x608 ∨ o = 0x60C then shAddr 0xFFFFFF80 o
  else if o = 0x610 then shRw 0xFFFFFFFF
  else if o = 0x614 then shRw 0xE
  else if o = 0x618 then { rc := 0x3FC, w1c := 2 }
  else if o = 0x620 ∨ o = 0x624 then shRoPair o
  else if o = 0x630 then shRw 0xFFE else shRo

/-- The shape of the register at an offset from 0x040_0000_0000; an offset with no register is read-only and reads 0 (R188). -/
def shapeOf (off : Nat) : RegShape :=
  let b := off / 0x100000
  let o := off % 0x100000
  if b < 3 then shClu b o
  else if b = 3 then shTim o
  else if b = 4 then shQue o
  else if b = 5 then shSem o
  else if b = 6 then shTen o
  else if b = 7 then shMsh o
  else if b = 8 then shFar o
  else if b = 9 then shBmc o
  else if b = 0xA then shCar o
  else if b = 0xB then shFlt o
  else if b = 0xC then shDbg o
  else if b = 0xD then shKcp o
  else if b < 0x10 then shRo
  else shCore o

/-! ### Registers that show internal state -/

/-- CORE_STAT.STATE and CAR_STAT.STATE (R110, R253). -/
def unitCode (s : UState) : Nat :=
  match s with
  | .idle => 0 | .armed => 1 | .run => 2 | .wait => 3 | .stopping => 4 | .stoppedFault => 5 | .stoppedReq => 6

/-- TEN_CH_STAT.STATE (R317). -/
def chanCode (s : UState) : Nat :=
  match s with
  | .idle => 0 | .armed => 0 | .run => 1 | .wait => 2 | .stopping => 3 | .stoppedFault => 4 | .stoppedReq => 5

/-- CORE_ASTAT.STATE (R152). -/
def astCode (s : AState) : Nat :=
  match s with
  | .idle => 0 | .run => 1 | .halting => 2 | .scrub => 3 | .stalled => 4

/-- One bit per member of 0–(k − 1). -/
def bitsOf (k : Nat) (p : Nat → Bool) : Nat := (List.range k).foldl (fun a i => a + b2n (p i) * 2 ^ i) 0

/-- CLK_STAT (R24). -/
def clkStat (hw : Hw) : Nat :=
  b2n hw.clk.lock + 2 * b2n hw.clk.slow + 4 * b2n (!hw.clk.changes.isEmpty) + 8 * b2n (hw.kc.on && !hw.kc.wfi) + 16 * b2n (strapSafe hw) +
  256 * hw.clk.slowCount

/-- Registers of core `n` that show state. -/
def coreLive (hw : Hw) (n : Fin 8) (o s : Nat) : Nat :=
  let c := hw.core n
  if o = 4 then unitCode c.st + 8 * b2n c.inTrap + 256 * c.lastClass
  else if o = 8 then c.pc % 2 ^ 32
  else if o = 0xC then c.pc / 2 ^ 32
  else if o = 0x104 then nbits s 16 8 * 2 ^ 16 + astCode c.ast
  else if o = 0x110 then fuseWord c hw.now
  else if 0x120 ≤ o ∧ o < 0x140 then (c.fol ((o - 0x120) / 4)).fcfg.toNat
  else if o = 0x140 then
    s % 16 + 2 ^ 16 * bitsOf 4 (fun i => (c.slot i).full && decide ((c.slot i).land.cyc ≤ hw.now)) +
    2 ^ 20 * bitsOf 4 (fun i => slotHeld hw n i hw.now)
  else if o = 0x144 then nbits s 8 8 * 256 + c.sending hw.now
  else s

/-- Registers of channel `k` that show state (R317). -/
def tenLive (hw : Hw) (k p s : Nat) : Nat :=
  let c := hw.te k
  if p = 4 then chanCode c.st + 256 * c.held.length + 4096 * (c.flights.filter (fun f => decide (f.phase = 0))).length + 65536 * hw.fld (teReg k 0x1C) 0 8
  else s

/-- Registers of carrel `c` that show state (R253). -/
def carLive (hw : Hw) (c : Fin 64) (p s : Nat) : Nat :=
  let e := hw.car c
  if p = 4 then unitCode e.st + 16 * carCharge hw c.val hw.frame hw.now + 256 * e.lastClass
  else if p = 0xC then e.pc % 0x40000 / 32 * 32
  else s

/-- Register `r` of window `w` of KC: ring windows 0–7 and the trap window 8 (R407). -/
def kcWindow (k : Kc) (w r : Nat) : W64 :=
  if r = 0 then 0#64
  else if r < 8 then k.s.toList.getD r 0#64
  else if w < 8 then
    (if r < 16 then k.outs.toList.getD (8 * ((w + 7) % 8) + (r - 8)) 0#64
     else if r < 24 then k.loc.toList.getD (8 * w + (r - 16)) 0#64
     else k.outs.toList.getD (8 * w + (r - 24)) 0#64)
  else if r < 16 then k.trap.toList.getD r 0#64
  else if r < 24 then k.trap.toList.getD (r - 16) 0#64
  else k.trap.toList.getD (r - 8) 0#64

/-- KCP registers that show state. -/
def kcpLive (hw : Hw) (o s : Nat) : Nat :=
  if 0x40 ≤ o ∧ o < 0x50 then irqPend hw ((o - 0x40) / 4)
  else if 0x2000 ≤ o ∧ o < 0x2900 then
    (let x := (kcWindow hw.kc ((o - 0x2000) / 256) ((o - 0x2000) / 8 % 32)).toNat
     if o % 8 = 0 then x % 2 ^ 32 else x / 2 ^ 32)
  else s

/-- BMC registers that show state (R248–R253). -/
def bmcLive (hw : Hw) (o s : Nat) : Nat :=
  let m := hw.bmc
  if o = 4 then b2n m.cool + 2 * b2n (decide (m.cool ≠ nbit (hw.reg 0x900000).toNat 0)) + 4 * b2n hw.clk.slow
  else if o = 0x14 then b2n m.busy + 2 * b2n m.swapped + 4 * min 1023 m.todo.length + 2 ^ 12 * min 1023 m.dirty.length
  else if 0x10000 ≤ o ∧ o < 0x50000 then (tabGet (fun _ => 0#32) hw.shadow ((o - 0x10000) / 4)).toNat
  else if 0x50000 ≤ o ∧ o < 0x90000 then (tabGet (fun _ => 0#32) hw.active ((o - 0x50000) / 4)).toNat
  else s

/-- The value of the register at an offset, whoever reads it (R12: WO and WP bits read 0). -/
def regValue (hw : Hw) (off : Nat) : W32 :=
  let b := off / 0x100000
  let o := off % 0x100000
  let s := (hw.reg off).toNat
  BitVec.ofNat 32 (
    if (shapeOf off).wo ≠ 0 then 0
    else if off = 0x100000 then clkStat hw
    else if off = 0x300000 then hw.frame % 2 ^ 32
    else if off = 0x300004 then hw.frame / 2 ^ 32
    else if off = 0x300028 then b2n hw.hold.held + 2 * b2n hw.hold.pend
    else if off = 0x400020 then queStat hw
    else if off = 0x400028 then s + 2 ^ 25 * b2n (decide (cluState hw = 6))
    else if 0x504000 ≤ off ∧ off < 0x508000 then semVal hw ((off - 0x504000) / 4)
    else if 0x508000 ≤ off ∧ off < 0x508800 ∧ o % 0x20 = 0xC then barStat (hw.bar ((off - 0x508000) / 0x20))
    else if b = 6 ∧ o < 0x1000 then tenLive hw (o / 0x40) (o % 0x40) s
    else if off = 0x601008 then s / 2 ^ 16 * 2 ^ 16 + trkUsed hw
    else if off = 0x80100C then s / 2 ^ 24 * 2 ^ 24 + hw.net.poolq.length * 2 ^ 16 + (if hw.net.pool then poolFree hw else 0)
    else if off = 0x801010 then
      b2n (hw.net.linkup.getD 0 false) + 2 * b2n (hw.net.linkup.getD 1 false) + 4 * b2n (decide (pwrState hw = 2))
    else if b = 9 then bmcLive hw o s
    else if h : b = 0xA ∧ o / 0x100 < 64 then carLive hw ⟨o / 0x100, h.2⟩ (o % 0x100) s
    else if off = 0xB00000 then s / 2 ^ 16 * 2 ^ 16 + 256 * hw.rcd.queue.length + b2n (hw.rcd.ringOn && !hw.boot.pwrfail)
    else if off = 0xB00300 then s / 2 * 2 + b2n (decide (cluState hw = 8))
    else if b = 0xD then kcpLive hw o s
    else if h : 0x10 ≤ b ∧ b - 0x10 < 8 then coreLive hw ⟨b - 0x10, h.2⟩ o s
    else s)

/-! ### Reads -/

/-- The key of a requester's latch for a pair: the offset of its low word. -/
def latchKey (unit off : Nat) : Nat := unit * 2 ^ 28 + off

/-- Time-driven values come up to date before a read: signals due by now are in their semaphores (R324); what passed a core's stages before
is in its registers (R73, R185). -/
def regSettle (off : Nat) (hw : Hw) : Hw :=
  let b := off / 0x100000
  if b = 5 then syncTo hw.now hw
  else if h : 0x10 ≤ b ∧ b - 0x10 < 8 then rowsTo ⟨b - 0x10, h.2⟩ (hw.now - 1) hw
  else hw

/-- What a read of RC fields clears (R12); TEN_TRK.MAX goes on from the present occupancy (R317). -/
def clearRead (off : Nat) (hw : Hw) : Hw :=
  let m := (shapeOf off).rc
  if m = 0 then hw else if off = 0x601008 then trkMark (hw.clrReg off m) else hw.clrReg off m

/-- A read by a requester of the register at an offset: the low word of a pair latches the high word, the next read of which by the same
requester returns what was latched (R7); RC fields clear (R12). -/
def readRegister (unit off : Nat) (hw0 : Hw) : W32 × Hw :=
  let hw := regSettle off hw0
  let v := regValue hw off
  match (if (shapeOf off).plain then 0 else (shapeOf off).pos) with
  | 1 => (v, clearRead off { hw with rlatch := tabPut (fun _ => none) (latchKey unit off) (some (regValue hw (off + 4))) hw.rlatch })
  | 2 =>
    let k := latchKey unit (off - 4)
    ((tabGet (fun _ => none) hw.rlatch k).getD v, clearRead off { hw with rlatch := tabPut (fun _ => none) k none hw.rlatch })
  | _ => (v, clearRead off hw)

/-- MFSR: the CORE register at offset imm12 × 4 of the core's own block (R110, R190: an MFSR reaches no other block). -/
def coreMfsr (n : Fin 8) (w : W32) (hw : Hw) : Hw :=
  simple n .mfsr w [] (some (0, rdOf w)) 2 (fun _ hw =>
    let r := readRegister n.val (coreReg n (4 * imm12Of w)) hw
    r.2.modCore n (Core.setG (rdOf w) (BitVec.ofNat 64 r.1.toNat))) hw

end Sys2Proof.Machine
end

