-- ==== Sys2Proof/Machine/Ingress.lean ====
section
/-!
DEFINITION. Transactions that the ports receive (spec/12): their accesses as requests (R17, R18), what is answered when they are served
(R368–R370, R373, R383–R387), and the serving of every background and ingress request (R17–R19, R200, R220, R264, R395, R522, R523).
-/
namespace Sys2Proof.Machine

/-! ### Accesses of a received transaction -/

/-- The accesses of a WRITE: of its pieces in order, those that are permitted (R189, R370). -/
def writeTodo (hw : Hw) (host : Bool) (ws : List (Nat × List Byte)) : List BgAcc :=
  ws.flatMap (fun w => if ingressClass hw host true w.1 w.2.length = 0 then writeAccs hw w.1 w.2 else [])

/-- Bytes and class of a READ_REQ of `n` lines. -/
def readClass (hw : Hw) (host : Bool) (a n : Nat) : Nat :=
  if n = 0 ∨ 32 < n then cACCESS_RANGE else ingressClass hw host false a (128 * n)

/-- The accesses of a READ_REQ. -/
def readTodo (hw : Hw) (host : Bool) (a n : Nat) : List BgAcc :=
  if readClass hw host a n ≠ 0 then [] else readAccs hw a (128 * n)

/-- The flight of a transfer engine's transaction: channel and flight. -/
def txnFlight (hw : Hw) (t : Txn) : Option (Nat × Flight) :=
  match t.owner with
  | .desc te ch id => ((hw.te (4 * te + ch)).flights.find? (fun f => decide (f.id = id))).map (fun f => (4 * te + ch, f))
  | _ => none

/-- Lines of a transaction's read data that wait to be written. -/
def linesWaiting (hw : Hw) (far : Bool) (txid : Nat) : Nat :=
  (hw.bg.map (fun b => match b.what with
    | .mesh _ fl => if !far && fl.any (fun f => decide (f.typ = 3 ∧ f.txid = txid)) then fl.length else 0
    | .far _ h pl _ => if far && decide (leAt h 0 1 = 3 ∧ leAt h 0x1C 4 / 65536 % 2048 = txid) then pl.length / 128 else 0
    | _ => 0)).sum

/-- The writes of read data: its lines follow those already received, at the descriptor's destination (R305, R306). -/
def dataTodo (hw : Hw) (t : Txn) (l : List Byte) : List BgAcc :=
  match txnFlight hw t with
  | none => []
  | some (_, f) =>
    let j := leNat t.bytes + linesWaiting hw t.far t.txid
    (List.range (min (l.length / 128) (t.len / 128))).map (fun i => .wr (dstLine f.d (j + i)) (bytesAt l (128 * i) 128))

/-- The transaction that a mesh port, or a far channel, answers with a TXID. -/
def meshTxn (hw : Hw) (txid : Nat) : Option Txn := (txnOf hw txid).bind (fun t => if t.far then none else some t)
def farTxn (hw : Hw) (c txid : Nat) : Option Txn :=
  hw.net.txns.find? (fun t => t.far && decide (t.fc = c ∧ t.txid = txid ∧ t.owner ≠ .answer))

/-- Pieces of a mesh WRITE: each flit's bytes at its address. -/
def flitPieces (fl : List Flit) : List (Nat × List Byte) := fl.map (fun x => (x.addr, bytesAt x.payload 0 (8 * x.len8)))

/-- The lines of READ_DATA flits. -/
def flitLines (fl : List Flit) : List Byte := fl.flatMap (fun x => bytesAt x.payload 0 128)

def meshTodo (hw : Hw) (fl : List Flit) : List BgAcc :=
  match fl with
  | [] => []
  | f :: _ =>
    if f.typ = 1 then writeTodo hw f.host (flitPieces fl)
    else if f.typ = 2 then readTodo hw f.host f.addr (leAt f.payload 0 4)
    else if f.typ = 3 then
      (match meshTxn hw f.txid with
       | some t => if t.kind = 2 then dataTodo hw t (flitLines fl) else []
       | none => [])
    else []

/-! Fields of a header beat (R383) -/

def hTyp (h : List Byte) : Nat := leAt h 0 1
def hHost (h : List Byte) : Bool := nbit (leAt h 0 4) 13
def hAddr (h : List Byte) : Nat := leAt h 0x14 4 / 8 * 8 + leAt h 0x18 4 % 512 * 2 ^ 32
def hLen8 (h : List Byte) : Nat := leAt h 0x1C 4 % 1024
def hTxid (h : List Byte) : Nat := leAt h 0x1C 4 / 65536 % 2048
def hSrc (h : List Byte) : Nat := leAt h 0xC 4 % 2 ^ 18
def hInline (h : List Byte) : List Byte := bytesAt h 0x40 60

def farTodo (hw : Hw) (c : Nat) (h pl : List Byte) : List BgAcc :=
  if hTyp h = 1 then writeTodo hw (hHost h) [(hAddr h, bytesAt pl 0 (8 * hLen8 h))]
  else if hTyp h = 2 then readTodo hw (hHost h) (hAddr h) (leAt (hInline h) 0 4)
  else if hTyp h = 3 then
    (match farTxn hw c (hTxid h) with
     | some t => if t.kind = 2 then dataTodo hw t pl else []
     | none => [])
  else []

/-! ### What a served transaction ends with -/

/-- The class of an address's uncorrectable error. -/
def badAt (hw : Hw) (a : Nat) : Nat := badClass (wordOf (physOf hw a))

/-- The status of a served WRITE: the first piece that failed, forbidden pieces being recorded (R190, R197, R370). -/
def writeStatus (unit : Nat) (host : Bool) (bad : Option Nat) (ws : List (Nat × List Byte)) (hw : Hw) : Hw × Nat :=
  ws.foldl (fun r w =>
    let c := ingressClass hw host true w.1 w.2.length
    let st := if c ≠ 0 then c else match bad with
      | some a => if w.1 ≤ a ∧ a < w.1 + w.2.length then badAt hw a else 0
      | none => 0
    (ingressRecord unit c w.1 r.1, if r.2 = 0 then st else r.2)) (hw, 0)

/-- The 32-bit registers of `n` words, read in the order of their addresses (R7; log entry 65). -/
def readRegs (unit a : Nat) : Nat → Hw → List Byte × Hw
  | 0, hw => ([], hw)
  | n + 1, hw =>
    let v := readRegister unit (a % 2 ^ 32) hw
    let r := readRegs unit (a + 4) n v.2
    (leBytes v.1.toNat 4 ++ r.1, r.2)

/-- The data of a served READ_REQ, or the class that answers it (R190, R196). -/
def readEnd (unit : Nat) (host : Bool) (a n : Nat) (b : BgReq) (hw : Hw) : Hw × Except Nat (List Byte) :=
  let c := readClass hw host a n
  if c ≠ 0 then (ingressRecord unit c a hw, .error c)
  else match b.bad with
    | some e => (hw, .error (badAt hw e))
    | none => (hw, .ok b.got)

/-- Read data is written: the descriptor counts its lines, or has a status; the last line ends the transaction (R305). -/
def dataEnd (t : Txn) (lines : Nat) (bad : Option Nat) (hw : Hw) : Hw :=
  match txnFlight hw t with
  | none => hw
  | some (k, f) =>
    let n := min lines (t.len / 128)
    let t' := { t with len := t.len - 128 * n, bytes := leBytes (leNat t.bytes + n) 4 }
    let note (f : Flight) : Flight := match bad with
      | some a => if f.status = 0 then { f with wr := f.wr + n, status := badAt hw a, fail := a } else { f with wr := f.wr + n }
      | none => { f with wr := f.wr + n }
    let hw1 := (modFlight k f.id note hw).modNet (fun x => { x with txns := x.txns.map (fun y => if y = t then t' else y) })
    if t'.len = 0 then endTxn t' 0 hw1 else hw1

/-- A received mesh transaction is performed: it is answered, and its flits leave the buffer (R368–R371, R373). Without its last flit a
WRITE is not acknowledged. -/
def meshPerform (p : Nat) (fl : List Flit) (b : BgReq) (hw0 : Hw) : Hw :=
  let unit := 0x20 + p
  match fl with
  | [] => hw0
  | f :: _ =>
    let hw := syncTo hw0.now hw0
    let done (r : Hw × Nat) : Hw := if fl.any (fun x => x.last) then meshAck p r.2 f r.1 else r.1
    meshCredit p fl (
      if b.ans ≠ 0 then (if f.typ = 2 then meshError p b.ans f hw else meshAck p b.ans f hw)
      else if f.typ = 1 then done (writeStatus unit f.host b.bad (flitPieces fl) hw)
      else if f.typ = 2 then
        (match readEnd unit f.host f.addr (leAt f.payload 0 4) b hw with
         | (h, .ok l) => meshAnswer p 3 f l h
         | (h, .error c) => meshError p c f h)
      else if f.typ = 3 then
        (match meshTxn hw f.txid with
         | some t => if t.kind = 2 then dataEnd t fl.length b.bad hw else hw
         | none => hw)
      else if f.typ = 4 then done (ingressSignal unit f.src f.payload hw)
      else if f.typ = 5 then
        (match meshTxn hw f.txid with
         | some t => endTxn t (errorStatus (f.payload.headD 0).toNat) hw
         | none => hw)
      else done (ingressBar f.typ (.mesh f.src) f.payload hw))

/-- The status of a far access that failed goes back as ERROR. -/
def farStatus (c : Nat) (h : List Byte) (r : Hw × Nat) : Hw := if r.2 = 0 then r.1 else farAnswer c 5 h [BitVec.ofNat 8 r.2] r.1

/-- What a sequenced packet of channel `c` does at its destination (R386). -/
def farAct (c : Nat) (h pl : List Byte) (b : BgReq) (hw : Hw) : Hw :=
  let typ := hTyp h
  let unit := 0x24 + hw.fld (farReg c 0) 18 1
  if b.ans ≠ 0 then farAnswer c 5 h [BitVec.ofNat 8 b.ans] hw
  else if typ = 1 then farStatus c h (writeStatus unit (hHost h) b.bad [(hAddr h, bytesAt pl 0 (8 * hLen8 h))] hw)
  else if typ = 2 then
    (match readEnd unit (hHost h) (hAddr h) (leAt (hInline h) 0 4) b hw with
     | (x, .ok l) => farAnswer c 3 h l x
     | (x, .error k) => farAnswer c 5 h [BitVec.ofNat 8 k] x)
  else if typ = 3 then
    (match farTxn hw c (hTxid h) with
     | some t => if t.kind = 2 then dataEnd t (pl.length / 128) b.bad hw else hw
     | none => hw)
  else if typ = 4 then farStatus c h (ingressSignal unit (hSrc h) (hInline h) hw)
  else if typ = 5 then
    (match farTxn hw c (hTxid h) with
     | some t => endTxn t (errorStatus ((hInline h).headD 0).toNat) hw
     | none => hw)
  else if typ = 6 ∨ typ = 7 then farStatus c h (ingressBar typ (.far c) (hInline h) hw)
  else if typ = 8 then fencePeer unit (hSrc h) (some c) hw
  else hw

/-- An accepted packet is to be reported within 8 frames (R386). -/
def ackSoon (hw : Hw) (ch : FarCh) : FarCh :=
  match ch.ackDue with
  | some _ => ch
  | none => { ch with ackDue := some (hw.frame + 8) }

/-- A packet is performed and its buffer returned (R386, R389); for a host's access to registers that is performed in SHELVED its channel may
grant the buffer again (R395). -/
def farPerform (c : Nat) (h pl : List Byte) (b : BgReq) (hw0 : Hw) : Hw :=
  let hw := syncTo hw0.now hw0
  let hw1 := farAct c h pl b (hw.modChan c (ackSoon hw))
  if pwrState hw = 2 then poolAsk c hw1 else poolRequest hw1

/-- The last access of a received transaction is served. -/
def ingressEnd (b : BgReq) (hw : Hw) : Hw :=
  match b.what with
  | .mesh p fl => meshPerform p fl b hw
  | .far c h pl _ => farPerform c h pl b hw
  | _ => hw

/-! ### Serving requests (R17, R18, R220, R264) -/

/-- The local accesses of paced descriptors that wait: channel and flight. -/
def pacedWaits (hw : Hw) : List (Nat × Flight) :=
  (List.range 64).flatMap (fun k => ((hw.te k).flights.filter (fun f => (pacedWork hw f).isSome)).map (fun f => (k, f)))

/-- Host tag, and a host's read of registers. -/
def ingressTag (hw : Hw) (b : BgReq) : Bool × Bool :=
  match b.what with
  | .mesh _ fl => ((fl.headD default).host, fl.any (fun f => f.host && decide (f.typ = 2) && inRegs hw f.addr))
  | .far _ h _ _ => (hHost h, hHost h && decide (hTyp h = 2) && inRegs hw (hAddr h))
  | _ => (false, false)

/-- No packet of its channel waits before a request's: packets are performed in their order (R386). -/
def firstOfChan (hw : Hw) (b : BgReq) : Bool :=
  match b.what with
  | .far c _ _ _ => (hw.bg.find? (fun x => match x.what with
    | .far d _ _ _ => decide (d = c)
    | _ => false)) == some b
  | _ => true

/-- A request may be served at all: in SHELVED no ingress but a host's reads of registers (R395); a host's access to memory waits for the
check bits (R522). -/
def mayServe (hw : Hw) (b : BgReq) : Bool :=
  let ingress : Bool := match b.what with
    | .mesh _ _ => true
    | .far _ _ _ _ => true
    | _ => false
  (!ingress || decide (pwrState hw ≠ 2) || (ingressTag hw b).2) && (hw.boot.checkbits || !(ingressTag hw b).1 || b.todo.isEmpty) &&
    firstOfChan hw b

/-- A request of firmware's own or of the queue engine: their accesses keep their order (log entry 92). -/
def isFirm (w : BgWhat) : Bool :=
  match w with
  | .page _ => true
  | .post _ _ => true
  | .cqe _ => true
  | .cmd _ => true
  | .list _ => true
  | .phase _ => true
  | .tables _ => true
  | _ => false

/-- No earlier request of its unit waits before one of firmware or the queue engine. -/
def firstOfUnit (hw : Hw) (b : BgReq) : Bool :=
  !isFirm b.what || (hw.bg.find? (fun x => isFirm x.what && decide (x.unit = b.unit) && !x.todo.isEmpty)) == some b

/-- Cycle `t` serves a request's next access; one of ingress that has none is performed at once. -/
def servable (hw : Hw) (t : Nat) (b : BgReq) : Bool :=
  mayServe hw b && firstOfUnit hw b && (match b.todo, b.what with
    | x :: _, _ => slotFree hw t x.addr
    | [], .mesh _ _ => true
    | [], .far _ _ _ _ => true
    | [], _ => false)

/-- Of several, the request of the lowest rank, the first of equals. -/
def lowest : List (Nat × (BgReq ⊕ (Nat × Flight))) → Option (BgReq ⊕ (Nat × Flight))
  | [] => none
  | x :: l => some (l.foldl (fun m y => if y.1 < m.1 then y else m) x).2

/-- The request that cycle `t` serves: of those whose slot is free, the lowest unit number's (R18, R220). -/
def nextServed (hw : Hw) (t : Nat) : Option (BgReq ⊕ (Nat × Flight)) :=
  lowest ((hw.bg.filter (servable hw t)).map (fun b => (b.rank, .inl b)) ++
    (if pwrState hw = 2 then [] else (pacedWaits hw).filter (fun p => match pacedWork hw p.2 with
      | some (_, a) => slotFree hw t a
      | none => false)).map (fun p => (teUnit p.1 + 1, .inr p)))

/-- The record at the head of the queue waits for a slot from the cycle it got there, before every other request (R482, R494). -/
def ringAsk (hw : Hw) : Hw :=
  match hw.rcd.queue with
  | [] => hw
  | e :: _ => if !hw.rcd.ringOn || hw.boot.pwrfail || bgWaits hw .ring then hw else ringRequest (recBytes (hw.reg FLT_WIDX).toNat e) hw

/-- Serve the first access of request `b` in cycle `t`; 32-bit registers of a line are read in the order of their addresses (R7; log
entry 65). -/
def serveReq (t : Nat) (b : BgReq) (hw : Hw) : Hw :=
  match b.todo with
  | [] => ingressEnd b { hw with bg := hw.bg.erase b }
  | .rd a k :: l =>
    if !inRegs hw a ∨ b.unit = 0x18 then bgServeAcc ingressEnd t b hw
    else
      let r := readRegs b.unit a (k / 4) (bgMark b.unit t a 1 hw)
      let b' := { b with todo := l, got := b.got ++ r.1, since := t, warned := false }
      if l.isEmpty then ingressEnd b' { r.2 with bg := r.2.bg.erase b }
      else { r.2 with bg := r.2.bg.map (fun y => if y = b then b' else y) }
  | _ => bgServeAcc ingressEnd t b hw

/-- Serve one request in cycle `t`, if it can serve one. -/
def serveAt (t : Nat) (hw0 : Hw) : Option Hw :=
  let hw := ringAsk (settle t hw0)
  match nextServed hw t with
  | none => none
  | some (.inr p) => some ((pacedServe p.1 t p.2 hw).at t)
  | some (.inl b) => some (serveReq t b (hw.at t))

/-- BG_REQUEST_SERVE: the first cycle of the frame, from the present one on, that can serve a waiting request does. -/
def bgServe (hw : Hw) : Hw :=
  if hw.bg.isEmpty && (pacedWaits hw).isEmpty && hw.rcd.queue.isEmpty then hw
  else
    let ts := (List.range 6).filter (fun i => decide (i = 0 ∨ hw.now + i < 6 * (hw.frame + 1)))
    (ts.findSome? (fun i => serveAt (hw.now + i) hw)).getD hw

/-- A new request, served at once where its slot is free. -/
def bgArrive (b : BgReq) (hw : Hw) : Hw :=
  let h := bgAdd b hw
  (serveAt h.now h).getD h

/-- STRIDE_PREFETCH: a learned stream requests its next line (R204). -/
def stridePrefetch (n : Fin 8) (hw : Hw) : Hw :=
  match prefetchNext n hw with
  | (some b, h) => bgArrive b h
  | (none, h) => h

/-! ### Waits of 256 cycles (R264) -/

/-- The memory and bank that R264 names for an address. -/
def waitMemory (hw : Hw) (a : Nat) : Option Nat :=
  match regionOf hw a with
  | .lm n => some (n * 256 + nbits a 7 4)
  | .csm => some (8 * 256 + nbits a 7 5)
  | .bm g _ => some (9 * 256 + g)
  | .scratch c => some (10 * 256 + c)
  | _ => none

/-- The record of a request that has waited 256 cycles (R264). -/
def waitRecord (unit m a : Nat) (hw : Hw) : Hw :=
  raise { cls := cSCHED_SLOT_CONFLICT, sev := 0, unit := unit, addr := a, exp := hw.frame, act := hw.frame, syn := 0x34000000 + m } hw

/-- The first request that has waited 256 cycles and is not yet recorded (R264). -/
def bgWait (hw : Hw) : Hw :=
  let long (since : Nat) (warned : Bool) : Bool := !warned && decide (since + 256 ≤ hw.now)
  let paced := (pacedWaits hw).findSome? (fun p => if long p.2.since p.2.warned then
    (pacedWork hw p.2).bind (fun x => (waitMemory hw x.2).map (fun m => (p, m, x.2))) else none)
  let other := hw.bg.findSome? (fun b => if long b.since b.warned then
    b.todo.head?.bind (fun x => (waitMemory hw x.addr).map (fun m => (b, m, x.addr))) else none)
  match paced, other with
  | some (p, m, a), _ => waitRecord (teUnit p.1) m a (modFlight p.1 p.2.id (fun f => { f with warned := true }) hw)
  | none, some (b, m, a) =>
    waitRecord b.unit m a { hw with bg := hw.bg.map (fun x => if x = b then { x with warned := true } else x) }
  | none, none => hw

/-! ### Arrivals -/

/-- Flits of one transaction of type `typ` arrive at port `p` (R368, R369): their accesses wait for free slots (R17). In SHELVED they
wait for its end (R395). -/
def meshIn (typ : Nat) (p : Fin 4) (fl : List Flit) (hw : Hw) : Hw :=
  if !hw.clk.lock then hw
  else
    let bad := fl.filter (fun f => !f.ok || decide (f.typ = 0 ∨ 7 < f.typ))
    let hw1 := bad.foldl (discardFlit p.val) hw
    let good := fl.filter (fun f => f.ok && decide (f.typ = typ))
    let hw2 := meshCredit p.val bad hw1
    match good with
    | [] => hw2
    | f :: _ =>
      match meshRefuse hw f with
      | some c =>
        let hw3 := meshCredit p.val good hw2
        if typ = 3 ∨ typ = 5 then hw3
        else if typ = 2 ∨ cluState hw = 1 then meshError p.val c f hw3
        else meshAck p.val c f hw3
      | none =>
        if f.dst ≠ hw.cid ∧ cluState hw ≠ 1 then meshCredit p.val good hw2
        else bgArrive (bgNew hw2 (0x20 + p.val) (meshTodo hw2 good) (.mesh p.val good)) hw2

/-- The next packet in sequence is accepted: it is counted, a buffer that was granted holds it, and it is to be reported (R385, R386, R388,
R389). -/
def farTake (c : Nat) (pl : List Byte) (hw : Hw) : Hw :=
  let hw1 := poolFill (poolBuffer hw) pl (hw.setFld (farReg c 0x18) 16 16 (hw.fld (farReg c 0x18) 16 16 + 1))
  hw1.modChan c (fun ch => ackSoon hw { ch with granted := ch.granted - 1 })

/-- A sequenced packet that passed its CRC (R385): accepted, it waits in its buffer for its slots; a fenced cluster answers it
PEER_FENCED (R399). -/
def farSequenced (c : Nat) (h pl : List Byte) (hw : Hw) : Hw :=
  if !farLive hw c then hw
  else
    let want := hw.fld (farReg c 0x18) 16 16
    let seq := leAt h 4 2
    if seq = want then
      let fenced := decide (hw.net.fenced ∧ ¬ (hHost h ∧ cluState hw ≥ 8) ∧ hTyp h ≠ 3 ∧ hTyp h ≠ 5 ∧ hTyp h ≠ 8)
      let b := bgNew hw (0x24 + hw.fld (farReg c 0) 18 1) (if fenced then [] else farTodo hw c h pl) (.far c h pl (poolBuffer hw))
      poolRequest (bgArrive { b with ans := if fenced then cPEER_FENCED else 0 } (farTake c pl hw))
    else if (want + 65536 - seq) % 65536 ≤ 32768 then sendPlain c 0x10 hw
    else
      let rto := hw.fld (farReg c 0xC) 0 16
      let again := match (hw.chan c).nak with
        | some (e, f) => decide (e ≠ want ∨ f + rto ≤ hw.frame)
        | none => true
      if again then sendPlain c 0x11 (hw.modChan c (fun ch => { ch with nak := some (want, hw.frame) })) else hw

/-- The header beat of a received packet: its bytes before the CRC, and the CRC at 0x7C (R383). -/
def farHead (h : List Byte) (crc : W32) : List Byte := bytesAt h 0 0x7C ++ leBytes crc.toNat 4

/-- A packet of type `typ` arrives on channel `c` (R384–R387, R403); one whose CRC does not match is counted and has no other effect. Until
the PLL locks and the catalogue is applied the far channels stay DOWN (R446, R447). -/
def farIn (typ : Nat) (c : Fin 32) (h pl : List Byte) (hw : Hw) : Hw :=
  let c := c.val
  let cfg := (hw.reg (farReg c 0)).toNat
  if !hw.clk.lock ∨ cluState hw = 1 ∨ !nbit cfg 31 ∨ !(hw.net.linkup.getD (nbits cfg 18 1) false) then hw
  else if crc32c none (bytesAt h 0 0x7C ++ pl) ≠ leAt h 0x7C 4 then Hw.bump (farReg c 0x1C) 0 16 hw
  else if hTyp h ≠ typ then hw
  else
    let hw1 := hw.modChan c (fun ch => { ch with lastHeard := hw.now })
    if typ = 0x13 then
      if chanState hw c = 2 then chanLost c hw1
      else if chanState hw c = 1 ∨ hSrc h ≠ nbits cfg 0 18 then hw1
      else chanJoin c hw1
    else
      let live := farLive hw c
      let take (x : Hw) : Hw := if live then farHeader c h x else x
      if typ = 5 then take (farSequenced c h pl hw1)
      else if typ < 0x10 then farSequenced c h pl (take hw1)
      else if typ = 0x11 ∧ live then
        let hw2 := take hw1
        if (hw2.chan c).kept.isEmpty then hw2 else farRetry c (leAt h 6 2) hw2
      else take hw1

end Sys2Proof.Machine
end

