-- ==== Sys2Proof/Machine/Archive.lean ====
section
/-!
DEFINITION. CLU_STATE_SET (R463) and, within it, what firmware does at a transition: its first READY (R402, R426), and the archive routine
before FAILED (R493, R494, R496).
-/
namespace Sys2Proof.Machine

/-! ### The archive -/

/-- A section: TYPE, bytes. -/
structure ArcSection where
  typ : Nat
  bytes : List Byte

/-- Read registers in order as KC does, each a word. -/
def readAll : List Nat → Hw → List Byte × Hw
  | [], hw => ([], hw)
  | o :: l, hw =>
    let r := readRegister 0x18 o hw
    let t := readAll l r.2
    (leBytes r.1.toNat 4 ++ t.1, t.2)

/-- Registers of section 1: KCP_WREG for windows 0–8, then KCP offsets 0x000–0x1FF. -/
def kcSectionRegs : List Nat := (List.range 576).map (fun i => 0xD02000 + 4 * i) ++ (List.range 128).map (fun i => 0xD00000 + 4 * i)

/-- The firmware's own list for section 2, a free value; log entry 16. -/
def archiveList (hw : Hw) : List Nat := ((Config.archiveRegs hw.free).take 524288).map (fun x => x % 0x1800000 / 4 * 4)

/-- A ring in CSM of 2^log bytes, when its size is one that R440 allows. -/
def arcRing (hw : Hw) (typ base log lo hi : Nat) : List ArcSection :=
  if log < lo ∨ hi < log then [] else [⟨typ, hw.bytes base (2 ^ log)⟩]

/-- The sections of a slot in ascending TYPE (R496); `open_` are the commands not completed at entry. -/
def arcSections (open_ : List Byte) (hw : Hw) : List ArcSection × Hw :=
  let a := readAll kcSectionRegs hw
  let ls := archiveList a.2
  let b := readAll ls a.2.draw
  let h := b.2
  ([⟨1, a.1⟩, ⟨2, ls.flatMap (fun o => leBytes (o / 4) 4) ++ b.1⟩, ⟨3, open_⟩, ⟨4, h.bytes 0x3C00000000 0x40000⟩] ++
    arcRing h 5 (h.reg64 0xD00100) (h.fld 0xD00108 0 5) 12 20 ++ arcRing h 6 (h.reg64 0xD00110) (h.fld 0xD00118 0 5) 12 24, h)

/-- Place sections at 4 KiB boundaries from offset `o`: their offsets. -/
def arcPlace : Nat → List ArcSection → List (Nat × ArcSection)
  | _, [] => []
  | o, s :: l => (o, s) :: arcPlace (o + (s.bytes.length + 4095) / 4096 * 4096) l

/-- The header of an archive (R496). -/
def arcHeader (hw : Hw) (done : Bool) (secs : List (Nat × ArcSection)) : List Byte :=
  let row (p : Nat × ArcSection) : List Byte := leBytes p.2.typ 4 ++ leBytes p.1 4 ++ leBytes p.2.bytes.length 4 ++ leBytes (crc32 p.2.bytes) 4
  let flags := hw.fld 0xB00300 8 8 + 0x100 + 0x200 * b2n hw.boot.pwrfail + 0x400 * b2n done
  let b := leBytes 0x41524331 4 ++ leBytes 1 4 ++ leBytes flags 4 ++ leBytes (hw.reg 0xB00304).toNat 4 ++ leBytes (hw.reg64 0xB00308) 8 ++
    leBytes hw.frame 8 ++ leBytes (hw.reg 0).toNat 4 ++ leBytes (hw.reg 0xC).toNat 4 ++ leBytes hw.fw.slotVersion 4 ++
    leBytes hw.boot.arcWidx 4 ++ leBytes hw.boot.before 4 ++ leBytes (hw.reg KCP_TSTAT).toNat 4 ++ leBytes (hw.reg64 0xD00008) 8 ++
    bytesAt hw.boot.trigger 0 64 ++ bytesAt (secs.flatMap row) 0 128 ++ List.replicate 0xFC 0
  b ++ leBytes (crc32 b) 4

/-- The bytes of FLT_LAST0–15. -/
def lastRec (hw : Hw) : List Byte := (List.range 16).flatMap (fun k => leBytes (hw.reg (0xB00040 + 4 * k)).toNat 4)

/-- Accepted commands whose completion record is not written, ended or not (R496). -/
def uncompleted (hw : Hw) : List Cmd := (hw.fw.cmds.filter (fun c => !c.refused)).foldl (fun l c => insertCmd c l) []

/-- The archive routine writes a command's completion record itself. -/
def completeNow (c : Cmd) (hw : Hw) : Hw :=
  completed c hw.frame ((bgDrop (.cqe c.qid) hw).store (cqSlot hw c.qid) (completionBytes hw c))

/-- Step 2 of R493: every accepted command not completed gets a completion record with the trigger's class; with BM out of service
only in rings in CSM (R494). -/
def arcComplete (hw : Hw) : Hw :=
  let cls := hw.fld 0xB00300 8 8
  let may (c : Cmd) : Bool := !c.refused && (!hw.boot.pwrfail || decide (qCqBase (qCtx hw c.qid) / 2 ^ 32 = 0x20))
  (hw.fw.cmds.filter may).foldl
    (fun h c => completeNow { c with status := cls } { h with fw := { h.fw with cmds := h.fw.cmds.map (fun y => if y = c then { c with status := cls } else y) } })
    hw

/-- The archive routine up to the header (R493, R494); it was counted when it began, and reads no context before those of the entry are in the
store (R491). The copy of FLT_LAST0–15 in a summary stands at the 4 KiB boundary after the KC
section; log entry 17. -/
def archiveRoutine (hw0 : Hw) : Hw :=
  let seq := (hw0.reg 0xB00304).toNat
  let open_ := ((uncompleted hw0).take 1024).flatMap unfinishedBytes
  let hw1 := ((postsNow 0x18 (postsNow 0x19 (settle hw0.now hw0))).orReg 0xB00300 (8 * b2n hw0.boot.pwrfail)).setReg KCP_PROG 0#32
  let hw2 := (arcComplete hw1).setFld 0xB00300 4 1 (seq % 2)
  if hw2.boot.pwrfail then
    let a := readAll kcSectionRegs hw2
    let base := 0x2003FEF000
    let h := (a.2.store (base + 0x1000) a.1).store (base + 0x2000) (lastRec a.2)
    ((h.store base (arcHeader h true [(0x1000, ⟨1, a.1⟩)])).orReg 0xB00300 2)
  else
    let r := arcSections open_ hw2
    let base := reservedBase r.2 + 0x1000000 + (seq % 2) * 0x1800000
    let secs := arcPlace 0x1000 r.1
    let h := secs.foldl (fun h p => h.store (base + p.1) p.2.bytes) r.2
    (h.store base (arcHeader h true secs)).orReg 0xB00300 2

/-! ### State transitions -/

/-- The transitions that R463 lets KC ask for. -/
def stateMay (old new : Nat) : Bool :=
  match old, new with
  | 3, 4 => true
  | 4, 5 => true
  | 5, 4 => true
  | 4, 6 => true
  | 5, 6 => true
  | 6, 4 => true
  | 3, 8 => true
  | 4, 8 => true
  | 5, 8 => true
  | 6, 8 => true
  | 7, 8 => true
  | 8, 9 => true
  | _, _ => false

/-- Before the first READY firmware writes the NEXT copies from the catalogue's location and far-channel sections, where it has them, and makes
the copies current (R426, R455). -/
def catalogueNext (hw : Hw) : Hw :=
  let w (o i : Nat) : W32 := hw.reg (0xE08000 + o + 4 * i)
  let die := hw.fld 0xE08030 0 16
  let far := hw.fld 0xE0802C 0 16
  let hw1 := if nbit (hw.reg 0xE08030).toNat 16 then
    (List.range 16).foldl (fun h i => h.setReg (0x700080 + 4 * i) (w die i &&& 0x87FFFFFF#32)) hw else hw
  let hw2 := if nbit (hw.reg 0xE0802C).toNat 16 then
    (List.range 32).foldl (fun h c => h.setReg (farReg c 4) (w far (2 * c) &&& 0x80FFFFFF#32)) hw1 else hw1
  epochNow .kc hw2

/-- The first READY after a reset: q0 becomes resident, the configured channels join, SCH is told (R402, R426). -/
def firstReady (hw : Hw) : Hw :=
  if hw.fw.firstReady then hw
  else
    let h := joinAll (adminResident hw)
    fwMail 2 0x93 [h.cid] { h with fw := { h.fw with firstReady := true } }

/-- A write of CLU_STATE_SET (R463). -/
def stateWrite (u : Writer) (v : W32) (hw : Hw) : Hw :=
  let old := cluState hw
  let new := fieldOf v 0 4
  if u ≠ .kc ∨ !stateMay old new then refuse u.unit hw
  else if !hw.kc.on ∨ hw.kc.halted then hw
  else if new = 8 then enterArchiving hw
  else if new = 9 then setState 9 (archiveRoutine (ledger 0xF0 hw))
  else if old = 3 then firstReady (setState 4 (if hw.fw.firstReady then hw else catalogueNext hw))
  else setState new hw

/-- CLU_STATE_SET. -/
def cluStateSet (u : Writer) (v : W32) (hw : Hw) : Hw := noted (stateWrite u v) hw

end Sys2Proof.Machine
end

