-- ==== Sys2Proof/Machine/RegWrite.lean ====
section
/-!
DEFINITION. Writes of the register space by access code (R6, R8, R10, R12), each register's own refusals and actions, the row
REGISTER_WRITE, and MTSR (R110).
-/
namespace Sys2Proof.Machine

/-! ### Plain writes -/

/-- Flags that an operation of a core sets in the present cycle in the register at `off`: they end the cycle set (R75). -/
def setNow (off : Nat) (hw : Hw) : Nat :=
  let b := off / 0x100000
  if h : 0x10 ≤ b ∧ b - 0x10 < 8 then
    let c := hw.core ⟨b - 0x10, h.2⟩
    let of (x : Nat × Nat) : Nat := if x.1 = hw.now then x.2 else 0
    if off % 0x100000 = 0x404 then of c.fpSet else if off % 0x100000 = 0x140 then of c.chnSet else 0
  else 0

/-- A write by access code of bits that no action follows: RW bits take the value, W1C bits written as 1 clear (R12). -/
def plainWrite (off : Nat) (v : W32) (hw : Hw) : Hw :=
  let s := shapeOf off
  let rw := BitVec.ofNat 32 (s.rw + s.wo)
  let x := (hw.reg off &&& ~~~rw) ||| (v &&& rw)
  hw.setReg off ((x &&& ~~~(v &&& BitVec.ofNat 32 s.w1c)) ||| BitVec.ofNat 32 (setNow off hw ||| irqNow off hw))

/-- A write of one word: the low word of an RW pair waits in the requester's latch, and its high word takes it along (R8). `ok` says
whether the register may change; if not, the write is refused at the requester: neither word is latched, and a high word leaves the latch
empty; that R8's latch takes no refused word is read from the refusals' own words (log entry 93). -/
def pairWrite (unit off : Nat) (v : W32) (ok : Bool) (hw : Hw) : Hw :=
  let s := shapeOf off
  let put (l : List (Nat × Option W32)) (k : Nat) (x : Option W32) := tabPut (fun _ => none) k x l
  if s.rw = 0 ∨ s.pos = 0 then (if ok then plainWrite off v hw else refuse unit hw)
  else if s.pos = 1 then (if ok then { hw with wlatch := put hw.wlatch (latchKey unit off) (some v) } else refuse unit hw)
  else
    let k := latchKey unit (off - 4)
    let lo := tabGet (fun _ => none) hw.wlatch k
    let h := { hw with wlatch := put hw.wlatch k none }
    if !ok then refuse unit h
    else match lo with
      | some x => plainWrite off v (plainWrite (off - 4) x h)
      | none => plainWrite off v h

/-- A write that is refused where `ok` is false. -/
def guarded (unit off : Nat) (v : W32) (ok : Bool) (hw : Hw) : Hw := pairWrite unit off v ok hw

/-- Do `f` where bit `i` of a written word is 1 (WP). -/
def onBit (v : W32) (i : Nat) (f : Hw → Hw) (hw : Hw) : Hw := if nbit v.toNat i then f hw else hw

/-! ### CORE blocks -/

/-- A write of CORE_RNG_CTL: OP, and with GO the range operation (R207). -/
def rngCtl (n : Fin 8) (unit : Nat) (v : W32) (hw : Hw) : Hw :=
  if nbit v.toNat 0 then rangeGo (fieldOf v 1 3) n unit hw else plainWrite (coreReg n 0x614) v hw

/-- A write of CORE_SWCTL: its fields, and with GO the operation (R209). -/
def swCtl (n : Fin 8) (unit : Nat) (v : W32) (hw : Hw) : Hw :=
  if nbit v.toNat 0 then swMaint (fieldOf v 10 2) n unit (fieldOf v 4 6) (fieldOf v 1 3) hw else plainWrite (coreReg n 0x630) v hw

/-- A write of the register at offset `o` of core `n`'s block by a unit (R110, R141, R152, R187, R214). One write of CORE_CTL with ARM and
STOP both 1 arms and then stops: no rule orders them, a DESIGN CHOICE (log entry 101). -/
def writeCore (n : Fin 8) (o unit : Nat) (v : W32) (hw : Hw) : Hw :=
  let st := (hw.core n).st
  let off := coreReg n o
  if o = 0 then onBit v 1 (coreStop n) (onBit v 0 (coreArm n unit) hw)
  else if 0x10 ≤ o ∧ o < 0x28 then guarded unit off v (decide (st ≠ .armed ∧ st ≠ .run)) hw
  else if o = 0x100 then onBit v 0 (cancelArray n) hw
  else if h : 0x200 ≤ o ∧ (o - 0x200) / 4 < 16 then aseqWrite n ⟨(o - 0x200) / 4, h.2⟩ unit v hw
  else if o = 0x600 then guarded unit off v (decide (st ≠ .armed ∧ st ≠ .run ∧ st ≠ .wait)) hw
  else if o = 0x614 then rngCtl n unit v hw
  else if o = 0x630 then swCtl n unit v hw
  else pairWrite unit off v true hw

/-! ### The other blocks -/

/-- CLU, CLK and PWR. -/
def writeClu (u : Writer) (off : Nat) (v : W32) (hw : Hw) : Hw :=
  if off = 0x10 then cluStateSet u v hw
  else if off = 0x100004 then onBit v 0 slowEnter (plainWrite off v hw)
  else if off = 0x100008 then onBit v 0 (warmReset u) (onBit v 1 (forcedReset u) (onBit v 2 (coldWrite u v) hw))
  else if off = 0x10000C then (List.finRange 8).foldl (fun h n => onBit v n.val (coreRst n u) h) hw
  else if off = 0x200000 then guarded u.unit off v (decide (80 ≤ fieldOf v 16 9 ∧ fieldOf v 16 9 ≤ 320)) hw
  else if off = 0x200030 then
    (if nbit v.toNat 8 then (if fieldOf v 0 2 = 0 then pwrActive u hw else pwrDown (fieldOf v 0 2) u hw) else plainWrite off v hw)
  else pairWrite u.unit off v true hw

/-- TIM: a write of TIM_PHASE_NEXT while ARMED is 1 is refused (R257); DISARM prevails over ARMED; WALL_SUSPENDED is set for as long as the
mode is slow-exact (R285). -/
def writeTim (u : Writer) (off : Nat) (v : W32) (hw : Hw) : Hw :=
  let o := off % 0x100000
  if o = 8 ∨ o = 0xC then guarded u.unit off v (!nbit (hw.reg 0x300018).toNat 0) hw
  else if o = 0x18 then (if nbit v.toNat 1 ∨ !nbit v.toNat 0 then phaseDisarm hw else phaseArm u hw)
  else if o = 0x1C then (let h := plainWrite off v hw; if hw.clk.slow then h.orReg off 4 else h)
  else if o = 0x24 then onBit v 1 (holdAbort u) (onBit v 0 (holdRelease u) hw)
  else pairWrite u.unit off v true hw

def writeQue (u : Writer) (off : Nat) (v : W32) (hw : Hw) : Hw :=
  let o := off % 0x100000
  if o = 0 then queSqdb v hw
  else if o = 4 then queCqdb v hw
  else if o = 8 then queAdminCfg u v hw
  else if 0x10 ≤ o ∧ o < 0x20 then guarded u.unit off v (decide (qOut (qCtx hw 0) = 0)) hw
  else if o = 0x2C then queAttach v hw
  else pairWrite u.unit off v true hw

/-- Clearing OW_STAT.TRIPPED restarts the count at 0 (R337, R339). -/
def owStatWrite (v : W32) (hw : Hw) : Hw :=
  let h := plainWrite 0x500044 v hw
  if nbit v.toNat 0 ∧ nbit (hw.reg 0x500044).toNat 0 then h.setFld 0x500044 16 13 0 else h

def writeSem (u : Writer) (off : Nat) (v : W32) (hw : Hw) : Hw :=
  let o := off % 0x100000
  if o = 8 then semSignal u v hw
  else if o = 0xC then semTake u v hw
  else if o = 0x10 then
    (if !nbit v.toNat 0 then plainWrite off v hw else if nbit v.toNat 1 then semRestore false u hw else semSave false u hw)
  else if o = 0x44 then owStatWrite v hw
  else if 0x400 ≤ o ∧ o < 0x800 then syncTo hw.now (plainWrite off v (syncTo (hw.now - 1) hw))
  else if 0x200 ≤ o ∧ o < 0x400 then semAllocWrite ((o - 0x200) / 4) v hw
  else if 0x4000 ≤ o ∧ o < 0x8000 then semValWrite ((o - 0x4000) / 4) u v hw
  else if 0x8000 ≤ o ∧ o < 0x8800 then
    (let k := (o - 0x8000) / 0x20
     let p := o % 0x20
     if p < 0xC then barConfigWrite k (p / 4) u v hw
     else if p = 0x18 then onBit v 0 (barArrive k u) hw
     else hw)
  else pairWrite u.unit off v true hw

def writeTen (u : Writer) (off : Nat) (v : W32) (hw : Hw) : Hw :=
  let o := off % 0x100000
  if h : o < 0x1000 ∧ o / 0x40 < 64 then
    (let k : Fin 64 := ⟨o / 0x40, h.2⟩
     let p := o % 0x40
     if p = 0 then onBit v 1 (tenResume k) (onBit v 0 (tenStop k) hw)
     else if p = 0x10 then onBit v 0 (tenEnq k u) hw
     else if p = 0x14 then countWrite k.val v hw
     else pairWrite u.unit off v true hw)
  else pairWrite u.unit off v true hw

/-- An epoch waits for its boundary: the NEXT tables may not change (R425). -/
def epochArmed (hw : Hw) : Bool := nbit (hw.reg 0xD0018C).toNat 0

def writeMsh (u : Writer) (off : Nat) (v : W32) (hw : Hw) : Hw :=
  let o := off % 0x100000
  if o = 0x10 then hbEnWrite v hw
  else if o = 0x14 then guarded u.unit off v (decide (fieldOf v 0 13 ≤ 4159)) hw
  else if o = 0x20 then (if nbit v.toNat 0 then fenceGo u v hw else plainWrite off v hw)
  else if (0x80 ≤ o ∧ o < 0xC0) ∨ (0x3000 ≤ o ∧ o < 0x5000) then guarded u.unit off v (!epochArmed hw) hw
  else pairWrite u.unit off v true hw

/-- FAR: the pool stands while a channel is not DOWN (R388); a channel whose MAX grows asks for buffers (R389). -/
def writeFar (u : Writer) (off : Nat) (v : W32) (hw : Hw) : Hw :=
  let o := off % 0x100000
  let p := o % 0x40
  if o < 0x800 ∧ p = 4 then guarded u.unit off v (!epochArmed hw) hw
  else if o < 0x800 ∧ p = 0xC then guarded u.unit off v (decide (fieldOf v 16 3 ≠ 0)) hw
  else if o < 0x800 ∧ p = 0x14 then poolRequest (plainWrite off v hw)
  else if 0x1000 ≤ o ∧ o < 0x100C then
    let down := (List.range 32).all (fun c => decide (chanState hw c = 0))
    guarded u.unit off v down (if down then hw.modNet (fun n => { n with pool := true }) else hw)
  else pairWrite u.unit off v true hw

def writeBmc (u : Writer) (off : Nat) (v : W32) (hw : Hw) : Hw :=
  let o := off % 0x100000
  if o = 0x10 then onBit v 1 remapAbort (onBit v 0 (remapStart u) hw)
  else if o = 0x14 then (if nbit v.toNat 1 then { hw with bmc := { hw.bmc with swapped := false } } else hw)
  else if 0x10000 ≤ o ∧ o < 0x50000 then
    (if hw.bmc.busy then refuse u.unit hw
     else { hw with shadow := tabPut (fun _ => 0#32) ((o - 0x10000) / 4) v hw.shadow })
  else pairWrite u.unit off v true hw

def writeCar (u : Writer) (off : Nat) (v : W32) (hw : Hw) : Hw :=
  let o := off % 0x100000
  if h : o / 0x100 < 64 then
    (let c : Fin 64 := ⟨o / 0x100, h⟩
     let p := o % 0x100
     let st := (hw.car c).st
     if p = 0 then onBit v 1 (carStop c) (onBit v 0 (carArm c u) hw)
     else if p = 8 then guarded u.unit off v (decide (st ≠ .armed ∧ st ≠ .run ∧ st ≠ .wait)) hw
     else pairWrite u.unit off v true hw)
  else hw

def writeFlt (u : Writer) (off : Nat) (v : W32) (hw : Hw) : Hw :=
  let o := off % 0x100000
  if o = 0xC0 then onBit v 0 (fltRaise u) hw
  else if o = 0x310 then guarded u.unit off v (decide (v ≠ 0#32)) hw
  else pairWrite u.unit off v true hw

/-- DBG (R500). -/
def writeDbg (u : Writer) (off : Nat) (v : W32) (hw : Hw) : Hw :=
  let o := off % 0x100000
  if o < 8 then guarded u.unit off v (!snapArmed hw) hw
  else if o = 8 then onBit v 0 (snapArm u) (onBit v 3 snapDisarm (plainWrite off v hw))
  else pairWrite u.unit off v true hw

/-- A write of KCP_UPD_CTL: each bit written as 1 asks for its step, from OPEN upward (R433–R436). -/
def updCtl (u : Writer) (v : W32) (hw : Hw) : Hw :=
  onBit v 5 (updAbandon u) (onBit v 4 (updReject u) (onBit v 3 (updConfirm u) (onBit v 2 (updSwitch u) (onBit v 1 (updCommit u) (onBit v 0
    (updOpen u) hw)))))

def writeKcp (u : Writer) (off : Nat) (v : W32) (hw : Hw) : Hw :=
  let o := off % 0x100000
  if o = 0x80 then guarded u.unit off v (decide (fieldOf v 0 16 ≠ 0)) hw
  else if o = 0x84 then wdtKick v hw
  else if o = 0xC0 then onBit v 0 (authStart u) hw
  else if o = 0xD0 then updCtl u v hw
  else if o = 0x108 then
    (let h := pairWrite u.unit off v true hw
     if fwRuns h then ledgerOwed h else h)
  else if o = 0x188 then onBit v 1 (epochNow u) (onBit v 0 epochArm hw)
  else if h : 0x1000 ≤ o ∧ (o - 0x1000) / 0x400 < 3 ∧ o % 0x400 = 0x200 then
    (let m : Fin 3 := ⟨(o - 0x1000) / 0x400, h.2.1⟩
     onBit v 1 (mbAck m) (onBit v 0 (mbSend m u) hw))
  else pairWrite u.unit off v true hw

/-- What passed a core's stages before a write is in its registers (R73, R185); the SEM block puts its own events in order (R324, R325). -/
def writeSettle (off : Nat) (hw : Hw) : Hw := if off / 0x100000 = 5 then hw else regSettle off hw

/-- A write of the register at an offset by KC or a host (R12). -/
def writeRegister (u : Writer) (off : Nat) (v : W32) (hw0 : Hw) : Hw :=
  let hw := writeSettle off hw0
  let b := off / 0x100000
  if b < 3 then writeClu u off v hw
  else if b = 3 then writeTim u off v hw
  else if b = 4 then writeQue u off v hw
  else if b = 5 then writeSem u off v hw
  else if b = 6 then writeTen u off v hw
  else if b = 7 then writeMsh u off v hw
  else if b = 8 then writeFar u off v hw
  else if b = 9 then writeBmc u off v hw
  else if b = 0xA then writeCar u off v hw
  else if b = 0xB then writeFlt u off v hw
  else if b = 0xC then writeDbg u off v hw
  else if b = 0xD then writeKcp u off v hw
  else if b = 0xE then (if off = 0xE00004 then onBit v 0 (catLoad u) hw else hw)
  else if h : 0x10 ≤ b ∧ b - 0x10 < 8 then writeCore ⟨b - 0x10, h.2⟩ (off % 0x100000) u.unit v hw
  else hw

/-! ### Who may write -/

/-- A host's access reaches the cluster once the PLL has locked (R446, R447): every transaction to a cluster that sent FENCE is answered PEER_FENCED, but for host-tagged ones
once it archives or has failed (R399, R492). -/
def reaches (u : Writer) (hw : Hw) : Bool := decide (u = .kc) || (hw.clk.lock && (!hw.net.fenced || decide (8 ≤ cluState hw)))

/-- A command that is a register write by KC or a host. -/
def byWriter (u : Writer) (f : Hw → Hw) (hw : Hw) : Hw := if reaches u hw then f hw else hw

/-- A write to an unpopulated address ends as R190 says: for ingress as an error response and an informational record, for KC as a data-access
error trap. -/
def unpopulatedWrite (u : Writer) (a : Nat) (hw : Hw) : Hw :=
  match u with
  | .kc => if hw.kc.on ∧ !hw.kc.halted then kcTrap 4 hw.kc.pc (some a) none none hw else hw
  | .host _ => raise { cls := cACCESS_RANGE, sev := 0, unit := u.unit, q := .none, addr := a } hw

/-- A command that is a write of the register at offset `o` of core `n`'s block: the block of a fused core is unpopulated (R14). -/
def byCoreWriter (n : Fin 8) (o : Nat) (u : Writer) (f : Hw → Hw) (hw : Hw) : Hw :=
  byWriter u (if coreOn hw n.val then f else unpopulatedWrite u (0x4000000000 + coreReg n o)) hw

/-- REGISTER_WRITE: a write of `width` bytes at an address of the register space. One of another width or alignment is refused at the
requester (R6); one to an unpopulated block ends as R190 says. -/
def registerWrite (u : Writer) (a : BitVec 41) (width : Nat) (v : W32) (hw : Hw) : Hw :=
  match regionOf hw a.toNat with
  | .regs off =>
    if width ≠ 4 ∨ off % 4 ≠ 0 then refuse u.unit hw else writeRegister u off v hw
  | .unpopulated => unpopulatedWrite u a.toNat hw
  | _ => hw

/-- MTSR: rs1[31:0] goes to the CORE register at offset imm12 × 4 of the core's own block, in the issue cycle. A write of CORE_ASEQ that
R141 refuses is a fault at issue. -/
def coreMtsr (n : Fin 8) (w : W32) (hw : Hw) : Hw :=
  let o := 4 * imm12Of w
  withIssue n .mtsr w hw (fun cyc pc hw =>
    withReads n pc cyc [(0, rs1Of w)] hw (fun hw =>
      if 0x200 ≤ o ∧ o < 0x240 ∧ (hw.core n).ast ≠ .idle then
        coreFault n { cls := cPROG_WRITE_ACTIVE, sev := 1, unit := n.val, instr := pc, addr := 0x4000000000 + coreReg n o } hw
      else Hw.asOf cyc (writeCore n o n.val (((hw.core n).gr (rs1Of w)).setWidth 32)) (advance n w cyc hw)))

end Sys2Proof.Machine
end

