-- ==== Sys2Proof/Machine/KcCore.lean ====
section
/-!
DEFINITION. The control core's instructions (R406–R411, R413, R416–R420): its registers and windows, scalar arithmetic, control transfers,
loads and stores (R189, R190, R98), the window instructions, the micro-routines BCOPY and CSAVE, WFI and KTRAP.
-/
namespace Sys2Proof.Machine

/-! ### Registers and windows (R407) -/

def kcCur (hw : Hw) : Nat := hw.fld 0xD00000 0 3
def kcOcc (hw : Hw) : Nat := hw.fld 0xD00000 4 3
def kcSpilled (hw : Hw) : Nat := hw.fld 0xD00000 16 16

/-- Set KCP_WIN. -/
def setWin (cur occ spilled : Nat) (hw : Hw) : Hw :=
  hw.setReg 0xD00000 (BitVec.ofNat 32 (cur % 8 + occ % 8 * 16 + spilled % 65536 * 65536))

/-- The current window: the trap window while IN_TRAP is 1. -/
def kcWin (hw : Hw) : Nat := if kcInTrap hw then 8 else kcCur hw

/-- Register `r` of the current window. -/
def kcGet (hw : Hw) (r : Nat) : W64 := kcWindow hw.kc (kcWin hw) r

/-- Write register `r` of window `w`; w.s0 discards writes. -/
def Kc.put (w r : Nat) (x : W64) (k : Kc) : Kc :=
  if r = 0 then k
  else if r < 8 then { k with s := k.s.setIfInBounds r x }
  else if w < 8 then
    (if r < 16 then { k with outs := k.outs.setIfInBounds (8 * ((w + 7) % 8) + (r - 8)) x }
     else if r < 24 then { k with loc := k.loc.setIfInBounds (8 * w + (r - 16)) x }
     else { k with outs := k.outs.setIfInBounds (8 * w + (r - 24)) x })
  else if r < 16 then { k with trap := k.trap.setIfInBounds r x }
  else if r < 24 then { k with trap := k.trap.setIfInBounds (r - 16) x }
  else { k with trap := k.trap.setIfInBounds (r - 8) x }

/-- Write register `r` of the current window. -/
def kcSet (r : Nat) (x : W64) (hw : Hw) : Hw := hw.modKc (Kc.put (kcWin hw) r x)

/-! ### Issue -/

/-- An interrupt would be taken before the next instruction (R416). -/
def kcIrqDue (hw : Hw) : Bool := kcIe hw && !kcInTrap hw && (irqSource hw).isSome

/-- KC can issue, or go on with the instruction whose access waits. -/
def kcReady (hw : Hw) : Bool := hw.kc.on && !hw.kc.halted && !hw.kc.wfi && (kcBusy hw || !kcIrqDue hw)

/-- A trap at the instruction about to issue. -/
def kcFault (cause : Nat) (addr : Option Nat) (hw : Hw) : Hw := kcTrap cause hw.kc.pc addr none none hw

/-- The code word at KC's pc has been fetched: what it corrects is counted, once an instruction (R195, R486). -/
def kcFetched (hw : Hw) : Hw := if kcBusy hw then hw else correct hw.kc.pc 4 hw

/-- The code word at KC's pc is uncorrectable: it counts (R486) and is taken as a data-access error (log entry 18); in tightly coupled memory it is
firmware's own code, and firmware raises a cluster-fatal record and archives (R490). -/
def kcCodeBad (hw : Hw) : Hw :=
  let h := kcFault 4 (some hw.kc.pc) (countBad (wordOf (physOf hw hw.kc.pc)) hw)
  if regionOf hw hw.kc.pc = .tcm ∧ fwRuns h then
    enterArchiving (raise { cls := cSRAM_UNCORRECTABLE, sev := 3, unit := 0x18, q := .none, addr := hw.kc.pc } h)
  else h

/-- Issue the word `w` at KC as instruction `m`: it must be the next instruction, read from memory at KC's pc; a word that R406 makes
undefined takes an illegal-instruction trap. -/
def kcIssue (m : Mn) (w : W32) (hw0 : Hw) (k : Hw → Hw) : Hw :=
  if !kcReady hw0 then hw0
  else
    let hw := settle hw0.now hw0
    if hw.num hw.kc.pc 4 ≠ w.toNat then hw0
    else if hw.isBad hw.kc.pc then kcCodeBad hw
    else match decodeKc w with
      | none => kcFault 3 none (kcFetched hw)
      | some m' => if m' = m then k (kcFetched hw) else hw0

/-- Sequential flow. -/
def kcAdvance (hw : Hw) : Hw := hw.modKc (fun k => { k with pc := (k.pc + 4) % 2 ^ 64, micro := false })

/-- Control goes to an address. -/
def kcGoto (a : Nat) (hw : Hw) : Hw := hw.modKc (fun k => { k with pc := a % 2 ^ 64, micro := false })

/-! ### Arithmetic and control transfers (R82, R90, R92, R93) -/

def kcRR (m : Mn) (f : W64 → W64 → W64) (w : W32) (hw : Hw) : Hw :=
  kcIssue m w hw (fun hw => kcSet (rdOf w) (f (kcGet hw (rs1Of w)) (kcGet hw (rs2Of w))) (kcAdvance hw))

def kcR1 (m : Mn) (f : W64 → W64) (w : W32) (hw : Hw) : Hw :=
  kcIssue m w hw (fun hw => kcSet (rdOf w) (f (kcGet hw (rs1Of w))) (kcAdvance hw))

def kcRI (m : Mn) (f : W64 → W64 → W64) (w : W32) (hw : Hw) : Hw := kcR1 m (fun a => f a (xImm (imm13Of w))) w hw

def kcK (m : Mn) (x : W64) (w : W32) (hw : Hw) : Hw := kcIssue m w hw (fun hw => kcSet (rdOf w) x (kcAdvance hw))

def kcShk (w : W32) (hw : Hw) : Hw :=
  kcIssue .shk w hw (fun hw => kcSet (rdOf w) ((kcGet hw (rdOf w) <<< 16) ||| BitVec.ofNat 64 (imm16Of w)) (kcAdvance hw))

def kcBranch (m : Mn) (f : W64 → W64 → Bool) (w : W32) (hw : Hw) : Hw :=
  kcIssue m w hw (fun hw =>
    if f (kcGet hw (rdOf w)) (kcGet hw (rs1Of w)) then kcGoto (((hw.kc.pc : Int) + 4 * imm14Of w) % (2 ^ 64 : Int)).toNat hw
    else kcAdvance hw)

def kcJal (w : W32) (hw : Hw) : Hw :=
  kcIssue .jal w hw (fun hw =>
    kcSet (rdOf w) (BitVec.ofNat 64 (hw.kc.pc + 4)) (kcGoto (((hw.kc.pc : Int) + 4 * imm22Of w) % (2 ^ 64 : Int)).toNat hw))

def kcJalr (w : W32) (hw : Hw) : Hw :=
  kcIssue .jalr w hw (fun hw =>
    let t := (kcGet hw (rs1Of w)).toNat
    kcSet (rdOf w) (BitVec.ofNat 64 (hw.kc.pc + 4)) (kcGoto (t - t % 4) hw))

/-! ### Memory and registers (R189, R190) -/

/-- What KC's access of `k` bytes at `a` reaches. -/
inductive KcPlace where
  | mem
  | reg (off : Nat)
  | none
deriving DecidableEq, Repr

def kcPlace (hw : Hw) (a k : Nat) : KcPlace :=
  if 2 ^ 41 ≤ a then .none
  else match regionOf hw a with
    | .unpopulated => .none
    | .regs off => .reg off
    | _ => match regionOf hw (a + k - 1) with
      | .unpopulated => .none
      | .regs _ => .none
      | _ => .mem

/-- KC's accesses are background requests (R17): the accesses `todo` of step `i` of the instruction under way, and `k` once they are served.
Until then the instruction waits, and the command that executes it again goes on with it. -/
def kcAsk (i : Nat) (todo : List BgAcc) (hw : Hw) (k : BgReq → Hw → Hw) : Hw :=
  let h := if bgWaits hw (.kc i) then hw else bgArrive (bgNew hw 0x18 todo (.kc i)) hw
  match bgDone h (.kc i) with
  | some b => k b (bgDrop (.kc i) h)
  | none => h

/-- The result of a register access of a width that the register space does not answer: refused at KC, a free value (R6; log entry 19). -/
def kcWrongWidth (k : Nat) (hw : Hw) : List Byte × Hw := (leBytes (Config.freeNat hw.free) k, refuse 0x18 hw.draw)

/-- A read by KC in step `i` of its instruction: `k` gets the bytes, or none for a data-access error (R190, R196). A register answers 32-bit
accesses (R6), one access a cycle (R523). -/
def kcRead (i a n : Nat) (hw : Hw) (k : Option (List Byte) → Hw → Hw) : Hw :=
  match kcPlace hw a n with
  | .none => k none hw
  | .reg off =>
    if n = 4 ∧ off % 4 = 0 then
      kcAsk i [.rd a 4] hw (fun _ h =>
        let r := readRegister 0x18 off h
        k (some (leBytes r.1.toNat 4)) r.2)
    else
      (let r := kcWrongWidth n hw
       k (some r.1) r.2)
  | .mem => kcAsk i (readAccs hw a n) hw (fun b h => k (if b.bad.isSome then none else some b.got) h)

/-- A write that a bad word refuses raises its class at KC (R197). -/
def kcWriteBad (b : BgReq) (hw : Hw) : Hw :=
  match b.bad with
  | some e => raise { cls := badClass (physOf hw e), sev := 2, unit := 0x18, q := .none, addr := e } hw
  | none => hw

/-- A write by KC in step `i` of its instruction, at a place that R190 allows. -/
def kcWrite (i a : Nat) (l : List Byte) (hw : Hw) (k : Hw → Hw) : Hw :=
  match kcPlace hw a l.length with
  | .none => k hw
  | .reg off =>
    if l.length = 4 ∧ off % 4 = 0 then
      kcAsk i [.rd a 4] hw (fun _ h => writeRegister .kc off (BitVec.ofNat 32 (leNat l)) (k h))
    else k (refuse 0x18 hw)
  | .mem => kcAsk i (writeAccs hw a l) hw (fun b h => k (kcWriteBad b h))

/-- The effective address of format M. -/
def kcEa (hw : Hw) (w : W32) : Nat := (kcGet hw (rs1Of w) + xImm (imm14Of w)).toNat

/-- A load: misaligned and failing accesses trap; the register is written and KC goes on. -/
def kcLoad (m : Mn) (k : Nat) (signed : Bool) (w : W32) (hw : Hw) : Hw :=
  kcIssue m w hw (fun hw =>
    let a := kcEa hw w
    if a % k ≠ 0 then kcFault 5 (some a) hw
    else kcRead 0 a k hw (fun r h => match r with
      | some l => kcSet (rdOf w) (xLoad l signed) (kcAdvance h)
      | none => kcFault 4 (some a) h))

/-- A store: KC goes on, and what a register's write starts follows. -/
def kcStore (m : Mn) (k : Nat) (w : W32) (hw : Hw) : Hw :=
  kcIssue m w hw (fun hw =>
    let a := kcEa hw w
    if a % k ≠ 0 then kcFault 5 (some a) hw
    else if kcPlace hw a k = .none then kcFault 4 (some a) hw
    else kcWrite 0 a (leBytes (kcGet hw (rdOf w)).toNat k) hw kcAdvance)

/-! ### Windows (R408–R410, R413) -/

/-- WPUSH. -/
def kcWpush (w : W32) (hw : Hw) : Hw :=
  kcIssue .wpush w hw (fun hw =>
    if kcInTrap hw then kcFault 3 none hw
    else if kcOcc hw = 7 then kcFault 1 none hw
    else
      let l7 := kcGet hw 23 - BitVec.ofNat 64 (8 * imm12Of w)
      kcSet 23 l7 (setWin (kcCur hw + 1) (kcOcc hw + 1) (kcSpilled hw) (kcAdvance hw)))

/-- WPOP. -/
def kcWpop (w : W32) (hw : Hw) : Hw :=
  kcIssue .wpop w hw (fun hw =>
    if kcInTrap hw then kcFault 3 none hw
    else if kcOcc hw ≤ 1 then kcFault (if kcSpilled hw ≠ 0 then 2 else 3) none hw
    else setWin (kcCur hw + 7) (kcOcc hw - 1) (kcSpilled hw) (kcAdvance hw))

/-- TRET: PIE to IE, ring window CUR, and KCP_TPC; a routine that was interrupted there goes on (R413, R418). -/
def kcTret (w : W32) (hw : Hw) : Hw :=
  kcIssue .tret w hw (fun hw =>
    if !kcInTrap hw then kcFault 3 none hw
    else
      let h := (hw.setFld KCP_TSTAT 1 1 (hw.fld KCP_TSTAT 2 1)).clrReg KCP_TSTAT 1
      h.modKc (fun k => { k with pc := hw.reg64 0xD00008, micro := nbit (hw.reg KCP_PROG).toNat 31 }))

/-- The 16 doublewords of a ring window's frame: locals, then ins. -/
def frameRegs (w : Nat) : List (Nat × Nat) := (List.range 8).map (fun i => (w, 16 + i)) ++ (List.range 8).map (fun i => (w, 8 + i))

def KCP_WSP : Nat := 0xD00038

/-- The 16 doubleword accesses of a spill or a fill whose stack stands in the register space: each is refused at KC (R6). -/
def frameRefused (hw : Hw) : Hw := (List.range 16).foldl (fun h _ => refuse 0x18 h) hw

/-- WSPILL. -/
def kcWspill (w : W32) (hw : Hw) : Hw :=
  kcIssue .wspill w hw (fun hw =>
    if !kcInTrap hw ∨ kcOcc hw ≤ 1 ∨ kcSpilled hw = 0xFFFF then kcFault 3 none hw
    else
      let old := (kcCur hw + 9 - kcOcc hw) % 8
      let a := (hw.reg64 KCP_WSP + 2 ^ 64 - 128) % 2 ^ 64
      let done (h : Hw) : Hw := setWin (kcCur hw) (kcOcc hw - 1) (kcSpilled hw + 1) ((kcAdvance h).setReg64 KCP_WSP a)
      match kcPlace hw a 128 with
      | .none => kcFault 4 (some a) hw
      | .reg _ => done (frameRefused hw)
      | .mem => kcWrite 0 a ((frameRegs old).flatMap (fun p => leBytes (kcWindow hw.kc p.1 p.2).toNat 8)) hw done)

/-- WFILL. What a refused access of the register space returns is a free value (R6; log entry 19). -/
def kcWfill (w : W32) (hw : Hw) : Hw :=
  kcIssue .wfill w hw (fun hw =>
    if !kcInTrap hw ∨ kcSpilled hw = 0 ∨ kcOcc hw = 7 then kcFault 3 none hw
    else
      let below := (kcCur hw + 8 - kcOcc hw) % 8
      let a := hw.reg64 KCP_WSP
      let done (l : List Byte) (h : Hw) : Hw :=
        let put (k : Kc) : Kc := ((frameRegs below).mapIdx (fun i p => (i, p))).foldl
          (fun k x => Kc.put x.2.1 x.2.2 (BitVec.ofNat 64 (leAt l (8 * x.1) 8)) k) k
        setWin (kcCur hw) (kcOcc hw + 1) (kcSpilled hw - 1) (((kcAdvance h).modKc put).setReg64 KCP_WSP ((a + 128) % 2 ^ 64))
      match kcPlace hw a 128 with
      | .reg _ => done (leBytes (Config.freeNat hw.free) 128) (frameRefused hw.draw)
      | _ => kcRead 0 a 128 hw (fun r h => match r with
        | none => kcFault 4 (some a) h
        | some l => done l h))

/-! ### Micro-routines (R417–R420) -/

/-- Progress of a routine in KCP_PROG. -/
def setProg (active : Bool) (routine count : Nat) (hw : Hw) : Hw :=
  hw.setReg KCP_PROG (BitVec.ofNat 32 (b2n active * 2 ^ 31 + routine % 8 * 2 ^ 28 + count % 2 ^ 25))

/-- Read words of the register space, or bytes of memory, for one element of BCOPY. -/
def readBlock : Nat → Nat → Hw → List Byte × Hw
  | 0, _, hw => ([], hw)
  | k + 1, off, hw =>
    let r := readRegister 0x18 off hw
    let t := readBlock k (off + 4) r.2
    (leBytes r.1.toNat 4 ++ t.1, t.2)

/-- Write words of the register space from bytes. -/
def writeBlock : Nat → Nat → List Byte → Hw → Hw
  | 0, _, _, hw => hw
  | k + 1, off, l, hw => writeBlock k (off + 4) (l.drop 4) (writeRegister .kc off (BitVec.ofNat 32 (leNat (l.take 4))) hw)

/-- What an element of a routine comes to: it is done, an access of it fails at an address, or it waits for its slots. -/
inductive MicroEnd where
  | done (hw : Hw)
  | fail (a : Nat) (hw : Hw)
  | wait (hw : Hw)

/-- The accesses `todo` of step `i` of an element, as `kcAsk` has them; `l` are bytes that the element has read before. -/
def microAsk (i : Nat) (l : List Byte) (todo : List BgAcc) (hw : Hw) (k : BgReq → Hw → MicroEnd) : MicroEnd :=
  let h := if bgWaits hw (.kc i) then hw else bgArrive { bgNew hw 0x18 todo (.kc i) with got := l } hw
  match bgDone h (.kc i) with
  | some b => k b (bgDrop (.kc i) h)
  | none => .wait h

/-- The write of an element's `n` bytes, which is step 1, has got its slots: registers take them now. -/
def microEnd (dst n : Nat) (b : BgReq) (hw : Hw) : MicroEnd :=
  match kcPlace hw dst n with
  | .reg off => .done (writeBlock (n / 4) off (b.got.take n) hw)
  | _ => .done (kcWriteBad b hw)

/-- The bytes that an element has read go to its destination, in step 1. -/
def microPut (dst : Nat) (l : List Byte) (hw : Hw) : MicroEnd :=
  match kcPlace hw dst l.length with
  | .reg _ => microAsk 1 l [.rd dst l.length] hw (microEnd dst l.length)
  | _ => microAsk 1 [] (writeAccs hw dst l) hw (microEnd dst l.length)

/-- One element of BCOPY: 64 bytes from `src` to `dst`, between memories one request that reads and then writes. -/
def bcopyElement (src dst : Nat) (hw : Hw) : MicroEnd :=
  if bgWaits hw (.kc 1) then microAsk 1 [] [] hw (microEnd dst 64)
  else if kcPlace hw src 64 = .none then .fail src hw
  else if kcPlace hw dst 64 = .none then .fail dst hw
  else match kcPlace hw src 64, kcPlace hw dst 64 with
    | .reg off, _ => microAsk 0 [] [.rd src 64] hw (fun _ h => let r := readBlock 16 off h; microPut dst r.1 r.2)
    | _, .mem => microAsk 0 [] (readAccs hw src 64 ++ copyAccs hw dst 64) hw (fun b h => if b.bad.isSome then .fail src h else .done h)
    | _, _ => microAsk 0 [] (readAccs hw src 64) hw (fun b h => if b.bad.isSome then .fail src h else microPut dst b.got h)

/-- The register that an entry of CSAVE's list names. -/
def csaveAddr (l : List Byte) : Nat := 0x4000000000 + 4 * (leNat l % 2 ^ 23)

/-- The register is read, and goes to the destination word. -/
def csaveGet (dst : Nat) (l : List Byte) (hw : Hw) : MicroEnd :=
  match kcPlace hw (csaveAddr l) 4 with
  | .reg off =>
    let r := readRegister 0x18 off hw
    microPut dst (leBytes r.1.toNat 4) r.2
  | _ => .fail (csaveAddr l) hw

/-- The read of that register is step 2. -/
def csaveMove (dst : Nat) (l : List Byte) (hw : Hw) : MicroEnd :=
  match kcPlace hw (csaveAddr l) 4 with
  | .reg _ => microAsk 2 l [.rd (csaveAddr l) 4] hw (fun b h => csaveGet dst (b.got.take 4) h)
  | _ => .fail (csaveAddr l) hw

/-- One element of CSAVE: the register named by the list's entry goes to the destination word. -/
def csaveElement (entry dst : Nat) (hw : Hw) : MicroEnd :=
  if bgWaits hw (.kc 1) then microAsk 1 [] [] hw (microEnd dst 4)
  else if bgWaits hw (.kc 2) then microAsk 2 [] [] hw (fun b h => csaveGet dst (b.got.take 4) h)
  else if kcPlace hw dst 4 = .none then .fail dst hw
  else match kcPlace hw entry 4 with
    | .none => .fail entry hw
    | .reg off => microAsk 0 [] [.rd entry 4] hw (fun _ h => let r := readRegister 0x18 off h; csaveMove dst (leBytes r.1.toNat 4) r.2)
    | .mem => microAsk 0 [] (readAccs hw entry 4) hw (fun b h => if b.bad.isSome then .fail entry h else csaveMove dst b.got h)

/-- Up to `steps` elements from COUNT on; at the last one the routine ends, at an error it traps at the boundary before the element
(R418, R419). -/
def microRun (routine total : Nat) (el : Nat → Hw → MicroEnd) : Nat → Hw → Hw
  | 0, hw => hw
  | s + 1, hw =>
    let k := hw.fld KCP_PROG 0 25
    match el k hw with
    | .fail a h => kcFault (if a % 4 = 0 then 4 else 5) (some a) h
    | .wait h => h
    | .done h =>
      let next := setProg true routine (k + 1) h
      if total ≤ k + 1 then kcAdvance (setProg false routine (k + 1) h)
      else if kcIrqDue next then next
      else microRun routine total el s next

/-- Start or resume a routine and perform up to `steps` elements; at an element boundary at which an interrupt is due, the interrupt is taken
first (R416, R418). -/
def microRoutine (m : Mn) (routine : Nat) (ok : Hw → Bool) (total : Hw → Nat) (el : Hw → Nat → Hw → MicroEnd) (w : W32) (steps : Nat)
    (hw : Hw) : Hw :=
  kcIssue m w hw (fun hw =>
    let go (h : Hw) : Hw := microRun routine (total hw) (el hw) steps (h.modKc (fun k => { k with micro := true }))
    if hw.kc.micro then go hw
    else if nbit (hw.reg KCP_PROG).toNat 31 ∨ !ok hw then kcFault 3 none hw
    else go (setProg true routine 0 hw))

/-- w.o0, w.o1 and w.o2. -/
def kcO (hw : Hw) (i : Nat) : Nat := (kcGet hw (24 + i)).toNat

/-- BCOPY. -/
def kcBcopy (w : W32) (steps : Nat) (hw : Hw) : Hw :=
  microRoutine .bcopy 1
    (fun h => decide (kcO h 0 % 64 = 0 ∧ kcO h 1 % 64 = 0 ∧ kcO h 2 % 64 = 0 ∧ 64 ≤ kcO h 2 ∧ kcO h 2 ≤ 2 ^ 30))
    (fun h => kcO h 2 / 64) (fun h0 k h => bcopyElement (kcO h0 1 + 64 * k) (kcO h0 0 + 64 * k) h) w steps hw

/-- CSAVE. -/
def kcCsave (w : W32) (steps : Nat) (hw : Hw) : Hw :=
  microRoutine .csave 2 (fun h => decide (1 ≤ kcO h 2 ∧ kcO h 2 ≤ 4096)) (fun h => kcO h 2)
    (fun h0 k h => if kcO h0 1 % 4 ≠ 0 then .fail (kcO h0 1 + 4 * k) h else if kcO h0 0 % 4 ≠ 0 then .fail (kcO h0 0 + 4 * k) h
      else csaveElement (kcO h0 1 + 4 * k) (kcO h0 0 + 4 * k) h) w steps hw

/-! ### WFI and KTRAP -/

/-- WFI: KC waits until an enabled source is pending; with none enabled it is illegal. -/
def kcWfi (w : W32) (hw : Hw) : Hw :=
  kcIssue .wfi w hw (fun hw =>
    if (List.range 4).all (fun i => decide (hw.reg (0xD00050 + 4 * i) = 0#32)) then kcFault 3 none hw
    else kcWake ((kcAdvance hw).modKc (fun k => { k with wfi := true })))

/-- KTRAP: cause 0x06, with the next instruction as the return address. -/
def kcKtrap (w : W32) (hw : Hw) : Hw :=
  kcIssue .ktrap w hw (fun hw => kcTrap 6 ((hw.kc.pc + 4) % 2 ^ 64) none none (some (imm12Of w)) hw)

end Sys2Proof.Machine
end

