-- ==== Sys2Proof/Machine/Notice.lean ====
section
/-!
DEFINITION. What every command's effect ends with, whatever the command: the meter looks at the cycles that are over (R271), the
edge sources of KC's interrupts see what has changed (R416), firmware notes the ledger points that follow from a change (R439), a request
for a power state whose conditions have ceased to hold lapses (R472), WFI ends (R416), a cluster that has accepted OFF sends nothing (R475), and the sparse tables stand in their one canonical form.
-/
namespace Sys2Proof.Machine

/-- The meter looks at the cycles that are over: those before the one a command reached (R271). -/
def meterNotice (a b : Hw) : Hw := if a.now < b.now then meterTo (b.now - 1) b else b

/-- A reset took effect between `a` and `b`: nothing is told of what it changed. -/
def wasReset (a b : Hw) : Bool :=
  (decide (cluState b ≠ cluState a) && (decide (cluState b = 1) || (decide (cluState b = 3) && decide (cluState a ≠ 2)))) ||
  (a.kc.on && !b.kc.on)

/-- IDLE, STOPPED_FAULT or STOPPED_REQ. -/
def atStop (s : UState) : Bool :=
  match s with
  | .idle | .stoppedFault | .stoppedReq => true
  | _ => false

/-- A unit entered IDLE, STOPPED_FAULT or STOPPED_REQ (R416). -/
def entered (x y : UState) : Bool := decide (y ≠ x) && atStop y

/-- Mesh ports or far channels that changed state. -/
def linkChanged (a b : Hw) : Bool :=
  (List.range 4).any (fun p => decide (portState a p ≠ portState b p)) ||
  (List.range 32).any (fun c => decide (chanState a c ≠ chanState b c))

/-- The edge sources of R416 whose event is a change of state. -/
def noticeSources (a b : Hw) : List Nat :=
  (if a.clk.slow ≠ b.clk.slow then [0x06] else []) ++
  (if linkChanged a b then [0x0B] else []) ++
  (if (!a.bmc.swapped && b.bmc.swapped) || (a.bmc.busy && !b.bmc.busy) then [0x0C] else []) ++
  ((List.finRange 8).filter (fun n => entered (a.core n).st (b.core n).st)).map (fun n => 0x10 + n.val) ++
  (if (List.range 64).any (fun c => entered (a.car c).st (b.car c).st) then [0x18] else []) ++
  (if !a.hold.held && b.hold.held then [0x19] else [])

/-- The ledger points of R439 that follow from a change of state: peer lost, slow-exact entry and exit, epoch applied. -/
def noticePoints (a b : Hw) : List Nat :=
  if !fwRuns b then []
  else
    ((List.range 4).filter (fun p => decide (portState b p = 3 ∧ portState a p ≠ 3))).map (fun _ => 0xC0) ++
    ((List.range 32).filter (fun c => decide (chanState b c = 3 ∧ chanState a c ≠ 3))).map (fun _ => 0xC0) ++
    (if a.clk.slow ≠ b.clk.slow then [if b.clk.slow then 0x88 else 0x89] else []) ++
    (if nbit (a.reg 0xD0018C).toNat 0 && !nbit (b.reg 0xD0018C).toNat 0 && nbit (b.reg 0xD0018C).toNat 1 then [0xA4] else [])

/-- Interrupt sources and ledger points of what changed from `a` to `b`; the rows that waited for the end of a rebuild are retired (R487). -/
def noticeChange (a b : Hw) : Hw :=
  if wasReset a b then b
  else
    let h := (noticePoints a b).foldl (fun h p => ledger p h) ((noticeSources a b).foldl (fun h i => irq i h) b)
    if a.bmc.busy && !b.bmc.busy then retireNext h else h

/-- A cluster that has accepted OFF sends nothing on any port, and drives every output to its inactive level (R475). -/
def muteOff (hw : Hw) : Hw := if offAccepted hw then { hw with out := [] } else hw

/-- A sparse table in its canonical form: itself where it has it; what a key reads as never changes. -/
def canonTab {α : Type} [DecidableEq α] (d : Nat → α) (l : List (Nat × α)) : List (Nat × α) :=
  if tabWf d l then l else l.foldr (fun p t => tabPut d p.1 p.2 t) []

/-- Memory, the stored registers, the remap tables and the semaphores in their canonical form. -/
def canonTables (hw : Hw) : Hw :=
  { hw with
    mem := canonTab memReset hw.mem
    regs := canonTab regReset hw.regs
    active := canonTab (fun _ => 0) hw.active
    shadow := canonTab (fun _ => 0) hw.shadow
    sync := { hw.sync with vals := canonTab (fun _ => 0) hw.sync.vals } }

/-- What a command's effect, which took the hardware from `a` to `b`, ends with. -/
def finish (a b : Hw) : Hw := canonTables (muteOff (kcWake (noticeChange a (powerLapse (meterNotice a b)))))

/-- A command's whole effect on the hardware: what the command before sent out is gone from the pins. -/
def effect (f : Hw → Hw) (hw : Hw) : Hw := finish hw (f { hw with out := [] })

end Sys2Proof.Machine
end

