-- ==== Sys2Proof/Machine/State.lean ====
section
/-!
DEFINITION. The state of the block: the queue of waiting commands, first in, first out, and the hardware (`Hw`); the state after reset;
and the reasons a step may stop.
-/
namespace Sys2Proof.Machine

/-- Everything the cluster holds, and the commands that wait. -/
structure State where
  pending : List Instr
  hw : Hw
deriving DecidableEq, Repr

/-- Why a command could end in a fault: there is no such reason. The spec gives every command of the table an effect or an error that the
hardware records and goes on from, so no meaning raises one (nothing to be safe or unsafe about). -/
inductive Fault where
deriving DecidableEq, Repr

/-- Why a command could be refused. -/
inductive Refusal where
  /-- Raised by an arm of `exec` whose command has no meaning yet; no arm is one at present. Safe: no claim about the command can be
  proved from it. -/
  | notModelled (mnemonic : String)
deriving DecidableEq, Repr

/-- The machine right after reset: PORST_N low, nothing sampled, nothing waiting. -/
def State.reset : State := { pending := [], hw := hwCold }

end Sys2Proof.Machine
end

