-- ==== Sys2Proof/Machine/Run.lean ====
section
/-!
DEFINITION. What every meaning calls: a command's effect on the hardware as a next state, and the rows that two kinds of unit share.
-/
namespace Sys2Proof.Machine

/-- The next state of a command whose effect on the hardware is `f`. -/
def run (f : Hw → Hw) (s : State) : Host.Outcome State Fault Refusal := .next { s with hw := effect f s.hw }

/-- A scalar instruction as its issuer executes it (R406). -/
def byIssuer (x : Issuer) (core : Fin 8 → W32 → Hw → Hw) (kc : W32 → Hw → Hw) (w : W32) : Hw → Hw :=
  match x with
  | .core n => core n w
  | .kc => kc w

/-- The row LDB: a scalar load of one signed byte, or the carrel command LDB (R88, R247). -/
def ldbEffect (i : LdbIssue) : Hw → Hw :=
  match i with
  | .scalar x w => byIssuer x (fun n => coreLoad .ldb 1 true n) (kcLoad .ldb 1 true) w
  | .carrel c r => carLdb c r

end Sys2Proof.Machine
end

