-- ==== Sys2Proof/Machine/ArrayRows.lean ====
section
/-!
DEFINITION. The rows of folios, the matrix array, read-outs and sends (R113–R187).
-/
namespace Sys2Proof.Machine

/-- FCFG (R113): configure a folio's role, format and shape. -/
def execFcfg (n : Fin 8) (w : W32) (s : State) : Host.Outcome State Fault Refusal :=
  run (coreFcfg n w) s

/-- FLD (R121): load a folio from memory with conversion. -/
def execFld (n : Fin 8) (w : W32) (s : State) : Host.Outcome State Fault Refusal :=
  run (coreFload .fld false n w) s

/-- FLDX (R121): load a folio's exponent strip. -/
def execFldx (n : Fin 8) (w : W32) (s : State) : Host.Outcome State Fault Refusal :=
  run (coreFload .fldx true n w) s

/-- FST (R122): store a folio to memory with conversion. -/
def execFst (n : Fin 8) (w : W32) (s : State) : Host.Outcome State Fault Refusal :=
  run (coreFstore .fst false n w) s

/-- FSTX (R122): store a folio's exponent strip. -/
def execFstx (n : Fin 8) (w : W32) (s : State) : Host.Outcome State Fault Refusal :=
  run (coreFstore .fstx true n w) s

/-- FOLIO_LAND (R121): folio data or strip lands. -/
def execFolioLand (n : Fin 8) (s : State) : Host.Outcome State Fault Refusal :=
  run (folioLand n) s

/-- FREL (R125): release folios named in the mask. -/
def execFrel (n : Fin 8) (w : W32) (s : State) : Host.Outcome State Fault Refusal :=
  run (coreFrel n w) s

/-- FSAVE (R149): save array state to a save area. -/
def execFsave (n : Fin 8) (w : W32) (s : State) : Host.Outcome State Fault Refusal :=
  run (coreFsave n w) s

/-- FRSTR (R150): restore array state from a save area. -/
def execFrstr (n : Fin 8) (w : W32) (s : State) : Host.Outcome State Fault Refusal :=
  run (coreFrstr n w) s

/-- FRSM (R146): relaunch a halted array operation. -/
def execFrsm (n : Fin 8) (w : W32) (s : State) : Host.Outcome State Fault Refusal :=
  run (coreFrsm n w) s

/-- MMA (R131): single-accumulator matrix multiply-accumulate. -/
def execMma (n : Fin 8) (w : W32) (s : State) : Host.Outcome State Fault Refusal :=
  run (coreMma .mma n w) s

/-- MMA_DUAL (R135): dual-accumulator matrix multiply. -/
def execMmaDual (n : Fin 8) (w : W32) (s : State) : Host.Outcome State Fault Refusal :=
  run (coreMma .mmaDual n w) s

/-- MMA_SEQUENCE (R139): launch a run of sequencer entries. -/
def execMmaSequence (n : Fin 8) (w : W32) (s : State) : Host.Outcome State Fault Refusal :=
  run (coreMmaSeq n w) s

/-- SEQ_ENTRY_START (R140): sequencer begins an entry at its B_e. -/
def execSeqEntryStart (n : Fin 8) (s : State) : Host.Outcome State Fault Refusal :=
  run (seqEntryStart n) s

/-- MMAC (R178): chained read-out into an operand folio then multiply. -/
def execMmac (n : Fin 8) (w : W32) (s : State) : Host.Outcome State Fault Refusal :=
  run (coreMmac n w) s

/-- MMAC_MMA_PART (R179): MMA part of an MMAC begins at c_m. -/
def execMmacMmaPart (n : Fin 8) (s : State) : Host.Outcome State Fault Refusal :=
  run (mmacPart n) s

/-- MMA_RESULT_LAND (R131): array result lands in its bank. -/
def execMmaResultLand (n : Fin 8) (s : State) : Host.Outcome State Fault Refusal :=
  run (mmaLand n) s

/-- ARD (R136): read out an accumulator bank through an epilogue. -/
def execArd (n : Fin 8) (w : W32) (s : State) : Host.Outcome State Fault Refusal :=
  run (coreArd n w) s

/-- CHN (R154): load a chain descriptor into a slot. -/
def execChn (n : Fin 8) (w : W32) (s : State) : Host.Outcome State Fault Refusal :=
  run (coreChn n w) s

/-- SEND_ACK (R175): destination acknowledges a sent tile; DSEM then LSEM signalled. -/
def execSendAck (n : Fin 8) (s : State) : Host.Outcome State Fault Refusal :=
  run (sendAck n) s

/-- SEND_FAIL (R176): send ends PEER_LOST or PEER_FENCED. -/
def execSendFail (n : Fin 8) (fenced : Bool) (s : State) : Host.Outcome State Fault Refusal :=
  run (sendFailed n fenced) s

/-- ARRAY_SKEW_PARITY (R144): skew-register parity error discards step and stops core. -/
def execArraySkewParity (n : Fin 8) (idx : Nat) (s : State) : Host.Outcome State Fault Refusal :=
  run (skewParity n idx) s

/-- SKEW_SCRUB_DONE (R145): skew reload ends and array enters STALLED. -/
def execSkewScrubDone (n : Fin 8) (pass : Bool) (s : State) : Host.Outcome State Fault Refusal :=
  run (skewScrubDone n pass) s

/-- ARRAY_HALT (R143): array halts after the step in progress on a core STOP. -/
def execArrayHalt (n : Fin 8) (s : State) : Host.Outcome State Fault Refusal :=
  run (arrayHalt n) s

/-- CANCEL (R147): write of CORE_ACTL.CANCEL returns stalled array to IDLE. -/
def execCancel (n : Fin 8) (u : Writer) (s : State) : Host.Outcome State Fault Refusal :=
  run (byCoreWriter n 0x100 u (cancelArray n)) s

/-- ASEQ_WRITE (R141): write to CORE_ASEQ, refused while the array is active. -/
def execAseqWrite (n : Fin 8) (j : Fin 16) (u : Writer) (v : W32) (s : State) : Host.Outcome State Fault Refusal :=
  run (byCoreWriter n (0x200 + 4 * j.val) u (aseqWrite n j u.unit v)) s

end Sys2Proof.Machine
end

