-- ==== Sys2Proof/Machine/CarrelRows.lean ====
section
/-!
DEFINITION. The rows of the carrel engines and the bonded memory (R219–R252).
-/
namespace Sys2Proof.Machine

/-- CAR_ARM (R229): write of CAR_CTL.ARM arms a carrel start. -/
def execCarArm (c : Fin 64) (u : Writer) (s : State) : Host.Outcome State Fault Refusal :=
  run (byWriter u (carArm c u)) s

/-- CAR_STOP (R229): write of CAR_CTL.STOP stops at a command boundary. -/
def execCarStop (c : Fin 64) (u : Writer) (s : State) : Host.Outcome State Fault Refusal :=
  run (byWriter u (carStop c)) s

/-- CAR_GO (R229): armed carrel starts its list at CAR_GOFRAME. -/
def execCarGo (c : Fin 64) (s : State) : Host.Outcome State Fault Refusal :=
  run (carGo c) s

/-- DOT (R240): carrel matrix-vector product. -/
def execDot (c : Fin 64) (r : CarRec) (s : State) : Host.Outcome State Fault Refusal :=
  run (carCmd 0x01 c r) s

/-- AXPY (R231): carrel binary32 y := a x + y. -/
def execAxpy (c : Fin 64) (r : CarRec) (s : State) : Host.Outcome State Fault Refusal :=
  run (carCmd 0x02 c r) s

/-- SCALE (R231): carrel binary32 scale and shift. -/
def execScale (c : Fin 64) (r : CarRec) (s : State) : Host.Outcome State Fault Refusal :=
  run (carCmd 0x03 c r) s

/-- REDUCE (R242): carrel sum or max reduction. -/
def execReduce (c : Fin 64) (r : CarRec) (s : State) : Host.Outcome State Fault Refusal :=
  run (carCmd 0x04 c r) s

/-- OPT (R241): carrel in-place optimiser update. -/
def execOpt (c : Fin 64) (r : CarRec) (s : State) : Host.Outcome State Fault Refusal :=
  run (carCmd 0x05 c r) s

/-- RERANGE (R231): carrel conversion to RH16 carrel format. -/
def execRerange (c : Fin 64) (r : CarRec) (s : State) : Host.Outcome State Fault Refusal :=
  run (carCmd 0x06 c r) s

/-- GATHER (R246): carrel gathers indexed units. -/
def execGather (c : Fin 64) (r : CarRec) (s : State) : Host.Outcome State Fault Refusal :=
  run (carCmd 0x07 c r) s

/-- SCATTER (R246): carrel scatters indexed units. -/
def execScatter (c : Fin 64) (r : CarRec) (s : State) : Host.Outcome State Fault Refusal :=
  run (carCmd 0x08 c r) s

/-- CSUM (R245): carrel CRC-32C over a range. -/
def execCsum (c : Fin 64) (r : CarRec) (s : State) : Host.Outcome State Fault Refusal :=
  run (carCmd 0x09 c r) s

/-- TOPK (R243): carrel top-k selection. -/
def execTopk (c : Fin 64) (r : CarRec) (s : State) : Host.Outcome State Fault Refusal :=
  run (carCmd 0x0A c r) s

/-- ATOM (R244): carrel atomic read-modify-write list. -/
def execAtom (c : Fin 64) (r : CarRec) (s : State) : Host.Outcome State Fault Refusal :=
  run (carAtomCmd c r) s

/-- MOVE (R231): carrel move between group and scratch. -/
def execMove (c : Fin 64) (r : CarRec) (s : State) : Host.Outcome State Fault Refusal :=
  run (carCmd 0x0C c r) s

/-- LDV (R231): carrel loads a vector from CSM into scratch. -/
def execLdv (c : Fin 64) (r : CarRec) (s : State) : Host.Outcome State Fault Refusal :=
  run (carLdv c r) s

/-- STV (R231): carrel stores scratch to CSM. -/
def execStv (c : Fin 64) (r : CarRec) (s : State) : Host.Outcome State Fault Refusal :=
  run (carCmd 0x12 c r) s

/-- SIG (R237): carrel signals a semaphore. -/
def execSig (c : Fin 64) (r : CarRec) (s : State) : Host.Outcome State Fault Refusal :=
  run (carSig c r) s

/-- SWT (R237): carrel begins a blocking semaphore wait. -/
def execSwt (c : Fin 64) (r : CarRec) (s : State) : Host.Outcome State Fault Refusal :=
  run (carSwt c r) s

/-- SWT_TAKE (R237): waiting carrel takes and sets its anchor. -/
def execSwtTake (c : Fin 64) (s : State) : Host.Outcome State Fault Refusal :=
  run (swtTake c) s

/-- BAR (R326): carrel arrives at a barrier. -/
def execBar (c : Fin 64) (r : CarRec) (s : State) : Host.Outcome State Fault Refusal :=
  run (carBar c r) s

/-- END (R238): carrel list ends; IDLE after earlier commands complete. -/
def execEndList (c : Fin 64) (r : CarRec) (s : State) : Host.Outcome State Fault Refusal :=
  run (carEnd c r) s

/-- CARREL_BEAT_LOST (R219): carrel command loses a beat under R16 and stops. -/
def execCarrelBeatLost (c : Fin 64) (s : State) : Host.Outcome State Fault Refusal :=
  run (carBeatLost c) s

/-- REFRESH_PERIOD_START (R223): new refresh period latches cool or hot mode. -/
def execRefreshPeriodStart (s : State) : Host.Outcome State Fault Refusal :=
  run (refreshPeriod) s

/-- REFRESH_SLOT (R221): group refresh slot refreshes, scrubs and migrates. -/
def execRefreshSlot (g : Fin 64) (s : State) : Host.Outcome State Fault Refusal :=
  run (refreshSlot g) s

/-- REMAP_START (R248): BMC_REMAP_CTL.START schedules migrations. -/
def execRemapStart (u : Writer) (s : State) : Host.Outcome State Fault Refusal :=
  run (byWriter u (remapStart u)) s

/-- REMAP_ABORT (R252): BMC_REMAP_CTL.ABORT discards a rebuild. -/
def execRemapAbort (u : Writer) (s : State) : Host.Outcome State Fault Refusal :=
  run (byWriter u remapAbort) s

/-- REMAP_SWAP (R251): shadow tables become active at a frame boundary. -/
def execRemapSwap (s : State) : Host.Outcome State Fault Refusal :=
  run (remapSwap) s

/-- REMAP_COPY_DONE (R251): copy back into shadow tables ends; BUSY clears. -/
def execRemapCopyDone (s : State) : Host.Outcome State Fault Refusal :=
  run (remapCopyDone) s

/-- CARREL_COMMANDS_COMPLETE (R238): the last issued command of a carrel engine completes, so a STOPPING engine reads STOPPED_REQ and an engine past END reads IDLE. -/
def execCarrelCommandsComplete (c : Fin 64) (s : State) : Host.Outcome State Fault Refusal :=
  run (carComplete c) s

end Sys2Proof.Machine
end

