-- ==== Sys2Proof/Machine/ChipRows.lean ====
section
/-!
DEFINITION. The rows of faults and the archive, start-up, resets and power states (R210, R211, R441–R475, R482–R497, R504, R509, R521, R522).
-/
namespace Sys2Proof.Machine

/-- FLT_RAISE (R484): KC raises a fault record through FLT_RAISE_CTL.GO. -/
def execFltRaise (u : Writer) (s : State) : Host.Outcome State Fault Refusal :=
  run (byWriter u (fltRaise u)) s

/-- RECORD_RING_WRITE (R482): queued record written to the fault ring and interrupt raised. -/
def execRecordRingWrite (s : State) : Host.Outcome State Fault Refusal :=
  run (recordRingWrite) s

/-- ARCHIVE_LIMIT_EXPIRY (R495): ARCHIVING lasts FLT_ARC_LIMIT frames and ends in FAILED. -/
def execArchiveLimitExpiry (s : State) : Host.Outcome State Fault Refusal :=
  run (archiveLimit) s

/-- BM_SUPPLY_TRIP (R509): stack supply monitor trips and raises BM_PWRFAIL. -/
def execBmSupplyTrip (s : State) : Host.Outcome State Fault Refusal :=
  run (supplyTrip) s

/-- CLU_STATE_SET (R463): KC requests a cluster state transition. -/
def execCluStateSet (u : Writer) (v : W32) (s : State) : Host.Outcome State Fault Refusal :=
  run (byWriter u (cluStateSet u v)) s

/-- PORST_N_RISE (R441): cold reset release samples straps. -/
def execPorstNRise (straps : W32) (s : State) : Host.Outcome State Fault Refusal :=
  run (porstRise straps) s

/-- PLL_LOCK (R504): PLL reports lock on a REFSYNC edge; TIM_FRAME cleared. -/
def execPllLock (s : State) : Host.Outcome State Fault Refusal :=
  run (pllLock) s

/-- CHECKBIT_INIT_DONE (R522): SRAM check bits made valid after cold reset. -/
def execCheckbitInitDone (s : State) : Host.Outcome State Fault Refusal :=
  run (checkbitDone) s

/-- CAT_GRANT (R451): CAT_GNT rises and catalogue reads begin. -/
def execCatGrant (s : State) : Host.Outcome State Fault Refusal :=
  run (catGrant) s

/-- CAT_GRANT_TIMEOUT (R451): no grant 20 ms after lock publishes cause 0x07. -/
def execCatGrantTimeout (s : State) : Host.Outcome State Fault Refusal :=
  run (catTimeout) s

/-- CATALOGUE_READ_DONE (R457): record read, checked and applied; what the flash holds: its SFDP table, the directory and the record. -/
def execCatalogueReadDone (sfdp : List Byte) (dir : List Byte) (record : List Byte) (s : State) : Host.Outcome State Fault Refusal :=
  run (catalogueRead sfdp dir record) s

/-- CAT_LOAD (R459): write of CAT_CTL.LOAD takes a host-supplied record. -/
def execCatLoad (u : Writer) (s : State) : Host.Outcome State Fault Refusal :=
  run (byWriter u (catLoad u)) s

/-- TRAINING_DONE (R460): BM training, repair and zeroing end in HELD; `failed`: a physical group that failed training. -/
def execTrainingDone (failed : Option Nat) (s : State) : Host.Outcome State Fault Refusal :=
  run (trainingDone failed) s

/-- BIST_DONE (R521): built-in self-test writes its record; what the self-test found: bytes 0x04–0x1F of its record, and the repair entries. -/
def execBistDone (head : List Byte) (ents : List Byte) (s : State) : Host.Outcome State Fault Refusal :=
  run (bistDone head ents) s

/-- COLD_RESET (R465): write of CLK_RST_CTL.COLD with key. -/
def execColdReset (u : Writer) (v : W32) (s : State) : Host.Outcome State Fault Refusal :=
  run (byWriter u (coldWrite u v)) s

/-- WARM_RESET (R210): write of CLK_RST_CTL.WARM starts draining. -/
def execWarmReset (u : Writer) (s : State) : Host.Outcome State Fault Refusal :=
  run (byWriter u (warmReset u)) s

/-- WARM_RESET_EFFECT (R210): write buffers empty and warm reset takes effect. -/
def execWarmResetEffect (s : State) : Host.Outcome State Fault Refusal :=
  run (warmEffect) s

/-- WARM_RESET_TIMEOUT (R210): drain not done in 2 us becomes a forced reset. -/
def execWarmResetTimeout (s : State) : Host.Outcome State Fault Refusal :=
  run (warmTimeout) s

/-- FORCED_RESET (R211): write of CLK_RST_CTL.FORCE resets at once. -/
def execForcedReset (u : Writer) (s : State) : Host.Outcome State Fault Refusal :=
  run (byWriter u (forcedReset u)) s

/-- CORE_RESET (R468): write of CLK_CORE_RST resets one core. -/
def execCoreReset (n : Fin 8) (u : Writer) (s : State) : Host.Outcome State Fault Refusal :=
  run (byWriter u (coreRst n u)) s

/-- CORE_RESET_DONE (R468): per-core reset completes and BUSY clears. -/
def execCoreResetDone (n : Fin 8) (s : State) : Host.Outcome State Fault Refusal :=
  run (coreRstDone n) s

/-- PWR_REQ_ACTIVE (R474): request to return to ACTIVE. -/
def execPwrReqActive (u : Writer) (s : State) : Host.Outcome State Fault Refusal :=
  run (byWriter u (pwrActive u)) s

/-- PWR_REQ_IDLE (R470): request to enter IDLE. -/
def execPwrReqIdle (u : Writer) (s : State) : Host.Outcome State Fault Refusal :=
  run (byWriter u (pwrDown 1 u)) s

/-- PWR_REQ_SHELVED (R470): request to enter SHELVED. -/
def execPwrReqShelved (u : Writer) (s : State) : Host.Outcome State Fault Refusal :=
  run (byWriter u (pwrDown 2 u)) s

/-- PWR_REQ_OFF (R475): request to enter OFF. -/
def execPwrReqOff (u : Writer) (s : State) : Host.Outcome State Fault Refusal :=
  run (byWriter u (pwrDown 3 u)) s

/-- POWER_STATE_ENTER (R472): requested low-power state takes effect at a boundary. -/
def execPowerStateEnter (s : State) : Host.Outcome State Fault Refusal :=
  run (powerEnter) s

/-- SHELVED_EXIT (R474): exit from SHELVED completes at a refresh period start. -/
def execShelvedExit (s : State) : Host.Outcome State Fault Refusal :=
  run (shelvedExit) s

/-- PORST_N_LOW (R464): PORST_N is driven low and the cluster undergoes a cold reset, losing its state until release. -/
def execPorstNLow (s : State) : Host.Outcome State Fault Refusal :=
  run (porstLow) s

/-- IDLE_EXIT (R474): exit from the IDLE power state to ACTIVE completes, within 534 frames of its request. -/
def execIdleExit (s : State) : Host.Outcome State Fault Refusal :=
  run (idleExit) s

end Sys2Proof.Machine
end

