-- ==== Sys2Proof/Machine/ControlRows.lean ====
section
/-!
DEFINITION. The rows of the control core: its own instructions, interrupts, the watchdog, authentication, mailboxes, epochs, the power loop and live update (R406–R437, R514).
-/
namespace Sys2Proof.Machine

/-- WPUSH (R408): KC makes the next ring window current. -/
def execWpush (w : W32) (s : State) : Host.Outcome State Fault Refusal :=
  run (kcWpush w) s

/-- WPOP (R408): KC returns to the previous ring window. -/
def execWpop (w : W32) (s : State) : Host.Outcome State Fault Refusal :=
  run (kcWpop w) s

/-- TRET (R413): KC returns from the trap window. -/
def execTret (w : W32) (s : State) : Host.Outcome State Fault Refusal :=
  run (kcTret w) s

/-- WSPILL (R410): spill the oldest ring window to the spill stack. -/
def execWspill (w : W32) (s : State) : Host.Outcome State Fault Refusal :=
  run (kcWspill w) s

/-- WFILL (R410): fill a window back from the spill stack. -/
def execWfill (w : W32) (s : State) : Host.Outcome State Fault Refusal :=
  run (kcWfill w) s

/-- BCOPY (R417): restartable block copy in 64-byte elements; `steps`: the elements it performs before an interrupt or the bound of R418 ends the issue. -/
def execBcopy (w : W32) (steps : Nat) (s : State) : Host.Outcome State Fault Refusal :=
  run (kcBcopy w steps) s

/-- CSAVE (R417): restartable copy of listed control registers; `steps`: as BCOPY. -/
def execCsave (w : W32) (steps : Nat) (s : State) : Host.Outcome State Fault Refusal :=
  run (kcCsave w steps) s

/-- WFI (R416): KC waits with KCLK gated for an interrupt. -/
def execWfi (w : W32) (s : State) : Host.Outcome State Fault Refusal :=
  run (kcWfi w) s

/-- KTRAP (R412): KC takes trap cause 0x06. -/
def execKtrap (w : W32) (s : State) : Host.Outcome State Fault Refusal :=
  run (kcKtrap w) s

/-- KC_INTERRUPT (R416): KC takes the lowest pending enabled interrupt. -/
def execKcInterrupt (s : State) : Host.Outcome State Fault Refusal :=
  run (kcInterrupt) s

/-- KC_TIMER_MATCH (R416): TIM_FRAME reaches KCP_TIMER. -/
def execKcTimerMatch (s : State) : Host.Outcome State Fault Refusal :=
  run (kcTimer) s

/-- WDT_KICK (R431): write of the key restarts the watchdog period. -/
def execWdtKick (u : Writer) (v : W32) (s : State) : Host.Outcome State Fault Refusal :=
  run (byWriter u (wdtKick v)) s

/-- WATCHDOG_EXPIRY (R432): watchdog period ends without kick. -/
def execWatchdogExpiry (s : State) : Host.Outcome State Fault Refusal :=
  run (watchdogExpiry) s

/-- AUTH (R421): write of KCP_BOOT.AUTH starts image checks and hash. -/
def execAuth (u : Writer) (s : State) : Host.Outcome State Fault Refusal :=
  run (byWriter u (authStart u)) s

/-- HASH_DONE (R421): SHA-384 ends and AUTH_REQ is sent. -/
def execHashDone (s : State) : Host.Outcome State Fault Refusal :=
  run (hashDone) s

/-- AUTH_RESULT (R422): SEC verdict releases KC or fails the load. -/
def execAuthResult (s : State) : Host.Outcome State Fault Refusal :=
  run (authResult) s

/-- AUTH_TIMEOUT (R422): no SEC answer in 100 ms. -/
def execAuthTimeout (s : State) : Host.Outcome State Fault Refusal :=
  run (authTimeout) s

/-- MB_SEND (R423): firmware sends an outbound message. -/
def execMbSend (m : Fin 3) (u : Writer) (s : State) : Host.Outcome State Fault Refusal :=
  run (byWriter u (mbSend m u)) s

/-- MB_ACK (R423): firmware acknowledges an inbound message. -/
def execMbAck (m : Fin 3) (u : Writer) (s : State) : Host.Outcome State Fault Refusal :=
  run (byWriter u (mbAck m)) s

/-- SVC_SEND (R514): peer delivers an inbound message over the service port. -/
def execSvcSend (m : Fin 3) (ws : List W32) (s : State) : Host.Outcome State Fault Refusal :=
  run (svcSend m ws) s

/-- SVC_ACK (R514): peer acknowledges an outbound message. -/
def execSvcAck (m : Fin 3) (s : State) : Host.Outcome State Fault Refusal :=
  run (svcAck m) s

/-- BUDGET (R430): PMC budget message received. -/
def execBudget (s : State) : Host.Outcome State Fault Refusal :=
  run (mailBudget) s

/-- TEMP (R430): PMC temperature message received. -/
def execTemp (s : State) : Host.Outcome State Fault Refusal :=
  run (mailTemp) s

/-- SLOWHOLD (R430): PMC sets CLK_SLOW_CTL.HOLD. -/
def execSlowhold (s : State) : Host.Outcome State Fault Refusal :=
  run (mailSlowhold) s

/-- EPOCH (R425): SCH epoch message copied and armed. -/
def execEpoch (s : State) : Host.Outcome State Fault Refusal :=
  run (mailEpoch) s

/-- MB_BAR_REL (R330): SCH barrier release message. -/
def execMbBarRel (s : State) : Host.Outcome State Fault Refusal :=
  run (mailBarRel) s

/-- EPOCH_ARM (R425): write of KCP_EPOCH_CTL.ARM. -/
def execEpochArm (u : Writer) (s : State) : Host.Outcome State Fault Refusal :=
  run (byWriter u epochArm) s

/-- EPOCH_NOW (R426): write of KCP_EPOCH_CTL.NOW applies copies at once. -/
def execEpochNow (u : Writer) (s : State) : Host.Outcome State Fault Refusal :=
  run (byWriter u (epochNow u)) s

/-- POWER_LOOP_TICK (R430): 100 us firmware loop sets refresh mode and budget. -/
def execPowerLoopTick (s : State) : Host.Outcome State Fault Refusal :=
  run (powerLoop) s

/-- UPD_OPEN (R433): host opens the slot-1 staging window. -/
def execUpdOpen (u : Writer) (s : State) : Host.Outcome State Fault Refusal :=
  run (byWriter u (updOpen u)) s

/-- UPD_COMMIT (R434): host commits slot 1 for authentication. -/
def execUpdCommit (u : Writer) (s : State) : Host.Outcome State Fault Refusal :=
  run (byWriter u (updCommit u)) s

/-- UPD_SWITCH (R435): KC exchanges slots and enters the new image. -/
def execUpdSwitch (u : Writer) (s : State) : Host.Outcome State Fault Refusal :=
  run (byWriter u (updSwitch u)) s

/-- UPD_CONFIRM (R436): new firmware confirms the update. -/
def execUpdConfirm (u : Writer) (s : State) : Host.Outcome State Fault Refusal :=
  run (byWriter u (updConfirm u)) s

/-- UPD_REJECT (R436): new firmware rejects the handoff and rolls back. -/
def execUpdReject (u : Writer) (s : State) : Host.Outcome State Fault Refusal :=
  run (byWriter u (updReject u)) s

/-- UPD_ABANDON (R434): update abandoned before authentication passes. -/
def execUpdAbandon (u : Writer) (s : State) : Host.Outcome State Fault Refusal :=
  run (byWriter u (updAbandon u)) s

/-- UPD_CONFIRM_TIMEOUT (R436): 10 ms without CONFIRM rolls back. -/
def execUpdConfirmTimeout (s : State) : Host.Outcome State Fault Refusal :=
  run (updTimeout) s

end Sys2Proof.Machine
end

