-- ==== Sys2Proof/Machine/CoreRows.lean ====
section
/-!
DEFINITION. The rows of a compute core besides its arithmetic: semaphores, transfers, system instructions, the ends of loads and stores, starts and stops, and the maintenance of its caches (R84, R89, R100–R110, R204–R209, R297, R323, R324, R326).
-/
namespace Sys2Proof.Machine

/-- SSIG (R324): core signals a semaphore. -/
def execSsig (n : Fin 8) (w : W32) (s : State) : Host.Outcome State Fault Refusal :=
  run (coreSsig n w) s

/-- SWAIT (R101): core begins a blocking wait on a semaphore. -/
def execSwait (n : Fin 8) (w : W32) (s : State) : Host.Outcome State Fault Refusal :=
  run (coreSwait n w) s

/-- SWAIT_TAKE (R101): waiting core takes its count and resumes at the anchor frame. -/
def execSwaitTake (n : Fin 8) (s : State) : Host.Outcome State Fault Refusal :=
  run (swaitTake n) s

/-- STAKE (R323): non-blocking take with result in rd. -/
def execStake (n : Fin 8) (w : W32) (s : State) : Host.Outcome State Fault Refusal :=
  run (coreStake n w) s

/-- BARR (R326): core arrives at a barrier context. -/
def execBarr (n : Fin 8) (w : W32) (s : State) : Host.Outcome State Fault Refusal :=
  run (coreBarr n w) s

/-- TXQ (R297): core enqueues a transfer descriptor. -/
def execTxq (n : Fin 8) (w : W32) (s : State) : Host.Outcome State Fault Refusal :=
  run (coreTxq n w) s

/-- TRAP (R103): core enters its trap handler. -/
def execTrap (n : Fin 8) (w : W32) (s : State) : Host.Outcome State Fault Refusal :=
  run (coreTrap n w) s

/-- ERET (R103): core returns from its trap handler. -/
def execEret (n : Fin 8) (w : W32) (s : State) : Host.Outcome State Fault Refusal :=
  run (coreEret n w) s

/-- FENCE (R100): core holds issue until prior stores are acknowledged. -/
def execFence (n : Fin 8) (w : W32) (s : State) : Host.Outcome State Fault Refusal :=
  run (coreFence n w) s

/-- IDLE (R84): core suspends issue for imm12 cycles. -/
def execIdle (n : Fin 8) (w : W32) (s : State) : Host.Outcome State Fault Refusal :=
  run (coreIdle n w) s

/-- IDLE_EXPIRY (R84): IDLE count ends and issue resumes. -/
def execIdleExpiry (n : Fin 8) (s : State) : Host.Outcome State Fault Refusal :=
  run (idleExpiry n) s

/-- HALT (R109): core ends its work in the phase. -/
def execHalt (n : Fin 8) (w : W32) (s : State) : Host.Outcome State Fault Refusal :=
  run (coreHalt n w) s

/-- MFSR (R110): read a CORE register into rd. -/
def execMfsr (n : Fin 8) (w : W32) (s : State) : Host.Outcome State Fault Refusal :=
  run (coreMfsr n w) s

/-- MTSR (R110): write a CORE register with its access code. -/
def execMtsr (n : Fin 8) (w : W32) (s : State) : Host.Outcome State Fault Refusal :=
  run (coreMtsr n w) s

/-- RDFRM (R92): read TIM_FRAME into rd. -/
def execRdfrm (n : Fin 8) (w : W32) (s : State) : Host.Outcome State Fault Refusal :=
  run (coreRdfrm n w) s

/-- RDPOS (R92): read position within the frame into rd. -/
def execRdpos (n : Fin 8) (w : W32) (s : State) : Host.Outcome State Fault Refusal :=
  run (coreRdpos n w) s

/-- LOAD_RETURN (R106): load data returns; uncorrectable error stops the core. -/
def execLoadReturn (n : Fin 8) (s : State) : Host.Outcome State Fault Refusal :=
  run (loadReturn n) s

/-- STORE_ACK (R197): destination acknowledges a store; partial write to bad word faults. -/
def execStoreAck (n : Fin 8) (s : State) : Host.Outcome State Fault Refusal :=
  run (storeAck n) s

/-- STRIDE_PREFETCH (R204): prefetch request for learned stream served in a free slot. -/
def execStridePrefetch (n : Fin 8) (s : State) : Host.Outcome State Fault Refusal :=
  run (stridePrefetch n) s

/-- CORE_ARM (R107): write of CORE_CTL.ARM arms a start. -/
def execCoreArm (n : Fin 8) (u : Writer) (s : State) : Host.Outcome State Fault Refusal :=
  run (byCoreWriter n 0 u (coreArm n u.unit)) s

/-- CORE_STOP (R108): write of CORE_CTL.STOP stops issue. -/
def execCoreStop (n : Fin 8) (u : Writer) (s : State) : Host.Outcome State Fault Refusal :=
  run (byCoreWriter n 0 u (coreStop n)) s

/-- CORE_GO (R107): armed core starts at CORE_GOFRAME. -/
def execCoreGo (n : Fin 8) (s : State) : Host.Outcome State Fault Refusal :=
  run (coreGo n) s

/-- CORE_DRAIN_DONE (R108): stopping or halting core completes older instructions. -/
def execCoreDrainDone (n : Fin 8) (s : State) : Host.Outcome State Fault Refusal :=
  run (coreDrainDone n) s

/-- DINV (R208): range engine invalidates data-cache lines of a range. -/
def execDinv (n : Fin 8) (u : Writer) (s : State) : Host.Outcome State Fault Refusal :=
  run (byCoreWriter n 0x614 u (rangeGo 0 n u.unit)) s

/-- DCLEAN (R207): range engine waits for stores to a range to be acknowledged. -/
def execDclean (n : Fin 8) (u : Writer) (s : State) : Host.Outcome State Fault Refusal :=
  run (byCoreWriter n 0x614 u (rangeGo 1 n u.unit)) s

/-- DCLINV (R208): DCLEAN then DINV. -/
def execDclinv (n : Fin 8) (u : Writer) (s : State) : Host.Outcome State Fault Refusal :=
  run (byCoreWriter n 0x614 u (rangeGo 2 n u.unit)) s

/-- IPRELOAD (R205): copy code into the instruction cache. -/
def execIpreload (n : Fin 8) (u : Writer) (s : State) : Host.Outcome State Fault Refusal :=
  run (byCoreWriter n 0x614 u (rangeGo 3 n u.unit)) s

/-- IINV (R207): invalidate the instruction cache. -/
def execIinv (n : Fin 8) (u : Writer) (s : State) : Host.Outcome State Fault Refusal :=
  run (byCoreWriter n 0x614 u (rangeGo 4 n u.unit)) s

/-- RANGE_OP_DONE (R208): range operation ends; BUSY clears, DONE set. -/
def execRangeOpDone (n : Fin 8) (s : State) : Host.Outcome State Fault Refusal :=
  run (rangeDone n) s

/-- SW_INV_LINE (R209): invalidate one data-cache set and way. -/
def execSwInvLine (n : Fin 8) (u : Writer) (set : Fin 64) (way : Fin 8) (s : State) : Host.Outcome State Fault Refusal :=
  run (byCoreWriter n 0x630 u (swMaint 0 n u.unit set.val way.val)) s

/-- SW_INV_ALL (R209): invalidate the whole data cache. -/
def execSwInvAll (n : Fin 8) (u : Writer) (s : State) : Host.Outcome State Fault Refusal :=
  run (byCoreWriter n 0x630 u (swMaint 1 n u.unit 0 0)) s

/-- SW_READ_TAG (R209): copy one line's tag state into CORE_SWTAG. -/
def execSwReadTag (n : Fin 8) (u : Writer) (set : Fin 64) (way : Fin 8) (s : State) : Host.Outcome State Fault Refusal :=
  run (byCoreWriter n 0x630 u (swMaint 2 n u.unit set.val way.val)) s

/-- SW_INV_ILINE (R209): invalidate one instruction-cache line. -/
def execSwInvIline (n : Fin 8) (u : Writer) (set : Fin 64) (way : Fin 8) (s : State) : Host.Outcome State Fault Refusal :=
  run (byCoreWriter n 0x630 u (swMaint 3 n u.unit set.val way.val)) s

/-- SRAM_SCRUB_STEP (R195): SRAM scrubber reads and rewrites one line per bank; of the protected word at a storage key. -/
def execSramScrubStep (key : Nat) (s : State) : Host.Outcome State Fault Refusal :=
  run (sramScrub key) s

end Sys2Proof.Machine
end

