-- ==== Sys2Proof/Machine/DebugRows.lean ====
section
/-!
DEFINITION. The rows of debug, the test ports and plain register writes (R12, R500–R501, R518–R520).
-/
namespace Sys2Proof.Machine

/-- SNAP_ARM (R500): write of DBG_SNAP_CTL.ARM. -/
def execSnapArm (u : Writer) (s : State) : Host.Outcome State Fault Refusal :=
  run (byWriter u (snapArm u)) s

/-- SNAP_DISARM (R500): write of DBG_SNAP_CTL.DISARM. -/
def execSnapDisarm (u : Writer) (s : State) : Host.Outcome State Fault Refusal :=
  run (byWriter u snapDisarm) s

/-- DBG_SNAPSHOT (R501): snapshot of core and carrel positions at the frame. -/
def execDbgSnapshot (s : State) : Host.Outcome State Fault Refusal :=
  run (dbgSnapshot) s

/-- EXTEST (R520): TAP drives terminals from the boundary register. -/
def execExtest (s : State) : Host.Outcome State Fault Refusal :=
  run (tapExtest) s

/-- IDCODE (R518): TAP selects the IDCODE register; `mfr`: TEST_MFR. -/
def execIdcode (mfr : BitVec 11) (s : State) : Host.Outcome State Fault Refusal :=
  run (tapIdcode mfr) s

/-- SAMPLE_PRELOAD (R518): TAP samples or preloads the boundary register; `preload`: what is shifted into the boundary register, or none for SAMPLE. -/
def execSamplePreload (preload : Option Nat) (s : State) : Host.Outcome State Fault Refusal :=
  run (tapSample preload) s

/-- WRAPPER (R519): TAP takes control of the IEEE 1500 wrapper. -/
def execWrapper (s : State) : Host.Outcome State Fault Refusal :=
  run (tapWrapper) s

/-- BIST_RESULT (R518): TAP returns the self-test record head. -/
def execBistResult (s : State) : Host.Outcome State Fault Refusal :=
  run (tapBist) s

/-- BYPASS (R518): TAP selects the one-bit bypass. -/
def execBypass (s : State) : Host.Outcome State Fault Refusal :=
  run (tapBypass) s

/-- WS_BYPASS (R519): wrapper bypass instruction; `viaTap`: loaded through the TAP, else through the wrapper serial port. -/
def execWsBypass (viaTap : Bool) (s : State) : Host.Outcome State Fault Refusal :=
  run (wrapper 0 viaTap false) s

/-- WS_EXTEST (R520): wrapper external test isolating the macro; `viaTap`: loaded through the TAP, else through the wrapper serial port. -/
def execWsExtest (viaTap : Bool) (s : State) : Host.Outcome State Fault Refusal :=
  run (wrapper 1 viaTap true) s

/-- WS_INTEST_SCAN (R520): wrapper connects internal scan chains; `viaTap`: loaded through the TAP, else through the wrapper serial port. -/
def execWsIntestScan (viaTap : Bool) (s : State) : Host.Outcome State Fault Refusal :=
  run (wrapper 2 viaTap true) s

/-- WS_INTEST_RING (R520): wrapper tests the macro from the boundary register; `viaTap`: loaded through the TAP, else through the wrapper serial port. -/
def execWsIntestRing (viaTap : Bool) (s : State) : Host.Outcome State Fault Refusal :=
  run (wrapper 3 viaTap true) s

/-- REGISTER_WRITE (R12): write to a register with no row of its own, by access code; `width` bytes at address a. -/
def execRegisterWrite (u : Writer) (a : BitVec 41) (width : Nat) (v : W32) (s : State) : Host.Outcome State Fault Refusal :=
  run (byWriter u (registerWrite u a width v)) s

end Sys2Proof.Machine
end

