-- ==== Sys2Proof/Machine/PortRows.lean ====
section
/-!
DEFINITION. The rows of the mesh ports and far channels (R266, R268, R367–R404, R516).
-/
namespace Sys2Proof.Machine

/-- MESH_SLOT_DEPART (R266): slotted write departs in its reserved slot. -/
def execMeshSlotDepart (p : Fin 4) (s : State) : Host.Outcome State Fault Refusal :=
  run (meshSlotDepart p) s

/-- LINK_LATE (R268): far transaction not acknowledged within its bound. -/
def execLinkLate (c : Fin 32) (s : State) : Host.Outcome State Fault Refusal :=
  run (linkLate c) s

/-- MESH_WRITE (R370): received WRITE flits performed and acknowledged; the first flit and the others of one transaction. -/
def execMeshWrite (p : Fin 4) (f : Flit) (fl : List Flit) (s : State) : Host.Outcome State Fault Refusal :=
  run (meshIn 1 p (f :: fl)) s

/-- MESH_READ_REQ (R368): received read request answered with READ_DATA or ERROR; the first flit and the others of one transaction. -/
def execMeshReadReq (p : Fin 4) (f : Flit) (fl : List Flit) (s : State) : Host.Outcome State Fault Refusal :=
  run (meshIn 2 p (f :: fl)) s

/-- MESH_READ_DATA (R306): received read data written locally; the first flit and the others of one transaction. -/
def execMeshReadData (p : Fin 4) (f : Flit) (fl : List Flit) (s : State) : Host.Outcome State Fault Refusal :=
  run (meshIn 3 p (f :: fl)) s

/-- MESH_SIGNAL (R370): received remote signal applied and acknowledged; the first flit and the others of one transaction. -/
def execMeshSignal (p : Fin 4) (f : Flit) (fl : List Flit) (s : State) : Host.Outcome State Fault Refusal :=
  run (meshIn 4 p (f :: fl)) s

/-- MESH_ERROR (R308): received error response ends a transaction; the first flit and the others of one transaction. -/
def execMeshError (p : Fin 4) (f : Flit) (fl : List Flit) (s : State) : Host.Outcome State Fault Refusal :=
  run (meshIn 5 p (f :: fl)) s

/-- MESH_BAR_UP (R328): received barrier up-arrival flit; the first flit and the others of one transaction. -/
def execMeshBarUp (p : Fin 4) (f : Flit) (fl : List Flit) (s : State) : Host.Outcome State Fault Refusal :=
  run (meshIn 6 p (f :: fl)) s

/-- MESH_BAR_REL (R330): received barrier release flit; the first flit and the others of one transaction. -/
def execMeshBarRel (p : Fin 4) (f : Flit) (fl : List Flit) (s : State) : Host.Outcome State Fault Refusal :=
  run (meshIn 7 p (f :: fl)) s

/-- MNT_CREDIT (R371): received credit return. -/
def execMntCredit (p : Fin 4) (n : Nat) (slot : Bool) (s : State) : Host.Outcome State Fault Refusal :=
  run (mntCredit p n slot) s

/-- MNT_ACK (R370): received acknowledgement of a transaction. -/
def execMntAck (p : Fin 4) (txid : Nat) (status : Byte) (s : State) : Host.Outcome State Fault Refusal :=
  run (mntAck p txid status) s

/-- MNT_HEARTBEAT (R380): received heartbeat keeps or brings a port UP. -/
def execMntHeartbeat (p : Fin 4) (id : Nat) (s : State) : Host.Outcome State Fault Refusal :=
  run (mntHeartbeat p id) s

/-- MNT_ANNOUNCE (R381): received announce from a restarted partner. -/
def execMntAnnounce (p : Fin 4) (id : Nat) (s : State) : Host.Outcome State Fault Refusal :=
  run (mntAnnounce p id) s

/-- MNT_FENCE (R400): received fence notice from a peer. -/
def execMntFence (p : Fin 4) (id : Nat) (s : State) : Host.Outcome State Fault Refusal :=
  run (mntFence p id) s

/-- HEARTBEAT_TIMER (R379): port sends HEARTBEAT or ANNOUNCE every microsecond. -/
def execHeartbeatTimer (p : Fin 4) (s : State) : Host.Outcome State Fault Refusal :=
  run (heartbeatTimer p) s

/-- PORT_LOST (R381): eight silent intervals put a mesh port in LOST. -/
def execPortLost (p : Fin 4) (s : State) : Host.Outcome State Fault Refusal :=
  run (portSilent p) s

/-- MSH_HB_EN_WRITE (R380): write of MSH_HB_CTL.EN takes ports DOWN or ANNOUNCING. -/
def execMshHbEnWrite (u : Writer) (v : W32) (s : State) : Host.Outcome State Fault Refusal :=
  run (byWriter u (hbEnWrite v)) s

/-- FENCE_GO (R396): write of MSH_FENCE_CTL.GO starts fencing. -/
def execFenceGo (u : Writer) (v : W32) (s : State) : Host.Outcome State Fault Refusal :=
  run (byWriter u (fenceGo u v)) s

/-- FENCE_DRAIN_DONE (R398): units idle and queues parked; STEP 2 sends FENCE. -/
def execFenceDrainDone (s : State) : Host.Outcome State Fault Refusal :=
  run (fenceDrainDone) s

/-- FENCE_ACKS_DONE (R399): all far FENCEs acknowledged; STEP 3. -/
def execFenceAcksDone (s : State) : Host.Outcome State Fault Refusal :=
  run (fenceAcksDone) s

/-- LFC_WRITE (R386): received far WRITE packet performed; a packet: header beat, payload and CRC. -/
def execLfcWrite (c : Fin 32) (h : List Byte) (pl : List Byte) (crc : W32) (s : State) : Host.Outcome State Fault Refusal :=
  run (farIn 1 c (farHead h crc) pl) s

/-- LFC_READ_REQ (R386): received far read request queued; a packet: header beat, payload and CRC. -/
def execLfcReadReq (c : Fin 32) (h : List Byte) (pl : List Byte) (crc : W32) (s : State) : Host.Outcome State Fault Refusal :=
  run (farIn 2 c (farHead h crc) pl) s

/-- LFC_READ_DATA (R306): received far read data written locally; a packet: header beat, payload and CRC. -/
def execLfcReadData (c : Fin 32) (h : List Byte) (pl : List Byte) (crc : W32) (s : State) : Host.Outcome State Fault Refusal :=
  run (farIn 3 c (farHead h crc) pl) s

/-- LFC_SIGNAL (R386): received far signal applied; a packet: header beat, payload and CRC. -/
def execLfcSignal (c : Fin 32) (h : List Byte) (pl : List Byte) (crc : W32) (s : State) : Host.Outcome State Fault Refusal :=
  run (farIn 4 c (farHead h crc) pl) s

/-- LFC_ERROR (R308): received far error packet; a packet: header beat, payload and CRC. -/
def execLfcError (c : Fin 32) (h : List Byte) (pl : List Byte) (crc : W32) (s : State) : Host.Outcome State Fault Refusal :=
  run (farIn 5 c (farHead h crc) pl) s

/-- LFC_BAR_UP (R328): received far barrier up-arrival; a packet: header beat, payload and CRC. -/
def execLfcBarUp (c : Fin 32) (h : List Byte) (pl : List Byte) (crc : W32) (s : State) : Host.Outcome State Fault Refusal :=
  run (farIn 6 c (farHead h crc) pl) s

/-- LFC_BAR_REL (R330): received far barrier release; a packet: header beat, payload and CRC. -/
def execLfcBarRel (c : Fin 32) (h : List Byte) (pl : List Byte) (crc : W32) (s : State) : Host.Outcome State Fault Refusal :=
  run (farIn 7 c (farHead h crc) pl) s

/-- LFC_FENCE (R400): received far FENCE packet; a packet: header beat, payload and CRC. -/
def execLfcFence (c : Fin 32) (h : List Byte) (pl : List Byte) (crc : W32) (s : State) : Host.Outcome State Fault Refusal :=
  run (farIn 8 c (farHead h crc) pl) s

/-- LFC_ACK (R385): received acknowledgement packet; a packet: header beat, payload and CRC. -/
def execLfcAck (c : Fin 32) (h : List Byte) (pl : List Byte) (crc : W32) (s : State) : Host.Outcome State Fault Refusal :=
  run (farIn 0x10 c (farHead h crc) pl) s

/-- LFC_NAK (R391): received NAK triggers resend; a packet: header beat, payload and CRC. -/
def execLfcNak (c : Fin 32) (h : List Byte) (pl : List Byte) (crc : W32) (s : State) : Host.Outcome State Fault Refusal :=
  run (farIn 0x11 c (farHead h crc) pl) s

/-- LFC_KEEPALIVE (R393): received keep-alive packet; a packet: header beat, payload and CRC. -/
def execLfcKeepalive (c : Fin 32) (h : List Byte) (pl : List Byte) (crc : W32) (s : State) : Host.Outcome State Fault Refusal :=
  run (farIn 0x12 c (farHead h crc) pl) s

/-- LFC_ANNOUNCE (R403): received announce puts a channel in JOINING or LOST; a packet: header beat, payload and CRC. -/
def execLfcAnnounce (c : Fin 32) (h : List Byte) (pl : List Byte) (crc : W32) (s : State) : Host.Outcome State Fault Refusal :=
  run (farIn 0x13 c (farHead h crc) pl) s

/-- LFC_ACK_TIMER (R386): no outgoing packet within 8 frames sends an ACK. -/
def execLfcAckTimer (c : Fin 32) (s : State) : Host.Outcome State Fault Refusal :=
  run (lfcAckTimer c) s

/-- RTO_EXPIRY (R391): retransmission timeout resends unacknowledged packets. -/
def execRtoExpiry (c : Fin 32) (s : State) : Host.Outcome State Fault Refusal :=
  run (rtoExpiry c) s

/-- KEEPALIVE_TIMER (R392): idle channel sends KEEPALIVE. -/
def execKeepaliveTimer (c : Fin 32) (s : State) : Host.Outcome State Fault Refusal :=
  run (keepaliveTimer c) s

/-- FAR_CHANNEL_LOST (R393): silence or exhausted retries put a channel in LOST. -/
def execFarChannelLost (c : Fin 32) (s : State) : Host.Outcome State Fault Refusal :=
  run (farChannelLost c) s

/-- POOL_GRANT (R390): freed buffer granted to a waiting channel. -/
def execPoolGrant (s : State) : Host.Outcome State Fault Refusal :=
  run (poolGrant) s

/-- LINKUP_CHANGE (R516): FPn_LINKUP changes level. -/
def execLinkupChange (p : Fin 2) (up : Bool) (s : State) : Host.Outcome State Fault Refusal :=
  run (linkupChange p up) s

end Sys2Proof.Machine
end

