-- ==== Sys2Proof/Machine/QueueRows.lean ====
section
/-!
DEFINITION. The rows of the queue engine and of firmware's dispatch (R340–R366, R427–R429).
-/
namespace Sys2Proof.Machine

/-- QUE_SQDB (R348): doorbell sets a queue's SQ_TAIL. -/
def execQueSqdb (u : Writer) (v : W32) (s : State) : Host.Outcome State Fault Refusal :=
  run (byWriter u (queSqdb v)) s

/-- QUE_CQDB (R348): doorbell sets a queue's CQ_HEAD. -/
def execQueCqdb (u : Writer) (v : W32) (s : State) : Host.Outcome State Fault Refusal :=
  run (byWriter u (queCqdb v)) s

/-- QUE_ADMIN_CFG_WRITE (R366): write configures and enables q0. -/
def execQueAdminCfgWrite (u : Writer) (v : W32) (s : State) : Host.Outcome State Fault Refusal :=
  run (byWriter u (queAdminCfg u v)) s

/-- QUE_ATTACH (R365): driver reattach attempt with HSEQ. -/
def execQueAttach (u : Writer) (v : W32) (s : State) : Host.Outcome State Fault Refusal :=
  run (byWriter u (queAttach v)) s

/-- RUN (R351): firmware decides a RUN command and computes its promise. -/
def execRun (q : Fin 16384) (s : State) : Host.Outcome State Fault Refusal :=
  run (cmdRun q.val) s

/-- CMD_SIGNAL (R351): firmware decides a SIGNAL command. -/
def execCmdSignal (q : Fin 16384) (s : State) : Host.Outcome State Fault Refusal :=
  run (cmdSignal q.val) s

/-- QCREATE (R350): firmware decides a queue creation. -/
def execQcreate (q : Fin 16384) (s : State) : Host.Outcome State Fault Refusal :=
  run (cmdQcreate q.val) s

/-- QDESTROY (R350): firmware decides a queue destruction. -/
def execQdestroy (q : Fin 16384) (s : State) : Host.Outcome State Fault Refusal :=
  run (cmdQdestroy q.val) s

/-- PIN (R350): firmware decides a queue pin. -/
def execPin (q : Fin 16384) (s : State) : Host.Outcome State Fault Refusal :=
  run (cmdPin q.val) s

/-- UNPIN (R350): firmware decides a queue unpin. -/
def execUnpin (q : Fin 16384) (s : State) : Host.Outcome State Fault Refusal :=
  run (cmdUnpin q.val) s

/-- QUEUE_PAGE_IN (R343): victim saved and new context restored for residency. -/
def execQueuePageIn (q : Fin 16384) (s : State) : Host.Outcome State Fault Refusal :=
  run (queuePageIn q.val) s

/-- COMMAND_COMPLETE (R353): completion record written for an accepted command. -/
def execCommandComplete (q : Fin 16384) (s : State) : Host.Outcome State Fault Refusal :=
  run (commandComplete q.val) s

/-- DISPATCH_PHASE (R427): firmware prepares and arms the next phase; for the boundary at frame b. -/
def execDispatchPhase (b : Nat) (s : State) : Host.Outcome State Fault Refusal :=
  run (dispatchPhase b) s

/-- PHASE_END (R428): firmware finds every unit of a phase ended. -/
def execPhaseEnd (s : State) : Host.Outcome State Fault Refusal :=
  run (phaseEnd) s

/-- HEARTBEAT_SAMPLE (R362): firmware samples the heartbeat word. -/
def execHeartbeatSample (s : State) : Host.Outcome State Fault Refusal :=
  run (heartbeatSample) s

end Sys2Proof.Machine
end

