-- ==== Sys2Proof/Machine/Scalar.lean ====
section
/-!
DEFINITION. The rows of the scalar instructions (R82, R88, R92–R94, R201), which compute cores and KC share (R406).
-/
namespace Sys2Proof.Machine

/-- ADD (R92): scalar add of rs1 and rs2 into rd. -/
def execAdd (x : Issuer) (w : W32) (s : State) : Host.Outcome State Fault Refusal :=
  run (byIssuer x (fun n => coreRR .add 1 xAdd n) (kcRR .add xAdd) w) s

/-- SUB (R92): scalar subtract of rs2 from rs1 into rd. -/
def execSub (x : Issuer) (w : W32) (s : State) : Host.Outcome State Fault Refusal :=
  run (byIssuer x (fun n => coreRR .sub 1 xSub n) (kcRR .sub xSub) w) s

/-- AND (R92): scalar bitwise AND. -/
def execAnd (x : Issuer) (w : W32) (s : State) : Host.Outcome State Fault Refusal :=
  run (byIssuer x (fun n => coreRR .and 1 xAnd n) (kcRR .and xAnd) w) s

/-- OR (R92): scalar bitwise OR. -/
def execOr (x : Issuer) (w : W32) (s : State) : Host.Outcome State Fault Refusal :=
  run (byIssuer x (fun n => coreRR .or 1 xOr n) (kcRR .or xOr) w) s

/-- XOR (R92): scalar bitwise XOR. -/
def execXor (x : Issuer) (w : W32) (s : State) : Host.Outcome State Fault Refusal :=
  run (byIssuer x (fun n => coreRR .xor 1 xXor n) (kcRR .xor xXor) w) s

/-- SLL (R92): shift left logical by rs2[5:0]. -/
def execSll (x : Issuer) (w : W32) (s : State) : Host.Outcome State Fault Refusal :=
  run (byIssuer x (fun n => coreRR .sll 1 xSll n) (kcRR .sll xSll) w) s

/-- SRL (R92): shift right logical by rs2[5:0]. -/
def execSrl (x : Issuer) (w : W32) (s : State) : Host.Outcome State Fault Refusal :=
  run (byIssuer x (fun n => coreRR .srl 1 xSrl n) (kcRR .srl xSrl) w) s

/-- SRA (R92): shift right arithmetic by rs2[5:0]. -/
def execSra (x : Issuer) (w : W32) (s : State) : Host.Outcome State Fault Refusal :=
  run (byIssuer x (fun n => coreRR .sra 1 xSra n) (kcRR .sra xSra) w) s

/-- SLT (R92): set rd to 1 if rs1 is less than rs2, signed. -/
def execSlt (x : Issuer) (w : W32) (s : State) : Host.Outcome State Fault Refusal :=
  run (byIssuer x (fun n => coreRR .slt 1 xSlt n) (kcRR .slt xSlt) w) s

/-- SLTU (R92): set rd to 1 if rs1 is less than rs2, unsigned. -/
def execSltu (x : Issuer) (w : W32) (s : State) : Host.Outcome State Fault Refusal :=
  run (byIssuer x (fun n => coreRR .sltu 1 xSltu n) (kcRR .sltu xSltu) w) s

/-- MIN (R92): signed minimum. -/
def execMin (x : Issuer) (w : W32) (s : State) : Host.Outcome State Fault Refusal :=
  run (byIssuer x (fun n => coreRR .min 1 xMin n) (kcRR .min xMin) w) s

/-- MAX (R92): signed maximum. -/
def execMax (x : Issuer) (w : W32) (s : State) : Host.Outcome State Fault Refusal :=
  run (byIssuer x (fun n => coreRR .max 1 xMax n) (kcRR .max xMax) w) s

/-- MINU (R92): unsigned minimum. -/
def execMinu (x : Issuer) (w : W32) (s : State) : Host.Outcome State Fault Refusal :=
  run (byIssuer x (fun n => coreRR .minu 1 xMinu n) (kcRR .minu xMinu) w) s

/-- MAXU (R92): unsigned maximum. -/
def execMaxu (x : Issuer) (w : W32) (s : State) : Host.Outcome State Fault Refusal :=
  run (byIssuer x (fun n => coreRR .maxu 1 xMaxu n) (kcRR .maxu xMaxu) w) s

/-- ADDW (R92): 32-bit add, sign-extended. -/
def execAddw (x : Issuer) (w : W32) (s : State) : Host.Outcome State Fault Refusal :=
  run (byIssuer x (fun n => coreRR .addw 1 xAddw n) (kcRR .addw xAddw) w) s

/-- SUBW (R92): 32-bit subtract, sign-extended. -/
def execSubw (x : Issuer) (w : W32) (s : State) : Host.Outcome State Fault Refusal :=
  run (byIssuer x (fun n => coreRR .subw 1 xSubw n) (kcRR .subw xSubw) w) s

/-- JALR (R82): jump to rs1 with link in rd; target issues 3 cycles later. -/
def execJalr (x : Issuer) (w : W32) (s : State) : Host.Outcome State Fault Refusal :=
  run (byIssuer x (fun n => coreJalr n) (kcJalr) w) s

/-- ADDI (R92): add sign-extended imm13. -/
def execAddi (x : Issuer) (w : W32) (s : State) : Host.Outcome State Fault Refusal :=
  run (byIssuer x (fun n => coreRI .addi xAdd n) (kcRI .addi xAdd) w) s

/-- ANDI (R92): AND with sign-extended imm13. -/
def execAndi (x : Issuer) (w : W32) (s : State) : Host.Outcome State Fault Refusal :=
  run (byIssuer x (fun n => coreRI .andi xAnd n) (kcRI .andi xAnd) w) s

/-- ORI (R92): OR with sign-extended imm13. -/
def execOri (x : Issuer) (w : W32) (s : State) : Host.Outcome State Fault Refusal :=
  run (byIssuer x (fun n => coreRI .ori xOr n) (kcRI .ori xOr) w) s

/-- XORI (R92): XOR with sign-extended imm13. -/
def execXori (x : Issuer) (w : W32) (s : State) : Host.Outcome State Fault Refusal :=
  run (byIssuer x (fun n => coreRI .xori xXor n) (kcRI .xori xXor) w) s

/-- SLTI (R92): set if less than sign-extended imm13. -/
def execSlti (x : Issuer) (w : W32) (s : State) : Host.Outcome State Fault Refusal :=
  run (byIssuer x (fun n => coreRI .slti xSlt n) (kcRI .slti xSlt) w) s

/-- SLLI (R92): shift left logical by immediate. -/
def execSlli (x : Issuer) (w : W32) (s : State) : Host.Outcome State Fault Refusal :=
  run (byIssuer x (fun n => coreRI .slli xSll n) (kcRI .slli xSll) w) s

/-- SRLI (R92): shift right logical by immediate. -/
def execSrli (x : Issuer) (w : W32) (s : State) : Host.Outcome State Fault Refusal :=
  run (byIssuer x (fun n => coreRI .srli xSrl n) (kcRI .srli xSrl) w) s

/-- SRAI (R92): shift right arithmetic by immediate. -/
def execSrai (x : Issuer) (w : W32) (s : State) : Host.Outcome State Fault Refusal :=
  run (byIssuer x (fun n => coreRI .srai xSra n) (kcRI .srai xSra) w) s

/-- LDB (R88): load 8 bits sign-extended, fixed latency by memory; a scalar load, or the carrel command LDB, which the table gives the same name. -/
def execLdb (l : LdbIssue) (s : State) : Host.Outcome State Fault Refusal :=
  run (ldbEffect l) s

/-- LDH (R88): load 16 bits sign-extended. -/
def execLdh (x : Issuer) (w : W32) (s : State) : Host.Outcome State Fault Refusal :=
  run (byIssuer x (fun n => coreLoad .ldh 2 true n) (kcLoad .ldh 2 true) w) s

/-- LDW (R88): load 32 bits sign-extended. -/
def execLdw (x : Issuer) (w : W32) (s : State) : Host.Outcome State Fault Refusal :=
  run (byIssuer x (fun n => coreLoad .ldw 4 true n) (kcLoad .ldw 4 true) w) s

/-- LDD (R88): load 64 bits. -/
def execLdd (x : Issuer) (w : W32) (s : State) : Host.Outcome State Fault Refusal :=
  run (byIssuer x (fun n => coreLoad .ldd 8 true n) (kcLoad .ldd 8 true) w) s

/-- LDBU (R88): load 8 bits zero-extended. -/
def execLdbu (x : Issuer) (w : W32) (s : State) : Host.Outcome State Fault Refusal :=
  run (byIssuer x (fun n => coreLoad .ldbu 1 false n) (kcLoad .ldbu 1 false) w) s

/-- LDHU (R88): load 16 bits zero-extended. -/
def execLdhu (x : Issuer) (w : W32) (s : State) : Host.Outcome State Fault Refusal :=
  run (byIssuer x (fun n => coreLoad .ldhu 2 false n) (kcLoad .ldhu 2 false) w) s

/-- LDWU (R88): load 32 bits zero-extended. -/
def execLdwu (x : Issuer) (w : W32) (s : State) : Host.Outcome State Fault Refusal :=
  run (byIssuer x (fun n => coreLoad .ldwu 4 false n) (kcLoad .ldwu 4 false) w) s

/-- STB (R201): store low 8 bits of rs2, written through. -/
def execStb (x : Issuer) (w : W32) (s : State) : Host.Outcome State Fault Refusal :=
  run (byIssuer x (fun n => coreStore .stb 1 n) (kcStore .stb 1) w) s

/-- STH (R201): store low 16 bits of rs2. -/
def execSth (x : Issuer) (w : W32) (s : State) : Host.Outcome State Fault Refusal :=
  run (byIssuer x (fun n => coreStore .sth 2 n) (kcStore .sth 2) w) s

/-- STW (R201): store low 32 bits of rs2. -/
def execStw (x : Issuer) (w : W32) (s : State) : Host.Outcome State Fault Refusal :=
  run (byIssuer x (fun n => coreStore .stw 4 n) (kcStore .stw 4) w) s

/-- STD (R201): store 64 bits of rs2. -/
def execStd (x : Issuer) (w : W32) (s : State) : Host.Outcome State Fault Refusal :=
  run (byIssuer x (fun n => coreStore .std 8 n) (kcStore .std 8) w) s

/-- BEQ (R82): branch if equal. -/
def execBeq (x : Issuer) (w : W32) (s : State) : Host.Outcome State Fault Refusal :=
  run (byIssuer x (fun n => coreBranch .beq xBeq n) (kcBranch .beq xBeq) w) s

/-- BNE (R82): branch if not equal. -/
def execBne (x : Issuer) (w : W32) (s : State) : Host.Outcome State Fault Refusal :=
  run (byIssuer x (fun n => coreBranch .bne xBne n) (kcBranch .bne xBne) w) s

/-- BLT (R82): branch if less than, signed. -/
def execBlt (x : Issuer) (w : W32) (s : State) : Host.Outcome State Fault Refusal :=
  run (byIssuer x (fun n => coreBranch .blt xBlt n) (kcBranch .blt xBlt) w) s

/-- BGE (R82): branch if greater or equal, signed. -/
def execBge (x : Issuer) (w : W32) (s : State) : Host.Outcome State Fault Refusal :=
  run (byIssuer x (fun n => coreBranch .bge xBge n) (kcBranch .bge xBge) w) s

/-- BLTU (R82): branch if less than, unsigned. -/
def execBltu (x : Issuer) (w : W32) (s : State) : Host.Outcome State Fault Refusal :=
  run (byIssuer x (fun n => coreBranch .bltu xBltu n) (kcBranch .bltu xBltu) w) s

/-- BGEU (R82): branch if greater or equal, unsigned. -/
def execBgeu (x : Issuer) (w : W32) (s : State) : Host.Outcome State Fault Refusal :=
  run (byIssuer x (fun n => coreBranch .bgeu xBgeu n) (kcBranch .bgeu xBgeu) w) s

/-- JAL (R82): PC-relative jump with link. -/
def execJal (x : Issuer) (w : W32) (s : State) : Host.Outcome State Fault Refusal :=
  run (byIssuer x (fun n => coreJal n) (kcJal) w) s

/-- LDK (R92): load zero-extended imm16. -/
def execLdk (x : Issuer) (w : W32) (s : State) : Host.Outcome State Fault Refusal :=
  run (byIssuer x (fun n w => coreK .ldk 1 (fun _ => BitVec.ofNat 64 (imm16Of w)) n w) (fun w => kcK .ldk (BitVec.ofNat 64 (imm16Of w)) w) w) s

/-- LDKS (R92): load sign-extended imm16. -/
def execLdks (x : Issuer) (w : W32) (s : State) : Host.Outcome State Fault Refusal :=
  run (byIssuer x (fun n w => coreK .ldks 1 (fun _ => xImm (nsigned (imm16Of w) 16)) n w) (fun w => kcK .ldks (xImm (nsigned (imm16Of w) 16)) w) w) s

/-- SHK (R92): shift rd left 16 and OR imm16. -/
def execShk (x : Issuer) (w : W32) (s : State) : Host.Outcome State Fault Refusal :=
  run (byIssuer x (fun n => coreShk n) (kcShk) w) s

/-- MUL (R92): low 64 bits of product. -/
def execMul (x : Issuer) (w : W32) (s : State) : Host.Outcome State Fault Refusal :=
  run (byIssuer x (fun n => coreRR .mul 3 xMul n) (kcRR .mul xMul) w) s

/-- MULH (R92): high 64 bits of signed product. -/
def execMulh (x : Issuer) (w : W32) (s : State) : Host.Outcome State Fault Refusal :=
  run (byIssuer x (fun n => coreRR .mulh 3 xMulh n) (kcRR .mulh xMulh) w) s

/-- MULHU (R92): high 64 bits of unsigned product. -/
def execMulhu (x : Issuer) (w : W32) (s : State) : Host.Outcome State Fault Refusal :=
  run (byIssuer x (fun n => coreRR .mulhu 3 xMulhu n) (kcRR .mulhu xMulhu) w) s

/-- DIV (R93): signed division toward zero; never traps. -/
def execDiv (x : Issuer) (w : W32) (s : State) : Host.Outcome State Fault Refusal :=
  run (byIssuer x (fun n => coreDiv .div xDiv n) (kcRR .div xDiv) w) s

/-- DIVU (R93): unsigned division. -/
def execDivu (x : Issuer) (w : W32) (s : State) : Host.Outcome State Fault Refusal :=
  run (byIssuer x (fun n => coreDiv .divu xDivu n) (kcRR .divu xDivu) w) s

/-- REM (R93): signed remainder. -/
def execRem (x : Issuer) (w : W32) (s : State) : Host.Outcome State Fault Refusal :=
  run (byIssuer x (fun n => coreDiv .rem xRem n) (kcRR .rem xRem) w) s

/-- REMU (R93): unsigned remainder. -/
def execRemu (x : Issuer) (w : W32) (s : State) : Host.Outcome State Fault Refusal :=
  run (byIssuer x (fun n => coreDiv .remu xRemu n) (kcRR .remu xRemu) w) s

/-- CLZ (R92): count leading zeros. -/
def execClz (x : Issuer) (w : W32) (s : State) : Host.Outcome State Fault Refusal :=
  run (byIssuer x (fun n => coreR1 .clz 1 xClz n) (kcR1 .clz xClz) w) s

/-- CTZ (R92): count trailing zeros. -/
def execCtz (x : Issuer) (w : W32) (s : State) : Host.Outcome State Fault Refusal :=
  run (byIssuer x (fun n => coreR1 .ctz 1 xCtz n) (kcR1 .ctz xCtz) w) s

/-- POPC (R92): population count. -/
def execPopc (x : Issuer) (w : W32) (s : State) : Host.Outcome State Fault Refusal :=
  run (byIssuer x (fun n => coreR1 .popc 1 xPopc n) (kcR1 .popc xPopc) w) s

end Sys2Proof.Machine
end

