-- ==== Sys2Proof/Machine/SyncRows.lean ====
section
/-!
DEFINITION. The rows of semaphores, barriers and the overdue watch (R318–R339).
-/
namespace Sys2Proof.Machine

/-- SEM_SIGNAL (R324): KC or host write signals a semaphore. -/
def execSemSignal (u : Writer) (v : W32) (s : State) : Host.Outcome State Fault Refusal :=
  run (byWriter u (semSignal u v)) s

/-- SEM_TAKE (R323): KC or host non-blocking take. -/
def execSemTake (u : Writer) (v : W32) (s : State) : Host.Outcome State Fault Refusal :=
  run (byWriter u (semTake u v)) s

/-- SEM_VAL_WRITE (R325): write sets a semaphore's stored value. -/
def execSemValWrite (k : Fin 4096) (u : Writer) (v : W32) (s : State) : Host.Outcome State Fault Refusal :=
  run (byWriter u (semValWrite k.val u v)) s

/-- SEM_ALLOC_WRITE (R321): allocation bit set resets value and flags. -/
def execSemAllocWrite (j : Fin 128) (u : Writer) (v : W32) (s : State) : Host.Outcome State Fault Refusal :=
  run (byWriter u (semAllocWrite j.val v)) s

/-- SIGNAL_TAKEABLE (R324): pending signal becomes takeable and is added. -/
def execSignalTakeable (s : State) : Host.Outcome State Fault Refusal :=
  run (signalTakeable) s

/-- SEM_SAVE (R333): save a semaphore range and barrier contexts. -/
def execSemSave (u : Writer) (s : State) : Host.Outcome State Fault Refusal :=
  run (byWriter u (semSave false u)) s

/-- SEM_RESTORE (R334): restore a synchronisation record. -/
def execSemRestore (u : Writer) (s : State) : Host.Outcome State Fault Refusal :=
  run (byWriter u (semRestore false u)) s

/-- SEM_XFER_DONE (R335): save or restore transfer completes. -/
def execSemXferDone (s : State) : Host.Outcome State Fault Refusal :=
  run (semXferDone) s

/-- BAR_ARRIVE (R326): KC or host arrival at a barrier. -/
def execBarArrive (k : Fin 64) (u : Writer) (s : State) : Host.Outcome State Fault Refusal :=
  run (byWriter u (barArrive k.val u)) s

/-- BAR_CONFIG_WRITE (R332): write of BAR_CFG, BAR_PARENT or BAR_UP; of BAR_CFG, BAR_PARENT or BAR_UP (r = 0, 1, 2). -/
def execBarConfigWrite (k : Fin 64) (r : Fin 3) (u : Writer) (v : W32) (s : State) : Host.Outcome State Fault Refusal :=
  run (byWriter u (barConfigWrite k.val r.val u v)) s

/-- UP_ARRIVAL (R328): serving hub counts an up-arrival. -/
def execUpArrival (k : Fin 64) (f : UpFrom) (s : State) : Host.Outcome State Fault Refusal :=
  run (upArrival k.val f) s

/-- BARRIER_RELEASE (R330): release reaches a context and is forwarded. -/
def execBarrierRelease (k : Fin 64) (s : State) : Host.Outcome State Fault Refusal :=
  run (barrierRelease k.val) s

/-- OVERDUE_TRIP (R338): 4096 quiet frames trip the overdue watch. -/
def execOverdueTrip (s : State) : Host.Outcome State Fault Refusal :=
  run (overdueRow) s

end Sys2Proof.Machine
end

