-- ==== Sys2Proof/Machine/TimingRows.lean ====
section
/-!
DEFINITION. The rows of the timing contract: frames, phases, the schedule hold, slow-exact mode (R17, R22, R24, R255–R264, R279–R285).
-/
namespace Sys2Proof.Machine

/-- BG_REQUEST_SERVE (R17): waiting background or ingress request served in a free slot. -/
def execBgRequestServe (s : State) : Host.Outcome State Fault Refusal :=
  run (bgServe) s

/-- BG_WAIT_256 (R264): request waiting 256 cycles writes an informational record. -/
def execBgWait256 (s : State) : Host.Outcome State Fault Refusal :=
  run (bgWait) s

/-- FRAME_BOUNDARY (R22): TIM_FRAME increments and per-frame metering runs. -/
def execFrameBoundary (s : State) : Host.Outcome State Fault Refusal :=
  run (frameBoundary) s

/-- PHASE_BOUNDARY (R255): armed boundary latches budget, masks, handoffs and starts units. -/
def execPhaseBoundary (s : State) : Host.Outcome State Fault Refusal :=
  run (boundaryRow) s

/-- PHASE_ARM (R257): write of TIM_PHASE_CTL.ARMED arms a boundary. -/
def execPhaseArm (u : Writer) (s : State) : Host.Outcome State Fault Refusal :=
  run (byWriter u (phaseArm u)) s

/-- PHASE_DISARM (R255): write of TIM_PHASE_CTL.DISARM clears ARMED. -/
def execPhaseDisarm (u : Writer) (s : State) : Host.Outcome State Fault Refusal :=
  run (byWriter u phaseDisarm) s

/-- PHASE_LEN_CHECK (R259): at start plus LEN unfinished units are recorded. -/
def execPhaseLenCheck (s : State) : Host.Outcome State Fault Refusal :=
  run (phaseLenCheck) s

/-- PHASE_GRACE_EXPIRY (R260): at LEN plus 64 firmware stops the overrunning phase. -/
def execPhaseGraceExpiry (s : State) : Host.Outcome State Fault Refusal :=
  run (phaseGrace) s

/-- HOLD_BEGIN (R279): schedule hold begins at the frame after a skew fault. -/
def execHoldBegin (s : State) : Host.Outcome State Fault Refusal :=
  run (holdBegin) s

/-- HOLD_RELEASE (R280): write of TIM_HOLD_CTL.RELEASE fixes the shift. -/
def execHoldRelease (u : Writer) (s : State) : Host.Outcome State Fault Refusal :=
  run (byWriter u (holdRelease u)) s

/-- HOLD_ABORT (R281): write of TIM_HOLD_CTL.ABORT stops the phase. -/
def execHoldAbort (u : Writer) (s : State) : Host.Outcome State Fault Refusal :=
  run (byWriter u (holdAbort u)) s

/-- HOLD_RESUME (R280): held units resume at F plus delta. -/
def execHoldResume (s : State) : Host.Outcome State Fault Refusal :=
  run (holdResume) s

/-- SLOW_ENTER (R284): write of CLK_SLOW_CTL.ENTER requests slow-exact mode. -/
def execSlowEnter (u : Writer) (s : State) : Host.Outcome State Fault Refusal :=
  run (byWriter u slowEnter) s

/-- TEMERG_ASSERT (R284): TEMERG rises and requests slow-exact mode. -/
def execTemergAssert (s : State) : Host.Outcome State Fault Refusal :=
  run (temergAssert) s

/-- TEMERG_DEASSERT (R284): TEMERG falls and the return count starts. -/
def execTemergDeassert (s : State) : Host.Outcome State Fault Refusal :=
  run (temergDeassert) s

/-- SLOW_EXIT_TIMER (R284): 4160 frames without TEMERG request normal mode. -/
def execSlowExitTimer (s : State) : Host.Outcome State Fault Refusal :=
  run (slowExitTimer) s

/-- CLOCK_MODE_SWITCH (R24): post-divider change takes effect at the second boundary. -/
def execClockModeSwitch (s : State) : Host.Outcome State Fault Refusal :=
  run (clockSwitch) s

end Sys2Proof.Machine
end

