-- ==== Sys2Proof/Machine/TransferRows.lean ====
section
/-!
DEFINITION. The rows of the transfer engines (R296–R317).
-/
namespace Sys2Proof.Machine

/-- TEN_ENQ (R297): write of TEN_CH_ENQ.GO enqueues a descriptor. -/
def execTenEnq (k : Fin 64) (u : Writer) (s : State) : Host.Outcome State Fault Refusal :=
  run (byWriter u (tenEnq k u)) s

/-- DESC_START (R299): descriptor at channel head starts and is checked. -/
def execDescStart (k : Fin 64) (s : State) : Host.Outcome State Fault Refusal :=
  run (descStart k) s

/-- CHANNEL_WAIT_TAKE (R299): channel takes WCOUNT from WSEM and sets its anchor. -/
def execChannelWaitTake (k : Fin 64) (s : State) : Host.Outcome State Fault Refusal :=
  run (channelTake k) s

/-- PACED_HANDOVER (R306): paced transaction handed to port when tracker and credit allow. -/
def execPacedHandover (k : Fin 64) (s : State) : Host.Outcome State Fault Refusal :=
  run (pacedHandover k) s

/-- REMOTE_TXN_END (R308): remote transaction acknowledged or errored; with an error class, 0 for an acknowledgement. -/
def execRemoteTxnEnd (k : Fin 64) (cls : Byte) (s : State) : Host.Outcome State Fault Refusal :=
  run (remoteTxnEnd k cls) s

/-- DESC_COMPLETE (R309): descriptor completes and signals DSEM and LSEM. -/
def execDescComplete (k : Fin 64) (s : State) : Host.Outcome State Fault Refusal :=
  run (descComplete k) s

/-- TEN_STOP (R312): write of TEN_CH_CTL.STOP stops a channel. -/
def execTenStop (k : Fin 64) (u : Writer) (s : State) : Host.Outcome State Fault Refusal :=
  run (byWriter u (tenStop k)) s

/-- TEN_RESUME (R312): write of TEN_CH_CTL.RESUME returns channel to IDLE. -/
def execTenResume (k : Fin 64) (u : Writer) (s : State) : Host.Outcome State Fault Refusal :=
  run (byWriter u (tenResume k)) s

/-- CHANNEL_STOP_DONE (R312): stopping channel has nothing in flight. -/
def execChannelStopDone (k : Fin 64) (s : State) : Host.Outcome State Fault Refusal :=
  run (channelStopDone k) s

end Sys2Proof.Machine
end

