-- ==== Sys2Proof/Machine/Vector.lean ====
section
/-!
DEFINITION. The rows of the vector instructions (R63, R73, R95–R97).
-/
namespace Sys2Proof.Machine

/-- VADD (R95): vector floating-point add. -/
def execVadd (n : Fin 8) (w : W32) (s : State) : Host.Outcome State Fault Refusal :=
  run (vecBin .vadd 4 fAdd n w) s

/-- VSUB (R95): vector floating-point subtract. -/
def execVsub (n : Fin 8) (w : W32) (s : State) : Host.Outcome State Fault Refusal :=
  run (vecBin .vsub 4 fSub n w) s

/-- VMUL (R95): vector floating-point multiply. -/
def execVmul (n : Fin 8) (w : W32) (s : State) : Host.Outcome State Fault Refusal :=
  run (vecBin .vmul 4 fMul n w) s

/-- VMIN (R63): vector IEEE minimum. -/
def execVmin (n : Fin 8) (w : W32) (s : State) : Host.Outcome State Fault Refusal :=
  run (vecBin .vmin 2 fMin n w) s

/-- VMAX (R63): vector IEEE maximum. -/
def execVmax (n : Fin 8) (w : W32) (s : State) : Host.Outcome State Fault Refusal :=
  run (vecBin .vmax 2 fMax n w) s

/-- VABS (R95): clear sign bit per lane; NaN becomes canonical. -/
def execVabs (n : Fin 8) (w : W32) (s : State) : Host.Outcome State Fault Refusal :=
  run (vecUn .vabs fAbs n w) s

/-- VNEG (R95): invert sign bit per lane; NaN becomes canonical. -/
def execVneg (n : Fin 8) (w : W32) (s : State) : Host.Outcome State Fault Refusal :=
  run (vecUn .vneg fNeg n w) s

/-- VDIV (R96): vector divide on the divide-and-root unit. -/
def execVdiv (n : Fin 8) (w : W32) (s : State) : Host.Outcome State Fault Refusal :=
  run (coreVdiv n w) s

/-- VSQRT (R96): vector square root on the divide-and-root unit. -/
def execVsqrt (n : Fin 8) (w : W32) (s : State) : Host.Outcome State Fault Refusal :=
  run (coreVsqrt n w) s

/-- VFMA (R95): fused (va x vb) + vc. -/
def execVfma (n : Fin 8) (w : W32) (s : State) : Host.Outcome State Fault Refusal :=
  run (vecFma .vfma false false n w) s

/-- VFMS (R95): fused (va x vb) - vc. -/
def execVfms (n : Fin 8) (w : W32) (s : State) : Host.Outcome State Fault Refusal :=
  run (vecFma .vfms false true n w) s

/-- VFNMA (R95): fused -(va x vb) + vc. -/
def execVfnma (n : Fin 8) (w : W32) (s : State) : Host.Outcome State Fault Refusal :=
  run (vecFma .vfnma true false n w) s

/-- VFNMS (R95): fused -(va x vb) - vc. -/
def execVfnms (n : Fin 8) (w : W32) (s : State) : Host.Outcome State Fault Refusal :=
  run (vecFma .vfnms true true n w) s

/-- VIADD (R95): vector integer add. -/
def execViadd (n : Fin 8) (w : W32) (s : State) : Host.Outcome State Fault Refusal :=
  run (vecInt .viadd 2 iAdd n w) s

/-- VISUB (R95): vector integer subtract. -/
def execVisub (n : Fin 8) (w : W32) (s : State) : Host.Outcome State Fault Refusal :=
  run (vecInt .visub 2 iSub n w) s

/-- VIMUL (R95): vector integer multiply, low half. -/
def execVimul (n : Fin 8) (w : W32) (s : State) : Host.Outcome State Fault Refusal :=
  run (vecInt .vimul 3 iMul n w) s

/-- VAND (R95): vector bitwise AND. -/
def execVand (n : Fin 8) (w : W32) (s : State) : Host.Outcome State Fault Refusal :=
  run (vecInt .vand 1 iAnd n w) s

/-- VOR (R95): vector bitwise OR. -/
def execVor (n : Fin 8) (w : W32) (s : State) : Host.Outcome State Fault Refusal :=
  run (vecInt .vor 1 iOr n w) s

/-- VXOR (R95): vector bitwise XOR. -/
def execVxor (n : Fin 8) (w : W32) (s : State) : Host.Outcome State Fault Refusal :=
  run (vecInt .vxor 1 iXor n w) s

/-- VSHL (R95): vector shift left. -/
def execVshl (n : Fin 8) (w : W32) (s : State) : Host.Outcome State Fault Refusal :=
  run (vecInt .vshl 1 iShl n w) s

/-- VSHR (R95): vector logical shift right. -/
def execVshr (n : Fin 8) (w : W32) (s : State) : Host.Outcome State Fault Refusal :=
  run (vecInt .vshr 1 iShr n w) s

/-- VSRA (R95): vector arithmetic shift right. -/
def execVsra (n : Fin 8) (w : W32) (s : State) : Host.Outcome State Fault Refusal :=
  run (vecInt .vsra 1 iSra n w) s

/-- VCMPEQ (R95): floating-point equal compare into predicate. -/
def execVcmpeq (n : Fin 8) (w : W32) (s : State) : Host.Outcome State Fault Refusal :=
  run (vecCmp .vcmpeq (fun w => cEq (fmt8Of w)) n w) s

/-- VCMPLT (R73): signalling less-than compare into predicate. -/
def execVcmplt (n : Fin 8) (w : W32) (s : State) : Host.Outcome State Fault Refusal :=
  run (vecCmp .vcmplt (fun w => cLt (fmt8Of w)) n w) s

/-- VCMPLE (R73): signalling less-or-equal compare into predicate. -/
def execVcmple (n : Fin 8) (w : W32) (s : State) : Host.Outcome State Fault Refusal :=
  run (vecCmp .vcmple (fun w => cLe (fmt8Of w)) n w) s

/-- VCMPUN (R95): unordered compare into predicate. -/
def execVcmpun (n : Fin 8) (w : W32) (s : State) : Host.Outcome State Fault Refusal :=
  run (vecCmp .vcmpun (fun w => cUn (fmt8Of w)) n w) s

/-- VICMPEQ (R95): integer equal compare. -/
def execVicmpeq (n : Fin 8) (w : W32) (s : State) : Host.Outcome State Fault Refusal :=
  run (vecCmp .vicmpeq (fun _ => cIeq) n w) s

/-- VICMPLT (R95): integer signed less-than compare. -/
def execVicmplt (n : Fin 8) (w : W32) (s : State) : Host.Outcome State Fault Refusal :=
  run (vecCmp .vicmplt (fun w => cIlt (widthOf w)) n w) s

/-- VICMPLTU (R95): integer unsigned less-than compare. -/
def execVicmpltu (n : Fin 8) (w : W32) (s : State) : Host.Outcome State Fault Refusal :=
  run (vecCmp .vicmpltu (fun _ => cIltu) n w) s

/-- PAND (R95): predicate AND. -/
def execPand (n : Fin 8) (w : W32) (s : State) : Host.Outcome State Fault Refusal :=
  run (vecPred .pand true (fun a b => a &&& b) n w) s

/-- POR (R95): predicate OR. -/
def execPor (n : Fin 8) (w : W32) (s : State) : Host.Outcome State Fault Refusal :=
  run (vecPred .por true (fun a b => a ||| b) n w) s

/-- PXOR (R95): predicate XOR. -/
def execPxor (n : Fin 8) (w : W32) (s : State) : Host.Outcome State Fault Refusal :=
  run (vecPred .pxor true (fun a b => a ^^^ b) n w) s

/-- PNOT (R95): predicate NOT. -/
def execPnot (n : Fin 8) (w : W32) (s : State) : Host.Outcome State Fault Refusal :=
  run (vecPred .pnot false (fun a _ => ~~~a) n w) s

/-- VLD (R95): load 128 contiguous bytes into a vector register. -/
def execVld (n : Fin 8) (w : W32) (s : State) : Host.Outcome State Fault Refusal :=
  run (coreVload .vld 128 128 (fun r m => .v r m) n w) s

/-- VST (R95): store 128 bytes from a vector register. -/
def execVst (n : Fin 8) (w : W32) (s : State) : Host.Outcome State Fault Refusal :=
  run (coreVst n w) s

/-- VLDB32 (R95): load one 32-bit element and broadcast. -/
def execVldb32 (n : Fin 8) (w : W32) (s : State) : Host.Outcome State Fault Refusal :=
  run (coreVload .vldb32 4 4 (fun r m => .bcast r m 4) n w) s

/-- VLDB16 (R95): load one 16-bit element and broadcast. -/
def execVldb16 (n : Fin 8) (w : W32) (s : State) : Host.Outcome State Fault Refusal :=
  run (coreVload .vldb16 2 2 (fun r m => .bcast r m 2) n w) s

/-- VREDADD (R97): pairwise-tree add reduction into lane 0. -/
def execVredadd (n : Fin 8) (w : W32) (s : State) : Host.Outcome State Fault Refusal :=
  run (vecRed .vredadd fAdd n w) s

/-- VREDMAX (R97): pairwise-tree max reduction. -/
def execVredmax (n : Fin 8) (w : W32) (s : State) : Host.Outcome State Fault Refusal :=
  run (vecRed .vredmax fMax n w) s

/-- VREDMIN (R97): pairwise-tree min reduction. -/
def execVredmin (n : Fin 8) (w : W32) (s : State) : Host.Outcome State Fault Refusal :=
  run (vecRed .vredmin fMin n w) s

/-- VPERM (R95): lane permutation by index vector. -/
def execVperm (n : Fin 8) (w : W32) (s : State) : Host.Outcome State Fault Refusal :=
  run (coreVperm n w) s

/-- VSLIDEUP (R95): slide lanes up by immediate. -/
def execVslideup (n : Fin 8) (w : W32) (s : State) : Host.Outcome State Fault Refusal :=
  run (vecSlide .vslideup vSlideUp n w) s

/-- VSLIDEDN (R95): slide lanes down by immediate. -/
def execVslidedn (n : Fin 8) (w : W32) (s : State) : Host.Outcome State Fault Refusal :=
  run (vecSlide .vslidedn vSlideDn n w) s

/-- VBCAST32 (R95): broadcast low 32 bits of a g register. -/
def execVbcast32 (n : Fin 8) (w : W32) (s : State) : Host.Outcome State Fault Refusal :=
  run (vecBcast .vbcast32 32 n w) s

/-- VBCAST16 (R95): broadcast low 16 bits of a g register. -/
def execVbcast16 (n : Fin 8) (w : W32) (s : State) : Host.Outcome State Fault Refusal :=
  run (vecBcast .vbcast16 16 n w) s

/-- VEXT (R95): extract a 32-bit lane into a g register. -/
def execVext (n : Fin 8) (w : W32) (s : State) : Host.Outcome State Fault Refusal :=
  run (coreVext n w) s

/-- VINS (R95): insert low 32 bits of a g register into a lane. -/
def execVins (n : Fin 8) (w : W32) (s : State) : Host.Outcome State Fault Refusal :=
  run (coreVins n w) s

/-- VMOV (R95): vector register copy. -/
def execVmov (n : Fin 8) (w : W32) (s : State) : Host.Outcome State Fault Refusal :=
  run (coreVmov n w) s

/-- VCVT_H_S (R95): binary32 to binary16 into low or high half. -/
def execVcvtHS (n : Fin 8) (w : W32) (s : State) : Host.Outcome State Fault Refusal :=
  run (vecCvt .vcvths vCvtHS n w) s

/-- VCVT_S_H (R95): binary16 half to binary32 lanes. -/
def execVcvtSH (n : Fin 8) (w : W32) (s : State) : Host.Outcome State Fault Refusal :=
  run (vecCvt .vcvtsh vCvtSH n w) s

/-- VCVT_S_W (R95): int32 to binary32 by RNE. -/
def execVcvtSW (n : Fin 8) (w : W32) (s : State) : Host.Outcome State Fault Refusal :=
  run (vecCvt .vcvtsw (fun _ => vCvtSW) n w) s

/-- VCVT_W_S (R95): binary32 to int32 toward zero, saturating. -/
def execVcvtWS (n : Fin 8) (w : W32) (s : State) : Host.Outcome State Fault Refusal :=
  run (vecCvt .vcvtws (fun _ => vCvtWS) n w) s

end Sys2Proof.Machine
end

