-- ==== Sys2Proof/Machine/Dispatch.lean ====
section
/-!
DEFINITION. One arm for every command, in the order of spec/opcode_table.json: a direct call of its meaning.
-/
namespace Sys2Proof.Machine

/-- The effect of a command on everything but the queue of waiting commands. -/
def exec (i : Instr) (s : State) : Host.Outcome State Fault Refusal :=
  match i with
  | .add x w => Sys2Proof.Machine.execAdd x w s
  | .sub x w => Sys2Proof.Machine.execSub x w s
  | .and x w => Sys2Proof.Machine.execAnd x w s
  | .or x w => Sys2Proof.Machine.execOr x w s
  | .xor x w => Sys2Proof.Machine.execXor x w s
  | .sll x w => Sys2Proof.Machine.execSll x w s
  | .srl x w => Sys2Proof.Machine.execSrl x w s
  | .sra x w => Sys2Proof.Machine.execSra x w s
  | .slt x w => Sys2Proof.Machine.execSlt x w s
  | .sltu x w => Sys2Proof.Machine.execSltu x w s
  | .min x w => Sys2Proof.Machine.execMin x w s
  | .max x w => Sys2Proof.Machine.execMax x w s
  | .minu x w => Sys2Proof.Machine.execMinu x w s
  | .maxu x w => Sys2Proof.Machine.execMaxu x w s
  | .addw x w => Sys2Proof.Machine.execAddw x w s
  | .subw x w => Sys2Proof.Machine.execSubw x w s
  | .jalr x w => Sys2Proof.Machine.execJalr x w s
  | .addi x w => Sys2Proof.Machine.execAddi x w s
  | .andi x w => Sys2Proof.Machine.execAndi x w s
  | .ori x w => Sys2Proof.Machine.execOri x w s
  | .xori x w => Sys2Proof.Machine.execXori x w s
  | .slti x w => Sys2Proof.Machine.execSlti x w s
  | .slli x w => Sys2Proof.Machine.execSlli x w s
  | .srli x w => Sys2Proof.Machine.execSrli x w s
  | .srai x w => Sys2Proof.Machine.execSrai x w s
  | .ldb l => Sys2Proof.Machine.execLdb l s
  | .ldh x w => Sys2Proof.Machine.execLdh x w s
  | .ldw x w => Sys2Proof.Machine.execLdw x w s
  | .ldd x w => Sys2Proof.Machine.execLdd x w s
  | .ldbu x w => Sys2Proof.Machine.execLdbu x w s
  | .ldhu x w => Sys2Proof.Machine.execLdhu x w s
  | .ldwu x w => Sys2Proof.Machine.execLdwu x w s
  | .stb x w => Sys2Proof.Machine.execStb x w s
  | .sth x w => Sys2Proof.Machine.execSth x w s
  | .stw x w => Sys2Proof.Machine.execStw x w s
  | .std x w => Sys2Proof.Machine.execStd x w s
  | .beq x w => Sys2Proof.Machine.execBeq x w s
  | .bne x w => Sys2Proof.Machine.execBne x w s
  | .blt x w => Sys2Proof.Machine.execBlt x w s
  | .bge x w => Sys2Proof.Machine.execBge x w s
  | .bltu x w => Sys2Proof.Machine.execBltu x w s
  | .bgeu x w => Sys2Proof.Machine.execBgeu x w s
  | .jal x w => Sys2Proof.Machine.execJal x w s
  | .ldk x w => Sys2Proof.Machine.execLdk x w s
  | .ldks x w => Sys2Proof.Machine.execLdks x w s
  | .shk x w => Sys2Proof.Machine.execShk x w s
  | .mul x w => Sys2Proof.Machine.execMul x w s
  | .mulh x w => Sys2Proof.Machine.execMulh x w s
  | .mulhu x w => Sys2Proof.Machine.execMulhu x w s
  | .div x w => Sys2Proof.Machine.execDiv x w s
  | .divu x w => Sys2Proof.Machine.execDivu x w s
  | .rem x w => Sys2Proof.Machine.execRem x w s
  | .remu x w => Sys2Proof.Machine.execRemu x w s
  | .clz x w => Sys2Proof.Machine.execClz x w s
  | .ctz x w => Sys2Proof.Machine.execCtz x w s
  | .popc x w => Sys2Proof.Machine.execPopc x w s
  | .vadd n w => Sys2Proof.Machine.execVadd n w s
  | .vsub n w => Sys2Proof.Machine.execVsub n w s
  | .vmul n w => Sys2Proof.Machine.execVmul n w s
  | .vmin n w => Sys2Proof.Machine.execVmin n w s
  | .vmax n w => Sys2Proof.Machine.execVmax n w s
  | .vabs n w => Sys2Proof.Machine.execVabs n w s
  | .vneg n w => Sys2Proof.Machine.execVneg n w s
  | .vdiv n w => Sys2Proof.Machine.execVdiv n w s
  | .vsqrt n w => Sys2Proof.Machine.execVsqrt n w s
  | .vfma n w => Sys2Proof.Machine.execVfma n w s
  | .vfms n w => Sys2Proof.Machine.execVfms n w s
  | .vfnma n w => Sys2Proof.Machine.execVfnma n w s
  | .vfnms n w => Sys2Proof.Machine.execVfnms n w s
  | .viadd n w => Sys2Proof.Machine.execViadd n w s
  | .visub n w => Sys2Proof.Machine.execVisub n w s
  | .vimul n w => Sys2Proof.Machine.execVimul n w s
  | .vand n w => Sys2Proof.Machine.execVand n w s
  | .vor n w => Sys2Proof.Machine.execVor n w s
  | .vxor n w => Sys2Proof.Machine.execVxor n w s
  | .vshl n w => Sys2Proof.Machine.execVshl n w s
  | .vshr n w => Sys2Proof.Machine.execVshr n w s
  | .vsra n w => Sys2Proof.Machine.execVsra n w s
  | .vcmpeq n w => Sys2Proof.Machine.execVcmpeq n w s
  | .vcmplt n w => Sys2Proof.Machine.execVcmplt n w s
  | .vcmple n w => Sys2Proof.Machine.execVcmple n w s
  | .vcmpun n w => Sys2Proof.Machine.execVcmpun n w s
  | .vicmpeq n w => Sys2Proof.Machine.execVicmpeq n w s
  | .vicmplt n w => Sys2Proof.Machine.execVicmplt n w s
  | .vicmpltu n w => Sys2Proof.Machine.execVicmpltu n w s
  | .pand n w => Sys2Proof.Machine.execPand n w s
  | .por n w => Sys2Proof.Machine.execPor n w s
  | .pxor n w => Sys2Proof.Machine.execPxor n w s
  | .pnot n w => Sys2Proof.Machine.execPnot n w s
  | .vld n w => Sys2Proof.Machine.execVld n w s
  | .vst n w => Sys2Proof.Machine.execVst n w s
  | .vldb32 n w => Sys2Proof.Machine.execVldb32 n w s
  | .vldb16 n w => Sys2Proof.Machine.execVldb16 n w s
  | .vredadd n w => Sys2Proof.Machine.execVredadd n w s
  | .vredmax n w => Sys2Proof.Machine.execVredmax n w s
  | .vredmin n w => Sys2Proof.Machine.execVredmin n w s
  | .vperm n w => Sys2Proof.Machine.execVperm n w s
  | .vslideup n w => Sys2Proof.Machine.execVslideup n w s
  | .vslidedn n w => Sys2Proof.Machine.execVslidedn n w s
  | .vbcast32 n w => Sys2Proof.Machine.execVbcast32 n w s
  | .vbcast16 n w => Sys2Proof.Machine.execVbcast16 n w s
  | .vext n w => Sys2Proof.Machine.execVext n w s
  | .vins n w => Sys2Proof.Machine.execVins n w s
  | .vmov n w => Sys2Proof.Machine.execVmov n w s
  | .vcvtHS n w => Sys2Proof.Machine.execVcvtHS n w s
  | .vcvtSH n w => Sys2Proof.Machine.execVcvtSH n w s
  | .vcvtSW n w => Sys2Proof.Machine.execVcvtSW n w s
  | .vcvtWS n w => Sys2Proof.Machine.execVcvtWS n w s
  | .ssig n w => Sys2Proof.Machine.execSsig n w s
  | .swait n w => Sys2Proof.Machine.execSwait n w s
  | .swaitTake n => Sys2Proof.Machine.execSwaitTake n s
  | .stake n w => Sys2Proof.Machine.execStake n w s
  | .barr n w => Sys2Proof.Machine.execBarr n w s
  | .txq n w => Sys2Proof.Machine.execTxq n w s
  | .trap n w => Sys2Proof.Machine.execTrap n w s
  | .eret n w => Sys2Proof.Machine.execEret n w s
  | .fence n w => Sys2Proof.Machine.execFence n w s
  | .idle n w => Sys2Proof.Machine.execIdle n w s
  | .idleExpiry n => Sys2Proof.Machine.execIdleExpiry n s
  | .halt n w => Sys2Proof.Machine.execHalt n w s
  | .mfsr n w => Sys2Proof.Machine.execMfsr n w s
  | .mtsr n w => Sys2Proof.Machine.execMtsr n w s
  | .rdfrm n w => Sys2Proof.Machine.execRdfrm n w s
  | .rdpos n w => Sys2Proof.Machine.execRdpos n w s
  | .loadReturn n => Sys2Proof.Machine.execLoadReturn n s
  | .storeAck n => Sys2Proof.Machine.execStoreAck n s
  | .stridePrefetch n => Sys2Proof.Machine.execStridePrefetch n s
  | .fcfg n w => Sys2Proof.Machine.execFcfg n w s
  | .fld n w => Sys2Proof.Machine.execFld n w s
  | .fldx n w => Sys2Proof.Machine.execFldx n w s
  | .fst n w => Sys2Proof.Machine.execFst n w s
  | .fstx n w => Sys2Proof.Machine.execFstx n w s
  | .folioLand n => Sys2Proof.Machine.execFolioLand n s
  | .frel n w => Sys2Proof.Machine.execFrel n w s
  | .fsave n w => Sys2Proof.Machine.execFsave n w s
  | .frstr n w => Sys2Proof.Machine.execFrstr n w s
  | .frsm n w => Sys2Proof.Machine.execFrsm n w s
  | .mma n w => Sys2Proof.Machine.execMma n w s
  | .mmaDual n w => Sys2Proof.Machine.execMmaDual n w s
  | .mmaSequence n w => Sys2Proof.Machine.execMmaSequence n w s
  | .seqEntryStart n => Sys2Proof.Machine.execSeqEntryStart n s
  | .mmac n w => Sys2Proof.Machine.execMmac n w s
  | .mmacMmaPart n => Sys2Proof.Machine.execMmacMmaPart n s
  | .mmaResultLand n => Sys2Proof.Machine.execMmaResultLand n s
  | .ard n w => Sys2Proof.Machine.execArd n w s
  | .chn n w => Sys2Proof.Machine.execChn n w s
  | .sendAck n => Sys2Proof.Machine.execSendAck n s
  | .sendFail n fenced => Sys2Proof.Machine.execSendFail n fenced s
  | .arraySkewParity n idx => Sys2Proof.Machine.execArraySkewParity n idx s
  | .skewScrubDone n pass => Sys2Proof.Machine.execSkewScrubDone n pass s
  | .arrayHalt n => Sys2Proof.Machine.execArrayHalt n s
  | .coreArm n u => Sys2Proof.Machine.execCoreArm n u s
  | .coreStop n u => Sys2Proof.Machine.execCoreStop n u s
  | .coreGo n => Sys2Proof.Machine.execCoreGo n s
  | .coreDrainDone n => Sys2Proof.Machine.execCoreDrainDone n s
  | .cancel n u => Sys2Proof.Machine.execCancel n u s
  | .aseqWrite n j u v => Sys2Proof.Machine.execAseqWrite n j u v s
  | .dinv n u => Sys2Proof.Machine.execDinv n u s
  | .dclean n u => Sys2Proof.Machine.execDclean n u s
  | .dclinv n u => Sys2Proof.Machine.execDclinv n u s
  | .ipreload n u => Sys2Proof.Machine.execIpreload n u s
  | .iinv n u => Sys2Proof.Machine.execIinv n u s
  | .rangeOpDone n => Sys2Proof.Machine.execRangeOpDone n s
  | .swInvLine n u set way => Sys2Proof.Machine.execSwInvLine n u set way s
  | .swInvAll n u => Sys2Proof.Machine.execSwInvAll n u s
  | .swReadTag n u set way => Sys2Proof.Machine.execSwReadTag n u set way s
  | .swInvIline n u set way => Sys2Proof.Machine.execSwInvIline n u set way s
  | .bgRequestServe => Sys2Proof.Machine.execBgRequestServe s
  | .bgWait256 => Sys2Proof.Machine.execBgWait256 s
  | .sramScrubStep key => Sys2Proof.Machine.execSramScrubStep key s
  | .carArm c u => Sys2Proof.Machine.execCarArm c u s
  | .carStop c u => Sys2Proof.Machine.execCarStop c u s
  | .carGo c => Sys2Proof.Machine.execCarGo c s
  | .dot c r => Sys2Proof.Machine.execDot c r s
  | .axpy c r => Sys2Proof.Machine.execAxpy c r s
  | .scale c r => Sys2Proof.Machine.execScale c r s
  | .reduce c r => Sys2Proof.Machine.execReduce c r s
  | .opt c r => Sys2Proof.Machine.execOpt c r s
  | .rerange c r => Sys2Proof.Machine.execRerange c r s
  | .gather c r => Sys2Proof.Machine.execGather c r s
  | .scatter c r => Sys2Proof.Machine.execScatter c r s
  | .csum c r => Sys2Proof.Machine.execCsum c r s
  | .topk c r => Sys2Proof.Machine.execTopk c r s
  | .atom c r => Sys2Proof.Machine.execAtom c r s
  | .move c r => Sys2Proof.Machine.execMove c r s
  | .ldv c r => Sys2Proof.Machine.execLdv c r s
  | .stv c r => Sys2Proof.Machine.execStv c r s
  | .sig c r => Sys2Proof.Machine.execSig c r s
  | .swt c r => Sys2Proof.Machine.execSwt c r s
  | .swtTake c => Sys2Proof.Machine.execSwtTake c s
  | .bar c r => Sys2Proof.Machine.execBar c r s
  | .endList c r => Sys2Proof.Machine.execEndList c r s
  | .carrelBeatLost c => Sys2Proof.Machine.execCarrelBeatLost c s
  | .refreshPeriodStart => Sys2Proof.Machine.execRefreshPeriodStart s
  | .refreshSlot g => Sys2Proof.Machine.execRefreshSlot g s
  | .remapStart u => Sys2Proof.Machine.execRemapStart u s
  | .remapAbort u => Sys2Proof.Machine.execRemapAbort u s
  | .remapSwap => Sys2Proof.Machine.execRemapSwap s
  | .remapCopyDone => Sys2Proof.Machine.execRemapCopyDone s
  | .frameBoundary => Sys2Proof.Machine.execFrameBoundary s
  | .phaseBoundary => Sys2Proof.Machine.execPhaseBoundary s
  | .phaseArm u => Sys2Proof.Machine.execPhaseArm u s
  | .phaseDisarm u => Sys2Proof.Machine.execPhaseDisarm u s
  | .phaseLenCheck => Sys2Proof.Machine.execPhaseLenCheck s
  | .phaseGraceExpiry => Sys2Proof.Machine.execPhaseGraceExpiry s
  | .holdBegin => Sys2Proof.Machine.execHoldBegin s
  | .holdRelease u => Sys2Proof.Machine.execHoldRelease u s
  | .holdAbort u => Sys2Proof.Machine.execHoldAbort u s
  | .holdResume => Sys2Proof.Machine.execHoldResume s
  | .slowEnter u => Sys2Proof.Machine.execSlowEnter u s
  | .temergAssert => Sys2Proof.Machine.execTemergAssert s
  | .temergDeassert => Sys2Proof.Machine.execTemergDeassert s
  | .slowExitTimer => Sys2Proof.Machine.execSlowExitTimer s
  | .clockModeSwitch => Sys2Proof.Machine.execClockModeSwitch s
  | .meshSlotDepart p => Sys2Proof.Machine.execMeshSlotDepart p s
  | .linkLate c => Sys2Proof.Machine.execLinkLate c s
  | .tenEnq k u => Sys2Proof.Machine.execTenEnq k u s
  | .descStart k => Sys2Proof.Machine.execDescStart k s
  | .channelWaitTake k => Sys2Proof.Machine.execChannelWaitTake k s
  | .pacedHandover k => Sys2Proof.Machine.execPacedHandover k s
  | .remoteTxnEnd k cls => Sys2Proof.Machine.execRemoteTxnEnd k cls s
  | .descComplete k => Sys2Proof.Machine.execDescComplete k s
  | .tenStop k u => Sys2Proof.Machine.execTenStop k u s
  | .tenResume k u => Sys2Proof.Machine.execTenResume k u s
  | .channelStopDone k => Sys2Proof.Machine.execChannelStopDone k s
  | .semSignal u v => Sys2Proof.Machine.execSemSignal u v s
  | .semTake u v => Sys2Proof.Machine.execSemTake u v s
  | .semValWrite k u v => Sys2Proof.Machine.execSemValWrite k u v s
  | .semAllocWrite j u v => Sys2Proof.Machine.execSemAllocWrite j u v s
  | .signalTakeable => Sys2Proof.Machine.execSignalTakeable s
  | .semSave u => Sys2Proof.Machine.execSemSave u s
  | .semRestore u => Sys2Proof.Machine.execSemRestore u s
  | .semXferDone => Sys2Proof.Machine.execSemXferDone s
  | .barArrive k u => Sys2Proof.Machine.execBarArrive k u s
  | .barConfigWrite k r u v => Sys2Proof.Machine.execBarConfigWrite k r u v s
  | .upArrival k f => Sys2Proof.Machine.execUpArrival k f s
  | .barrierRelease k => Sys2Proof.Machine.execBarrierRelease k s
  | .overdueTrip => Sys2Proof.Machine.execOverdueTrip s
  | .queSqdb u v => Sys2Proof.Machine.execQueSqdb u v s
  | .queCqdb u v => Sys2Proof.Machine.execQueCqdb u v s
  | .queAdminCfgWrite u v => Sys2Proof.Machine.execQueAdminCfgWrite u v s
  | .queAttach u v => Sys2Proof.Machine.execQueAttach u v s
  | .run q => Sys2Proof.Machine.execRun q s
  | .cmdSignal q => Sys2Proof.Machine.execCmdSignal q s
  | .qcreate q => Sys2Proof.Machine.execQcreate q s
  | .qdestroy q => Sys2Proof.Machine.execQdestroy q s
  | .pin q => Sys2Proof.Machine.execPin q s
  | .unpin q => Sys2Proof.Machine.execUnpin q s
  | .queuePageIn q => Sys2Proof.Machine.execQueuePageIn q s
  | .commandComplete q => Sys2Proof.Machine.execCommandComplete q s
  | .dispatchPhase b => Sys2Proof.Machine.execDispatchPhase b s
  | .phaseEnd => Sys2Proof.Machine.execPhaseEnd s
  | .heartbeatSample => Sys2Proof.Machine.execHeartbeatSample s
  | .meshWrite p f fl => Sys2Proof.Machine.execMeshWrite p f fl s
  | .meshReadReq p f fl => Sys2Proof.Machine.execMeshReadReq p f fl s
  | .meshReadData p f fl => Sys2Proof.Machine.execMeshReadData p f fl s
  | .meshSignal p f fl => Sys2Proof.Machine.execMeshSignal p f fl s
  | .meshError p f fl => Sys2Proof.Machine.execMeshError p f fl s
  | .meshBarUp p f fl => Sys2Proof.Machine.execMeshBarUp p f fl s
  | .meshBarRel p f fl => Sys2Proof.Machine.execMeshBarRel p f fl s
  | .mntCredit p n slot => Sys2Proof.Machine.execMntCredit p n slot s
  | .mntAck p txid status => Sys2Proof.Machine.execMntAck p txid status s
  | .mntHeartbeat p id => Sys2Proof.Machine.execMntHeartbeat p id s
  | .mntAnnounce p id => Sys2Proof.Machine.execMntAnnounce p id s
  | .mntFence p id => Sys2Proof.Machine.execMntFence p id s
  | .heartbeatTimer p => Sys2Proof.Machine.execHeartbeatTimer p s
  | .portLost p => Sys2Proof.Machine.execPortLost p s
  | .mshHbEnWrite u v => Sys2Proof.Machine.execMshHbEnWrite u v s
  | .fenceGo u v => Sys2Proof.Machine.execFenceGo u v s
  | .fenceDrainDone => Sys2Proof.Machine.execFenceDrainDone s
  | .fenceAcksDone => Sys2Proof.Machine.execFenceAcksDone s
  | .lfcWrite c h pl crc => Sys2Proof.Machine.execLfcWrite c h pl crc s
  | .lfcReadReq c h pl crc => Sys2Proof.Machine.execLfcReadReq c h pl crc s
  | .lfcReadData c h pl crc => Sys2Proof.Machine.execLfcReadData c h pl crc s
  | .lfcSignal c h pl crc => Sys2Proof.Machine.execLfcSignal c h pl crc s
  | .lfcError c h pl crc => Sys2Proof.Machine.execLfcError c h pl crc s
  | .lfcBarUp c h pl crc => Sys2Proof.Machine.execLfcBarUp c h pl crc s
  | .lfcBarRel c h pl crc => Sys2Proof.Machine.execLfcBarRel c h pl crc s
  | .lfcFence c h pl crc => Sys2Proof.Machine.execLfcFence c h pl crc s
  | .lfcAck c h pl crc => Sys2Proof.Machine.execLfcAck c h pl crc s
  | .lfcNak c h pl crc => Sys2Proof.Machine.execLfcNak c h pl crc s
  | .lfcKeepalive c h pl crc => Sys2Proof.Machine.execLfcKeepalive c h pl crc s
  | .lfcAnnounce c h pl crc => Sys2Proof.Machine.execLfcAnnounce c h pl crc s
  | .lfcAckTimer c => Sys2Proof.Machine.execLfcAckTimer c s
  | .rtoExpiry c => Sys2Proof.Machine.execRtoExpiry c s
  | .keepaliveTimer c => Sys2Proof.Machine.execKeepaliveTimer c s
  | .farChannelLost c => Sys2Proof.Machine.execFarChannelLost c s
  | .poolGrant => Sys2Proof.Machine.execPoolGrant s
  | .linkupChange p up => Sys2Proof.Machine.execLinkupChange p up s
  | .wpush w => Sys2Proof.Machine.execWpush w s
  | .wpop w => Sys2Proof.Machine.execWpop w s
  | .tret w => Sys2Proof.Machine.execTret w s
  | .wspill w => Sys2Proof.Machine.execWspill w s
  | .wfill w => Sys2Proof.Machine.execWfill w s
  | .bcopy w steps => Sys2Proof.Machine.execBcopy w steps s
  | .csave w steps => Sys2Proof.Machine.execCsave w steps s
  | .wfi w => Sys2Proof.Machine.execWfi w s
  | .ktrap w => Sys2Proof.Machine.execKtrap w s
  | .kcInterrupt => Sys2Proof.Machine.execKcInterrupt s
  | .kcTimerMatch => Sys2Proof.Machine.execKcTimerMatch s
  | .wdtKick u v => Sys2Proof.Machine.execWdtKick u v s
  | .watchdogExpiry => Sys2Proof.Machine.execWatchdogExpiry s
  | .auth u => Sys2Proof.Machine.execAuth u s
  | .hashDone => Sys2Proof.Machine.execHashDone s
  | .authResult => Sys2Proof.Machine.execAuthResult s
  | .authTimeout => Sys2Proof.Machine.execAuthTimeout s
  | .mbSend m u => Sys2Proof.Machine.execMbSend m u s
  | .mbAck m u => Sys2Proof.Machine.execMbAck m u s
  | .svcSend m ws => Sys2Proof.Machine.execSvcSend m ws s
  | .svcAck m => Sys2Proof.Machine.execSvcAck m s
  | .budget => Sys2Proof.Machine.execBudget s
  | .temp => Sys2Proof.Machine.execTemp s
  | .slowhold => Sys2Proof.Machine.execSlowhold s
  | .epoch => Sys2Proof.Machine.execEpoch s
  | .mbBarRel => Sys2Proof.Machine.execMbBarRel s
  | .epochArm u => Sys2Proof.Machine.execEpochArm u s
  | .epochNow u => Sys2Proof.Machine.execEpochNow u s
  | .powerLoopTick => Sys2Proof.Machine.execPowerLoopTick s
  | .updOpen u => Sys2Proof.Machine.execUpdOpen u s
  | .updCommit u => Sys2Proof.Machine.execUpdCommit u s
  | .updSwitch u => Sys2Proof.Machine.execUpdSwitch u s
  | .updConfirm u => Sys2Proof.Machine.execUpdConfirm u s
  | .updReject u => Sys2Proof.Machine.execUpdReject u s
  | .updAbandon u => Sys2Proof.Machine.execUpdAbandon u s
  | .updConfirmTimeout => Sys2Proof.Machine.execUpdConfirmTimeout s
  | .fltRaise u => Sys2Proof.Machine.execFltRaise u s
  | .recordRingWrite => Sys2Proof.Machine.execRecordRingWrite s
  | .archiveLimitExpiry => Sys2Proof.Machine.execArchiveLimitExpiry s
  | .bmSupplyTrip => Sys2Proof.Machine.execBmSupplyTrip s
  | .cluStateSet u v => Sys2Proof.Machine.execCluStateSet u v s
  | .porstNRise straps => Sys2Proof.Machine.execPorstNRise straps s
  | .pllLock => Sys2Proof.Machine.execPllLock s
  | .checkbitInitDone => Sys2Proof.Machine.execCheckbitInitDone s
  | .catGrant => Sys2Proof.Machine.execCatGrant s
  | .catGrantTimeout => Sys2Proof.Machine.execCatGrantTimeout s
  | .catalogueReadDone sfdp dir record => Sys2Proof.Machine.execCatalogueReadDone sfdp dir record s
  | .catLoad u => Sys2Proof.Machine.execCatLoad u s
  | .trainingDone failed => Sys2Proof.Machine.execTrainingDone failed s
  | .bistDone head ents => Sys2Proof.Machine.execBistDone head ents s
  | .coldReset u v => Sys2Proof.Machine.execColdReset u v s
  | .warmReset u => Sys2Proof.Machine.execWarmReset u s
  | .warmResetEffect => Sys2Proof.Machine.execWarmResetEffect s
  | .warmResetTimeout => Sys2Proof.Machine.execWarmResetTimeout s
  | .forcedReset u => Sys2Proof.Machine.execForcedReset u s
  | .coreReset n u => Sys2Proof.Machine.execCoreReset n u s
  | .coreResetDone n => Sys2Proof.Machine.execCoreResetDone n s
  | .pwrReqActive u => Sys2Proof.Machine.execPwrReqActive u s
  | .pwrReqIdle u => Sys2Proof.Machine.execPwrReqIdle u s
  | .pwrReqShelved u => Sys2Proof.Machine.execPwrReqShelved u s
  | .pwrReqOff u => Sys2Proof.Machine.execPwrReqOff u s
  | .powerStateEnter => Sys2Proof.Machine.execPowerStateEnter s
  | .shelvedExit => Sys2Proof.Machine.execShelvedExit s
  | .snapArm u => Sys2Proof.Machine.execSnapArm u s
  | .snapDisarm u => Sys2Proof.Machine.execSnapDisarm u s
  | .dbgSnapshot => Sys2Proof.Machine.execDbgSnapshot s
  | .extest => Sys2Proof.Machine.execExtest s
  | .idcode mfr => Sys2Proof.Machine.execIdcode mfr s
  | .samplePreload preload => Sys2Proof.Machine.execSamplePreload preload s
  | .wrapper => Sys2Proof.Machine.execWrapper s
  | .bistResult => Sys2Proof.Machine.execBistResult s
  | .bypass => Sys2Proof.Machine.execBypass s
  | .wsBypass viaTap => Sys2Proof.Machine.execWsBypass viaTap s
  | .wsExtest viaTap => Sys2Proof.Machine.execWsExtest viaTap s
  | .wsIntestScan viaTap => Sys2Proof.Machine.execWsIntestScan viaTap s
  | .wsIntestRing viaTap => Sys2Proof.Machine.execWsIntestRing viaTap s
  | .registerWrite u a width v => Sys2Proof.Machine.execRegisterWrite u a width v s
  | .carrelCommandsComplete c => Sys2Proof.Machine.execCarrelCommandsComplete c s
  | .porstNLow => Sys2Proof.Machine.execPorstNLow s
  | .idleExit => Sys2Proof.Machine.execIdleExit s

end Sys2Proof.Machine
end

