-- ==== Sys2Proof/Safety.lean ====
section
/-!
DEFINITION. What a safe run is. A command of this block never ends it: its errors are records, flags and refusals inside the hardware.
What a run must keep is that the sparse tables stand in their one canonical form, so that equal contents are equal data; and a command
that commands nothing to the queue leaves the queue's rest as it is.
-/
namespace Sys2Proof.Machine

/-- Memory is in its canonical form: addresses strictly rising, no entry equal to what an unlisted address reads as. -/
abbrev Memory.wf (hw : Hw) : Prop := tabWf memReset hw.mem = true

/-- The stored registers are in their canonical form. -/
abbrev Registers.wf (hw : Hw) : Prop := tabWf regReset hw.regs = true

/-- Every sparse table of the hardware is in its canonical form. -/
def Tables.wf (hw : Hw) : Prop :=
  Memory.wf hw ∧ Registers.wf hw ∧ tabWf (fun _ => 0#32) hw.active = true ∧ tabWf (fun _ => 0#32) hw.shadow = true ∧
    tabWf (fun _ => 0) hw.sync.vals = true

/-- In no cycle of the present frame that is over did a charge pass the latched budget or a mask, unless its TOKEN_OVERRUN was raised
before (R271). -/
def MeterFits (hw : Hw) : Prop := meterFirst hw (hw.now - 1) = none

/-- A step is safe in a state: it answers a next state whose tables are canonical. -/
def SafeStep (s : State) : Prop := ∃ t, step s = .next t ∧ Tables.wf t.hw

end Sys2Proof.Machine
end

