-- ==== Sys2Proof/Certificates/Slice0/Terms.lean ====
section
/-!
DEFINITION. The terms that the statements share: when a core issues a word and when its operands are ready, what a command leaves as it
was, and the rows of commands of one shape with what they compute.
-/
namespace Sys2Proof.Machine

/-! ### Effects named whole -/

/-- The hardware as a command finds it: what the command before sent out is gone from the pins. -/
def State.begun (s : State) : Hw := { s.hw with out := [] }

/-- The command's own effect takes the hardware to `b`, and nothing else does anything but the ending that every command has, of
which the statement EndOfEveryCommand says what it may change. -/
def Does (i : Instr) (s : State) (b : Hw) : Prop := exec i s = .next { s with hw := finish s.hw b }

/-! ### When a core issues a word -/

/-- The hardware that core `n` finds as it comes to the word `w`: all that happens to memory, and to rows in its chains, before that
cycle has happened. -/
def found (s : State) (n : Fin 8) (w : W32) : Hw :=
  rowsTo n (issueCyc (s.hw.core n) w - 1) (settleBefore (issueCyc (s.hw.core n) w) s.begun)

/-- Core `n` runs, nothing holds it, and the word at its pc is `w`, resident, free of uncorrectable errors, and the instruction `m`, as
the checker of fetches finds too (R84, R89, R90, R205, R276). -/
def Issues (s : State) (n : Fin 8) (w : W32) (m : Mn) : Prop :=
  let g := found s n w
  let c := g.core n
  canIssue g n w = true ∧ c.st = .run ∧ resident g n c.pc = true ∧
    (checkKnown n.val 6 c.pc (frameOf (issueCyc c w)) false (g.at (issueCyc c w))).1 = false ∧ (∀ a ∈ c.ibad, a ≠ c.pc / 8) ∧
    fetchWord c c.pc = w ∧ decodeCore w = some m

/-- The hardware when core `n` issues the word `w`: a correctable error of its code word is counted (R195). -/
def issued (s : State) (n : Fin 8) (w : W32) : Hw :=
  let g := found s n w
  let c := g.core n
  let h := (checkKnown n.val 6 c.pc (frameOf (issueCyc c w)) false (g.at (issueCyc c w))).2
  if c.pc / 8 ∈ c.isoft then Hw.bump (0xB00230 + 4 * n.val) 0 16 h else h

/-- Both checker copies find every register of the list landed in cycle `cyc` (R85, R276). -/
def ReadsLanded (c : Core) (cyc : Nat) (rs : List (Nat × Nat)) : Prop :=
  ∀ r ∈ rs, isFixed r = true ∨ ((landOf c r.1 r.2).a ≤ cyc ∧ (landOf c r.1 r.2).b ≤ cyc)

/-- The register that the instruction writes has no older result on its way, and its file takes one more landing in the cycle in which
this one lands (R86, R87). -/
def WriteFree (c : Core) (cyc : Nat) (r : Nat × Nat) (lat : Nat) : Prop :=
  isFixed r = true ∨ ((landOf c r.1 r.2).cyc ≤ cyc ∧ landingsAt c r.1 (cyc + lat) < landLimit r.1)

/-- The landing of a register that is written is entered, and nothing else (R86, R87). -/
def enterLanding (n : Fin 8) (cyc lat : Nat) (r : Nat × Nat) (hw : Hw) : Hw :=
  if isFixed r then hw
  else hw.modCore n (fun c => { c with sb := tabPut (fun _ => landAt 0) (regKey r.1 r.2) (landAt (cyc + lat)) c.sb })

/-- The address of the next instruction in sequential flow. -/
def nextPc (c : Core) : Nat := (c.pc + 4) % 2 ^ 41

/-- What an instruction that issues in cycle `cyc` leaves of an IDLE's count: it goes on past the IDLE's partner in slot 1 (R81, R84). -/
def nextIdle (c : Core) (cyc : Nat) : Option Nat :=
  match c.idle with
  | some t => if cyc < t ∧ nbit c.pc 2 then some t else none
  | none => none

/-- Core `c` after the instruction `w` of cycle `cyc` in sequential flow (R81, R82, R84). -/
def goneOn (c : Core) (cyc : Nat) (w : W32) : Core :=
  { c with pc := nextPc c, next := max c.next (cyc + 1), slot0 := if nbit c.pc 2 then none else some (cyc, w), idle := nextIdle c cyc }

/-! ### What a command leaves as it was -/

/-- The tables of `h` are canonical, from the command before to `h` no ledger point of firmware is passed (R439), the meter has nothing to
say of the cycles that are over (R271), no request for a power state lapses (R472) and no remap rebuild ends (R487): a command's end then
changes only KC's pending interrupts, its WFI and the pins. -/
structure Quiet (s : State) (h : Hw) : Prop where
  tables : Tables.wf h
  points : noticePoints s.hw h = []
  meter : h.now ≤ s.hw.now ∨ MeterFits h
  power : powerHolds h = true
  rebuild : h.bmc.busy = true ∨ s.hw.bmc.busy = false

/-- Everything outside the cores, the stored registers, the beats and the clock of cycles is as in `h`; every byte of memory, every
semaphore and every remap entry reads as there; KC may have left WFI (R416), and the pins carry no more. -/
structure RestFrame (s : State) (h : Hw) (t : State) : Prop where
  pending : t.pending = s.pending
  memory : ∀ a, t.hw.byte a = h.byte a
  marks : t.hw.bad = h.bad ∧ t.hw.soft = h.soft
  semaphores : (∀ i, semVal t.hw i = semVal h i) ∧ ({ t.hw.sync with vals := h.sync.vals } : Sync) = h.sync
  carrels : t.hw.cars = h.cars
  transfers : t.hw.tes = h.tes
  recorder : t.hw.rcd = h.rcd
  clocks : t.hw.clk = h.clk ∧ t.hw.frame = h.frame
  migration : t.hw.bmc = h.bmc ∧ (∀ k, tabGet (fun _ => 0#32) t.hw.active k = tabGet (fun _ => 0#32) h.active k) ∧
    (∀ k, tabGet (fun _ => 0#32) t.hw.shadow k = tabGet (fun _ => 0#32) h.shadow k)
  holds : t.hw.hold = h.hold ∧ t.hw.handoff = h.handoff
  checkers : t.hw.chkOff = h.chkOff ∧ t.hw.chkBoth = h.chkBoth ∧ t.hw.chkErr = h.chkErr
  ports : t.hw.net = h.net ∧ t.hw.bg = h.bg
  latches : t.hw.rlatch = h.rlatch ∧ t.hw.wlatch = h.wlatch
  control : ({ t.hw.kc with wfi := h.kc.wfi } : Kc) = h.kc
  firmware : t.hw.fw = h.fw
  startUp : t.hw.boot = h.boot ∧ t.hw.tap = h.tap
  pins : ∀ e ∈ t.hw.out, e ∈ h.out

/-- From `h` nothing but core `n` has changed: no other core, no register but KC's pending interrupts, no memory, no other unit. -/
structure CoreFrame (n : Fin 8) (s : State) (h : Hw) (t : State) : Prop where
  others : ∀ m, m ≠ n → t.hw.core m = h.core m
  registers : ∀ p, p ≠ 0xD00040 → t.hw.reg p = h.reg p
  beats : t.hw.beats = h.beats
  rest : RestFrame s h t

/-- From `h` nothing but core `n`, its vector flags in CORE_FPSTAT (R73) and KC's pending interrupts has changed. -/
structure VectorFrame (n : Fin 8) (s : State) (h : Hw) (t : State) : Prop where
  others : ∀ m, m ≠ n → t.hw.core m = h.core m
  registers : ∀ p, p ≠ coreReg n 0x404 → p ≠ 0xD00040 → t.hw.reg p = h.reg p
  beats : t.hw.beats = h.beats
  rest : RestFrame s h t

/-! ### Scalar instructions of a core that write a value -/

/-- A row whose instruction reads registers and writes rd after `lat` cycles: `value` is what it writes, of the core, the cycle of
issue and the word. -/
structure ValueRow where
  make : Fin 8 → W32 → Instr
  mn : Mn
  lat : Nat
  reads : W32 → List (Nat × Nat)
  value : Core → Nat → W32 → W64

/-- rd := f rs1 rs2. -/
def rowRR (make : Issuer → W32 → Instr) (m : Mn) (lat : Nat) (f : W64 → W64 → W64) : ValueRow :=
  ⟨fun n => make (.core n), m, lat, fun w => [(0, rs1Of w), (0, rs2Of w)], fun c _ w => f (c.gr (rs1Of w)) (c.gr (rs2Of w))⟩

/-- rd := f rs1 imm13. -/
def rowRI (make : Issuer → W32 → Instr) (m : Mn) (f : W64 → W64 → W64) : ValueRow :=
  ⟨fun n => make (.core n), m, 1, fun w => [(0, rs1Of w)], fun c _ w => f (c.gr (rs1Of w)) (xImm (imm13Of w))⟩

/-- rd := f rs1. -/
def rowR1 (make : Issuer → W32 → Instr) (m : Mn) (f : W64 → W64) : ValueRow :=
  ⟨fun n => make (.core n), m, 1, fun w => [(0, rs1Of w)], fun c _ w => f (c.gr (rs1Of w))⟩

/-- The scalar instructions of a core that write a value, but for the divisions, loads and links (R92). -/
def valueRows : List ValueRow :=
  [rowRR .add .add 1 xAdd, rowRR .sub .sub 1 xSub, rowRR .and .and 1 xAnd, rowRR .or .or 1 xOr, rowRR .xor .xor 1 xXor,
   rowRR .sll .sll 1 xSll, rowRR .srl .srl 1 xSrl, rowRR .sra .sra 1 xSra, rowRR .slt .slt 1 xSlt, rowRR .sltu .sltu 1 xSltu,
   rowRR .min .min 1 xMin, rowRR .max .max 1 xMax, rowRR .minu .minu 1 xMinu, rowRR .maxu .maxu 1 xMaxu,
   rowRR .addw .addw 1 xAddw, rowRR .subw .subw 1 xSubw, rowRR .mul .mul 3 xMul, rowRR .mulh .mulh 3 xMulh,
   rowRR .mulhu .mulhu 3 xMulhu] ++
  [rowRI .addi .addi xAdd, rowRI .andi .andi xAnd, rowRI .ori .ori xOr, rowRI .xori .xori xXor, rowRI .slti .slti xSlt,
   rowRI .slli .slli xSll, rowRI .srli .srli xSrl, rowRI .srai .srai xSra, rowR1 .clz .clz xClz, rowR1 .ctz .ctz xCtz,
   rowR1 .popc .popc xPopc] ++
  [⟨fun n => .ldk (.core n), .ldk, 1, fun _ => [], fun _ _ w => BitVec.ofNat 64 (imm16Of w)⟩,
   ⟨fun n => .ldks (.core n), .ldks, 1, fun _ => [], fun _ _ w => xImm (nsigned (imm16Of w) 16)⟩,
   ⟨fun n => .shk (.core n), .shk, 1, fun w => [(0, rdOf w)], fun c _ w => (c.gr (rdOf w) <<< 16) ||| BitVec.ofNat 64 (imm16Of w)⟩,
   ⟨.rdfrm, .rdfrm, 2, fun _ => [], fun _ cyc _ => BitVec.ofNat 64 (cyc / 6)⟩,
   ⟨.rdpos, .rdpos, 1, fun _ => [], fun _ cyc _ => BitVec.ofNat 64 (cyc % 6)⟩]

/-- A division: constructor, mnemonic, function (R93). -/
def divRows : List ((Issuer → W32 → Instr) × Mn × (W64 → W64 → W64)) :=
  [(.div, .div, xDiv), (.divu, .divu, xDivu), (.rem, .rem, xRem), (.remu, .remu, xRemu)]

/-- A conditional branch: constructor, mnemonic, condition (R82). -/
def branchRows : List ((Issuer → W32 → Instr) × Mn × (W64 → W64 → Bool)) :=
  [(.beq, .beq, xBeq), (.bne, .bne, xBne), (.blt, .blt, xBlt), (.bge, .bge, xBge), (.bltu, .bltu, xBltu), (.bgeu, .bgeu, xBgeu)]

/-- pc + 4 × an immediate, as a code address. -/
def pcRel (pc : Nat) (imm : Int) : Nat := (((pc : Int) + 4 * imm) % (2 ^ 41 : Int)).toNat

/-! ### Loads and stores of a core -/

/-- A load row: constructor, mnemonic, registers read, effective address, alignment, bytes, and where the data goes. -/
structure LoadRow where
  make : Fin 8 → W32 → Instr
  mn : Mn
  size : Nat
  align : Nat
  reads : W32 → List (Nat × Nat)
  file : Nat
  ea : Core → W32 → W64
  dst : Core → W32 → LoadDst

def scalarLoad (make : Issuer → W32 → Instr) (m : Mn) (k : Nat) (signed : Bool) : LoadRow :=
  ⟨fun n => make (.core n), m, k, k, fun w => [(0, rs1Of w)], 0, eaM, fun _ w => .g (rdOf w) k signed⟩

/-- The loads of a core (R88, R95, R98). -/
def loadRows : List LoadRow :=
  [scalarLoad (fun x w => .ldb (.scalar x w)) .ldb 1 true, scalarLoad .ldh .ldh 2 true, scalarLoad .ldw .ldw 4 true,
   scalarLoad .ldd .ldd 8 true, scalarLoad .ldbu .ldbu 1 false, scalarLoad .ldhu .ldhu 2 false, scalarLoad .ldwu .ldwu 4 false,
   ⟨.vld, .vld, 128, 128, fun w => [(0, rs1Of w), (2, vmPg w)], 1, eaV, fun c w => .v (rdOf w) (c.pr (vmPg w))⟩,
   ⟨.vldb32, .vldb32, 4, 4, fun w => [(0, rs1Of w), (2, vmPg w)], 1, eaV, fun c w => .bcast (rdOf w) (c.pr (vmPg w)) 4⟩,
   ⟨.vldb16, .vldb16, 2, 2, fun w => [(0, rs1Of w), (2, vmPg w)], 1, eaV, fun c w => .bcast (rdOf w) (c.pr (vmPg w)) 2⟩]

/-- A store row: constructor, mnemonic, alignment, registers read, effective address, and the bytes stored at an address. -/
structure StoreRow where
  make : Fin 8 → W32 → Instr
  mn : Mn
  align : Nat
  reads : W32 → List (Nat × Nat)
  ea : Core → W32 → W64
  bytes : Core → W32 → Nat → List (Nat × Byte)

def scalarStore (make : Issuer → W32 → Instr) (m : Mn) (k : Nat) : StoreRow :=
  ⟨fun n => make (.core n), m, k, fun w => [(0, rs1Of w), (0, rdOf w)], eaM,
    fun c w a => atAddr a (leBytes (c.gr (rdOf w)).toNat k)⟩

/-- The stores of a core (R95, R98, R201); VST stores the bytes of active lanes. -/
def storeRows : List StoreRow :=
  [scalarStore .stb .stb 1, scalarStore .sth .sth 2, scalarStore .stw .stw 4, scalarStore .std .std 8,
   ⟨.vst, .vst, 128, fun w => [(0, rs1Of w), (1, rdOf w), (2, vmPg w)], eaV,
    fun c w a => (atAddr a (leBytes (c.vr (rdOf w)).toNat 128)).filter (fun p => lane (c.pr (vmPg w)) ((p.1 - a) / 4))⟩]

/-- An effective address that R98, R99 and R190 let core `n` access with an alignment. -/
def AddressOk (hw : Hw) (n : Fin 8) (al : Nat) (ea : W64) : Prop :=
  ea.toNat % al = 0 ∧ ea.toNat < 2 ^ 41 ∧ corePerm hw n ea.toNat = true

/-- The beats of an access break no rule known at issue (R193, R219, R227), and once it is under way, as in `h`, the handoff table finds
nothing in its lines (R273). -/
def AccessOk (hw : Hw) (n : Fin 8) (pc cyc : Nat) (wr : Bool) (new : List Beat) (lines : List (Nat × Nat)) (h : Hw) : Prop :=
  beatsBad hw new = none ∧ handoffCheck n pc cyc wr lines h = h

/-- The hardware with the beats of an access placed and its operation numbered. -/
def placed (new : List Beat) (hw : Hw) : Hw := placeBeats new hw.newId

/-! ### Vector instructions -/

/-- A vector row: constructor, mnemonic, latency, destination file, registers read, and the result with its flags. -/
structure VecRow where
  make : Fin 8 → W32 → Instr
  mn : Mn
  lat : W32 → Nat
  file : Nat
  reads : W32 → List (Nat × Nat)
  value : Core → W32 → VOut × FpFlags

def vrow (make : Fin 8 → W32 → Instr) (m : Mn) (lat : Nat) (reads : W32 → List (Nat × Nat)) (f : Core → W32 → VReg × FpFlags) : VecRow :=
  ⟨make, m, fun _ => lat, 1, reads, fun c w => (.v (f c w).1, (f c w).2)⟩

def vrowBin (make : Fin 8 → W32 → Instr) (m : Mn) (lat : Nat) (op : Fmt → Nat → Nat → Nat × FpFlags) : VecRow :=
  vrow make m lat srcAB (fun c w => vBin (fmtOf w) (op (fmtOf w)) (c.pr (pgOf w)) (c.vr (rdOf w)) (c.vr (rs1Of w)) (c.vr (rs2Of w)))

def vrowUn (make : Fin 8 → W32 → Instr) (m : Mn) (op : Fmt → Nat → Nat × FpFlags) : VecRow :=
  vrow make m 1 srcA (fun c w => vUn (fmtOf w) (op (fmtOf w)) (c.pr (pgOf w)) (c.vr (rdOf w)) (c.vr (rs1Of w)))

def vrowFma (make : Fin 8 → W32 → Instr) (m : Mn) (np nc : Bool) : VecRow :=
  vrow make m 4 (fun w => [(1, rs1Of w), (1, rs2Of w), (1, vcOf w), (2, vfPg w)])
    (fun c w => vFma (vfFmt w) np nc (c.pr (vfPg w)) (c.vr (rdOf w)) (c.vr (rs1Of w)) (c.vr (rs2Of w)) (c.vr (vcOf w)))

def vrowInt (make : Fin 8 → W32 → Instr) (m : Mn) (lat : Nat) (op : Nat → Nat → Nat → Nat) : VecRow :=
  vrow make m lat srcAB
    (fun c w => (vInt (widthOf w) op (c.pr (pgOf w)) (c.vr (rdOf w)) (c.vr (rs1Of w)) (c.vr (rs2Of w)), .none))

def vrowCmp (make : Fin 8 → W32 → Instr) (m : Mn) (op : W32 → Nat → Nat → Bool × FpFlags) : VecRow :=
  ⟨make, m, fun _ => 2, 2, srcAB, fun c w =>
    (.p (vCmp (widthOf w) (op w) (c.pr (pgOf w)) (c.vr (rs1Of w)) (c.vr (rs2Of w))).1,
     (vCmp (widthOf w) (op w) (c.pr (pgOf w)) (c.vr (rs1Of w)) (c.vr (rs2Of w))).2)⟩

def vrowPred (make : Fin 8 → W32 → Instr) (m : Mn) (op : W64 → W64 → W64) : VecRow :=
  ⟨make, m, fun _ => 1, 2, fun w => [(2, rs1Of w), (2, rs2Of w)], fun c w => (.p (op (c.pr (rs1Of w)) (c.pr (rs2Of w))), .none)⟩

def vrowRed (make : Fin 8 → W32 → Instr) (m : Mn) (op : Fmt → Nat → Nat → Nat × FpFlags) : VecRow :=
  { vrow make m 0 srcA (fun c w => vReduce (fmt8Of w) (op (fmt8Of w)) (c.pr (pgOf w)) (c.vr (rs1Of w))) with
    lat := fun w => if wideOf w then 12 else 10 }

def vrowSlide (make : Fin 8 → W32 → Instr) (m : Mn) (op : Nat → Nat → W64 → VReg → VReg → VReg) : VecRow :=
  vrow make m 3 srcA (fun c w => (op (widthOf w) (rs2Of w) (c.pr (pgOf w)) (c.vr (rdOf w)) (c.vr (rs1Of w)), .none))

def vrowBcast (make : Fin 8 → W32 → Instr) (m : Mn) (wd : Nat) : VecRow :=
  vrow make m 2 (fun w => [(0, rs1Of w), (2, pgOf w)])
    (fun c w => (vBcast wd (c.pr (pgOf w)) (c.vr (rdOf w)) (c.gr (rs1Of w)).toNat, .none))

def vrowCvt (make : Fin 8 → W32 → Instr) (m : Mn) (op : Bool → W64 → VReg → VReg → VReg × FpFlags) : VecRow :=
  vrow make m 3 srcA (fun c w => op (nbit w.toNat 0) (c.pr (pgOf w)) (c.vr (rdOf w)) (c.vr (rs1Of w)))

/-- The vector instructions of one shape: they read vector, predicate and scalar registers and write one (R95, R97). -/
def vecRows : List VecRow :=
  [vrowBin .vadd .vadd 4 fAdd, vrowBin .vsub .vsub 4 fSub, vrowBin .vmul .vmul 4 fMul, vrowBin .vmin .vmin 2 fMin,
   vrowBin .vmax .vmax 2 fMax, vrowUn .vabs .vabs fAbs, vrowUn .vneg .vneg fNeg, vrowFma .vfma .vfma false false,
   vrowFma .vfms .vfms false true, vrowFma .vfnma .vfnma true false, vrowFma .vfnms .vfnms true true] ++
  [vrowInt .viadd .viadd 2 iAdd, vrowInt .visub .visub 2 iSub, vrowInt .vimul .vimul 3 iMul, vrowInt .vand .vand 1 iAnd,
   vrowInt .vor .vor 1 iOr, vrowInt .vxor .vxor 1 iXor, vrowInt .vshl .vshl 1 iShl, vrowInt .vshr .vshr 1 iShr,
   vrowInt .vsra .vsra 1 iSra] ++
  [vrowCmp .vcmpeq .vcmpeq (fun w => cEq (fmt8Of w)), vrowCmp .vcmplt .vcmplt (fun w => cLt (fmt8Of w)),
   vrowCmp .vcmple .vcmple (fun w => cLe (fmt8Of w)), vrowCmp .vcmpun .vcmpun (fun w => cUn (fmt8Of w)),
   vrowCmp .vicmpeq .vicmpeq (fun _ => cIeq), vrowCmp .vicmplt .vicmplt (fun w => cIlt (widthOf w)),
   vrowCmp .vicmpltu .vicmpltu (fun _ => cIltu), vrowPred .pand .pand (fun a b => a &&& b), vrowPred .por .por (fun a b => a ||| b),
   vrowPred .pxor .pxor (fun a b => a ^^^ b), { vrowPred .pnot .pnot (fun a _ => ~~~a) with reads := fun w => [(2, rs1Of w)] }] ++
  [vrowRed .vredadd .vredadd fAdd, vrowRed .vredmax .vredmax fMax, vrowRed .vredmin .vredmin fMin,
   vrow .vperm .vperm 3 srcAB
     (fun c w => (vPerm (widthOf w) (c.pr (pgOf w)) (c.vr (rdOf w)) (c.vr (rs1Of w)) (c.vr (rs2Of w)), .none)),
   vrowSlide .vslideup .vslideup vSlideUp, vrowSlide .vslidedn .vslidedn vSlideDn, vrowBcast .vbcast32 .vbcast32 32,
   vrowBcast .vbcast16 .vbcast16 16,
   ⟨.vext, .vext, fun _ => 3, 0, fun w => [(1, rs1Of w)], fun c w => (.g (vExtract (c.vr (rs1Of w)) (rs2Of w)), .none)⟩,
   vrow .vins .vins 2 (fun w => [(0, rs1Of w), (2, pgOf w)])
     (fun c w => (vInsert (c.pr (pgOf w)) (c.vr (rdOf w)) (rs2Of w) (c.gr (rs1Of w)), .none)),
   vrow .vmov .vmov 1 srcA (fun c w => (vMove (c.pr (pgOf w)) (c.vr (rdOf w)) (c.vr (rs1Of w)), .none)), vrowCvt .vcvtHS .vcvths vCvtHS, vrowCvt .vcvtSH .vcvtsh vCvtSH,
   vrowCvt .vcvtSW .vcvtsw (fun _ => vCvtSW), vrowCvt .vcvtWS .vcvtws (fun _ => vCvtWS)]

/-- A row of the divide-and-root unit (R96). -/
def vdivRows : List VecRow :=
  [{ vrowBin .vdiv .vdiv 0 fDiv with lat := divLat }, { vrowUn .vsqrt .vsqrt fSqrt with lat := divLat }]

/-- The flags that a vector instruction leaves in CORE_FPSTAT: those before, and in strict mode its own as well (R73). -/
def fpstatAfter (hw : Hw) (n : Fin 8) (f : FpFlags) : W32 :=
  if strict hw n then hw.reg (coreReg n 0x404) ||| BitVec.ofNat 32 (f.bits * 256) else hw.reg (coreReg n 0x404)

/-! ### KC's scalar instructions -/

/-- What KC comes to: everything that happens to memory by now has happened. -/
def kcComes (s : State) : Hw := settle s.hw.now s.begun

/-- What its instruction finds: the code word has been fetched, a correctable error of it counted (R195, R486). -/
def kcFinds (s : State) : Hw := kcFetched (kcComes s)

/-- KC executes the word `w`, which stands at its pc in good memory, as `m` (R406, R416). -/
def KcRuns (s : State) (w : W32) (m : Mn) : Prop :=
  kcReady s.hw = true ∧ (kcComes s).num (kcComes s).kc.pc 4 = w.toNat ∧ (kcComes s).isBad (kcComes s).kc.pc = false ∧ decodeKc w = some m

/-- A row of KC: constructor, mnemonic, and what it writes to rd. -/
structure KcRow where
  make : W32 → Instr
  mn : Mn
  value : Hw → W32 → W64

def kcRowRR (make : Issuer → W32 → Instr) (m : Mn) (f : W64 → W64 → W64) : KcRow :=
  ⟨make .kc, m, fun hw w => f (kcGet hw (rs1Of w)) (kcGet hw (rs2Of w))⟩

def kcRowRI (make : Issuer → W32 → Instr) (m : Mn) (f : W64 → W64 → W64) : KcRow :=
  ⟨make .kc, m, fun hw w => f (kcGet hw (rs1Of w)) (xImm (imm13Of w))⟩

def kcRowR1 (make : Issuer → W32 → Instr) (m : Mn) (f : W64 → W64) : KcRow :=
  ⟨make .kc, m, fun hw w => f (kcGet hw (rs1Of w))⟩

/-- The scalar instructions of KC that write a value, but for loads and links (R92, R93, R406). -/
def kcRows : List KcRow :=
  [kcRowRR .add .add xAdd, kcRowRR .sub .sub xSub, kcRowRR .and .and xAnd, kcRowRR .or .or xOr, kcRowRR .xor .xor xXor,
   kcRowRR .sll .sll xSll, kcRowRR .srl .srl xSrl, kcRowRR .sra .sra xSra, kcRowRR .slt .slt xSlt, kcRowRR .sltu .sltu xSltu,
   kcRowRR .min .min xMin, kcRowRR .max .max xMax, kcRowRR .minu .minu xMinu, kcRowRR .maxu .maxu xMaxu,
   kcRowRR .addw .addw xAddw, kcRowRR .subw .subw xSubw, kcRowRR .mul .mul xMul, kcRowRR .mulh .mulh xMulh,
   kcRowRR .mulhu .mulhu xMulhu, kcRowRR .div .div xDiv, kcRowRR .divu .divu xDivu, kcRowRR .rem .rem xRem,
   kcRowRR .remu .remu xRemu] ++
  [kcRowRI .addi .addi xAdd, kcRowRI .andi .andi xAnd, kcRowRI .ori .ori xOr, kcRowRI .xori .xori xXor, kcRowRI .slti .slti xSlt,
   kcRowRI .slli .slli xSll, kcRowRI .srli .srli xSrl, kcRowRI .srai .srai xSra, kcRowR1 .clz .clz xClz, kcRowR1 .ctz .ctz xCtz,
   kcRowR1 .popc .popc xPopc, ⟨.ldk .kc, .ldk, fun _ w => BitVec.ofNat 64 (imm16Of w)⟩,
   ⟨.ldks .kc, .ldks, fun _ w => xImm (nsigned (imm16Of w) 16)⟩,
   ⟨.shk .kc, .shk, fun hw w => (kcGet hw (rdOf w) <<< 16) ||| BitVec.ofNat 64 (imm16Of w)⟩]

/-! ### Writers -/

/-- The access of a writer reaches the cluster (R399, R446, R447, R492). -/
def Reaches (u : Writer) (s : State) : Prop := u = .kc ∨ (s.hw.clk.lock = true ∧ (s.hw.net.fenced = false ∨ 8 ≤ cluState s.hw))

/-! ### Array operations and accesses that may start -/

/-- The checks of an array operation with the word `w` (R126, R128–R133, R138, R155, R159) find nothing: it starts as `op` with the
prologue stages `ss` and the operands `d` that they deliver; `h` is the hardware with what the checkers noted. -/
def OpStarts (n : Fin 8) (x : MmaCtx) (w : W32) (hw : Hw) (op : ArrOp) (ss : List ProStage) (d : Opnds) (h : Hw) : Prop :=
  ∀ (fail : FaultRec → Hw → Hw) (k : ArrOp → List ProStage → Opnds → Hw → Hw), withMma n x w fail hw k = k op ss d h

/-- The checks of a read-out (R136–R138, R155, R167, R171–R173, R177, R186) find nothing: it goes by the plan `p`. -/
def ReadsOut (n : Fin 8) (x : ReadCtx) (hw : Hw) (p : ReadPlan) (h : Hw) : Prop :=
  ∀ k : ReadPlan → Hw → Hw, withReadout n x hw k = k p h

/-- The access of a writer reaches core `n`'s block, which the catalogue enables (R14). -/
def CoreReaches (u : Writer) (n : Fin 8) (s : State) : Prop := Reaches u s ∧ coreOn s.hw n.val = true

/-- What an access of core `n` in an uncorrectable word at `a` of the memory of `g` does to `h`: a record of class BM_UNCORRECTABLE or
SRAM_UNCORRECTABLE with the address of its instruction, which stops the core as of cycle `t`, and a count (R106, R195, R196). -/
def badStop (n : Fin 8) (pc t a : Nat) (g h : Hw) : Hw :=
  let key := wordOf (physOf g a)
  countBad key (Hw.asOf t (coreStopNow n (plainFault n (badClass key) pc a (Config.eccSyndrome key % 2 ^ 32))) h)
/-! ### Carrel commands -/

/-- The BCLK at which the engine issues its next record `r` (R230). -/
def carTime (s : State) (c : Fin 64) (r : CarRec) : Nat := (s.hw.car c.val).last + crDelta r

/-- The hardware at that BCLK, with what the engine has completed put away. -/
def carBegun (s : State) (c : Fin 64) (r : CarRec) : Hw :=
  carPurge c.val (2 * carTime s c r) (s.begun.at (2 * carTime s c r))

/-- Engine `c` runs, nothing holds it, and the record at its pc is `r`, free of uncorrectable errors, with what a charge over the budget
has not stopped (R196, R229, R230, R272). -/
def CarComesTo (s : State) (c : Fin 64) (r : CarRec) : Prop :=
  (s.hw.car c.val).st = .run ∧ (s.hw.car c.val).ended = false ∧ s.hw.hold.held = false ∧
    meterStops (carBegun s c r) (0x40 + c.val) (2 * carTime s c r) = false ∧
    carRecAt (carBegun s c r) c.val (s.hw.car c.val).pc = r ∧ ((carBegun s c r).car c.val).st = .run ∧
    badByte (carBegun s c r) (carScr c.val ((carBegun s c r).car c.val).pc) 32 = none

/-- The hardware as the engine has read the record, whose correctable errors are counted (R195). -/
def carRead (s : State) (c : Fin 64) (r : CarRec) : Hw :=
  correct (carScr c.val ((carBegun s c r).car c.val).pc) 32 (carBegun s c r)

/-- The engine issues `r`, whose OP is `op` and which R235 lets pass. -/
def CarIssues (s : State) (c : Fin 64) (op : Nat) (r : CarRec) : Prop :=
  CarComesTo s c r ∧ crOp r = op ∧ carIllegal r = false ∧ carMisaligned r = false ∧ carRange (carRead s c r) r = false

/-- The end of the span of the command `r` that the engine issues at BCLK `t` (R231, R232). -/
def carEndOf (c : Nat) (t : Nat) (r : CarRec) : Nat := if 1 ∈ carUses r then spanEnd c (t + 24) (carD r) else t + 24 + carD r

/-- The command `r` at the pc of engine `c`, which issues it at BCLK `t` (R231); the entries of a list that is still to land are judged as
they come (log entry 58). -/
def carOpOf (hw : Hw) (c t : Nat) (r : CarRec) : CarOp :=
  ⟨hw.nid, (hw.car c).pc, r, t + 24, carEndOf c t r, carEndOf c t r + carLat r, false, isList r && !listKnown hw c r, none⟩

/-- Its scratch operands have landed at T0, its resources are free, its list (if it has one that stands) and its beats break no rule, and
the handoff table finds nothing: it starts as `op`; `h` is the hardware with what the checkers noted (R218, R231, R233, R235, R244, R273). -/
def CarFits (hw : Hw) (c t : Nat) (r : CarRec) (op : CarOp) (h : Hw) : Prop :=
  ∃ g, scratchEarly c (t + 24) r hw = (0, g) ∧ busyResource (hw.car c) r (t + 24) (carEndOf c t r) = none ∧
    op = carOpOf g c t r ∧ listBad g c r = none ∧ spanBad g c op = false ∧
    carHandoff g c t (carEndOf c t r) r (hw.car c).pc = (none, h)

/-- The hardware with the command entered: in flight from T0 to E, with its lines of CSM placed, its scratch results landing after its
latency, its lanes charged, and the engine at the next record (R231–R233, R236). A beat of another unit that already holds a BCLK of the
span takes the command's (R219). -/
def carEntered (h : Hw) (c t : Nat) (op : CarOp) : Hw :=
  let r := op.cmd
  placeBeats (lineBeats h c op) (h.newId.modCar c (fun e => { e with
    pc := (e.pc + 32) % 0x40000
    last := t
    ops := e.ops ++ [{ op with lost := spanLost h c op }]
    lands := e.lands ++ (carScrWrites r).map (fun x => (x.1, x.1 + x.2, landAt op.done))
    charges := if carMode r = 0 ∨ op.e = op.t0 then e.charges
      else e.charges ++ [⟨frameOf (2 * op.t0), frameOf (2 * op.e - 1), carMode r, op.pc⟩] }))

/-- The carrel commands whose effect is their reads and writes: constructor and OP. -/
def carRows : List ((Fin 64 → CarRec → Instr) × Nat) :=
  [(.dot, 0x01), (.axpy, 0x02), (.scale, 0x03), (.reduce, 0x04), (.opt, 0x05), (.rerange, 0x06), (.gather, 0x07), (.scatter, 0x08),
   (.csum, 0x09), (.topk, 0x0A), (.atom, 0x0B), (.move, 0x0C), (.ldv, 0x10), (.stv, 0x12)]

/-! ### Requests that wait for slots -/

/-- The hardware with the new request `b` as the present cycle comes to serve one: exact accesses have been made, and a queued fault
record waits before all other requests (R17, R482). -/
def asking (b : BgReq) (h : Hw) : Hw := ringAsk (settle h.now (bgAdd b h))

/-- The present cycle serves the new request `b`: its slot is free, and no request of a lower unit number can be served (R17, R18, R220). -/
def ServedNow (b : BgReq) (h : Hw) : Prop := nextServed (asking b h) h.now = some (.inl b)

/-- No request can be served in the present cycle, the new one `b` among them. -/
def NoneServed (b : BgReq) (h : Hw) : Prop := nextServed (asking b h) h.now = none

/-- The hardware of a request without accesses that the present cycle serves, with the request taken out. -/
def servedFrom (b : BgReq) (h : Hw) : Hw :=
  let g := (asking b h).at h.now
  { g with bg := g.bg.erase b }

/-! ### Far packets in sequence -/

/-- The header names the next packet in sequence of a channel of `g` that carries packets (R385, R386). -/
def FarInOrder (g : Hw) (c : Nat) (hd : List Byte) : Prop :=
  farLive g c = true ∧ leAt hd 4 2 = g.fld (farReg c 0x18) 16 16

/-- A fenced cluster does not perform the packet (R399, R492). -/
def FarFenced (g : Hw) (hd : List Byte) : Prop :=
  g.net.fenced = true ∧ ¬(hHost hd = true ∧ 8 ≤ cluState g) ∧ hTyp hd ≠ 3 ∧ hTyp hd ≠ 5 ∧ hTyp hd ≠ 8

/-- An accepted packet is counted, fills the pool's lowest free buffer, which is no more one granted, and its acknowledgement falls due
within 8 frames (R385, R386, R388, R389). -/
def farTaken (c : Nat) (pl : List Byte) (g : Hw) : Hw :=
  (poolFill (poolBuffer g) pl (g.setFld (farReg c 0x18) 16 16 (g.fld (farReg c 0x18) 16 16 + 1))).modChan c (fun ch =>
    { ch with granted := ch.granted - 1, ackDue := ch.ackDue.or (some (g.frame + 8)) })

/-- The request of a packet that is performed, and of one that is answered PEER_FENCED. -/
def farReq (g : Hw) (c : Nat) (hd pl : List Byte) : BgReq :=
  { bgNew g (0x24 + g.fld (farReg c 0) 18 1) (farTodo g c hd pl) (.far c hd pl (poolBuffer g)) with ans := 0 }
def farNo (g : Hw) (c : Nat) (hd pl : List Byte) : BgReq :=
  { bgNew g (0x24 + g.fld (farReg c 0) 18 1) [] (.far c hd pl (poolBuffer g)) with ans := cPEER_FENCED }

/-- A packet that is performed on the hardware `g` is acknowledged within 8 frames (R386). -/
def farDueAt (c : Nat) (g : Hw) : Hw :=
  let h := syncTo g.now g
  h.modChan c (fun ch => { ch with ackDue := ch.ackDue.or (some (h.frame + 8)) })

/-! ### Accesses and traps of KC -/

/-- Step `i` of the instruction that KC executes has asked for the accesses `todo`, in this command or an earlier one (R17). -/
def kcAsked (i : Nat) (todo : List BgAcc) (g : Hw) : Hw :=
  if bgWaits g (.kc i) then g else bgArrive (bgNew g 0x18 todo (.kc i)) g

/-- They have been served: `b` has what they read, and `h` is the hardware from which the instruction goes on. -/
def KcServed (g : Hw) (i : Nat) (todo : List BgAcc) (b : BgReq) (h : Hw) : Prop :=
  bgDone (kcAsked i todo g) (.kc i) = some b ∧ h = bgDrop (.kc i) (kcAsked i todo g)

/-- They wait for their slots, and the instruction with them. -/
def KcStays (g : Hw) (i : Nat) (todo : List BgAcc) : Prop := bgDone (kcAsked i todo g) (.kc i) = none

/-- The same for a step that brings the bytes `l` along: they stand before what the request reads (R417–R420). -/
def microAsked (i : Nat) (l : List Byte) (todo : List BgAcc) (g : Hw) : Hw :=
  if bgWaits g (.kc i) then g else bgArrive { bgNew g 0x18 todo (.kc i) with got := l } g
def MicroServed (g : Hw) (i : Nat) (l : List Byte) (todo : List BgAcc) (b : BgReq) (h : Hw) : Prop :=
  bgDone (microAsked i l todo g) (.kc i) = some b ∧ h = bgDrop (.kc i) (microAsked i l todo g)
def MicroStays (g : Hw) (i : Nat) (l : List Byte) (todo : List BgAcc) : Prop := bgDone (microAsked i l todo g) (.kc i) = none

/-- KC's entry into the trap window from `g`, what the cause saves being in `h`: PIE takes the IE of `g`, IE clears, IN_TRAP is set, and KC
goes to the vector of the cause (R412, R413). -/
def kcEnters (cause : Nat) (g h : Hw) : Hw :=
  kcJump cause (((h.setFld KCP_TSTAT 2 1 (g.fld KCP_TSTAT 1 1)).clrReg KCP_TSTAT 2).orReg KCP_TSTAT 1)

/-- The loads of KC: constructor, mnemonic, bytes, signed. -/
def kcLoadRows : List ((W32 → Instr) × Mn × Nat × Bool) :=
  [(fun w => .ldb (.scalar .kc w), .ldb, 1, true), (fun w => .ldh .kc w, .ldh, 2, true), (fun w => .ldw .kc w, .ldw, 4, true),
   (fun w => .ldd .kc w, .ldd, 8, true), (fun w => .ldbu .kc w, .ldbu, 1, false), (fun w => .ldhu .kc w, .ldhu, 2, false),
   (fun w => .ldwu .kc w, .ldwu, 4, false)]

/-- The stores of KC: constructor, mnemonic, bytes. -/
def kcStoreRows : List ((W32 → Instr) × Mn × Nat) :=
  [(fun w => .stb .kc w, .stb, 1), (fun w => .sth .kc w, .sth, 2), (fun w => .stw .kc w, .stw, 4), (fun w => .std .kc w, .std, 8)]

/-! ### Ports, firmware and queues -/

/-- The flits of one transaction that port `p` takes: the clock runs, each passed its check and is of the type `typ`, the first is `f`,
addressed to this cluster or read without an ID in CATALOGUE (R368, R369, R447). -/
def MeshTakes (hw : Hw) (typ : Nat) (fl : List Flit) (f : Flit) : Prop :=
  hw.clk.lock = true ∧ fl.head? = some f ∧ (∀ x ∈ fl, x.ok = true ∧ x.typ = typ) ∧ (f.dst = hw.cid ∨ cluState hw = 1)

/-- A packet of type `typ` with the header `hd` and the payload `pl` that channel `c` hears: the clock runs and the catalogue has been
applied, the channel is configured, its port's link is up, the CRC matches and the header names the type (R383, R384, R446, R447). -/
def FarHears (hw : Hw) (c : Fin 32) (typ : Nat) (hd pl : List Byte) : Prop :=
  hw.clk.lock = true ∧ cluState hw ≠ 1 ∧ nbit (hw.reg (farReg c.val 0)).toNat 31 = true ∧ hw.net.linkup.getD (hw.fld (farReg c.val 0) 18 1) false = true ∧
    crc32c none (bytesAt hd 0 0x7C ++ pl) = leAt hd 0x7C 4 ∧ leAt hd 0 1 = typ

/-- Firmware has fetched what it decides the head command of queue `q` from: the bytes `b`, its record and, where the decision needs
it, its phase list (R17, R347). -/
def HeadKnown (hw : Hw) (q : Nat) (b : List Byte) : Prop :=
  ∃ r, headCmd hw q = some r ∧ ((listOf hw q r = none ∧ b = r) ∨
    ∃ a l, listOf hw q r = some a ∧ bgDone hw (.list q) = some l ∧ b = r ++ l.got)

/-- The command at a queue's head, as firmware takes it from the bytes `b`. -/
def headRecord (hw : Hw) (q : Nat) (b : List Byte) : Cmd :=
  { qid := q, cid := cmdCid b, idx := qSqHead (qCtx hw q), typ := cmdType b, body := b.take 64, nphase := 0, allows := [],
    next := 0, allow := 0, promise := 0, holdx := 0, status := 0, reason := 0, refused := false, fin := false, hold := false, late := false,
    wall := false, at_ := hw.frame + cmdPi hw q b }

/-- A message of type `t` and its right length waits in mailbox `m` (R424). -/
def MailWaits (hw : Hw) (m t : Nat) : Prop :=
  nbit (hw.reg (mbox m + 0x204)).toNat 1 = true ∧ nbits (inWord hw m 0) 0 8 = t ∧ inLength m t = some (nbits (inWord hw m 0) 16 7)

end Sys2Proof.Machine
end

