-- ==== Sys2Proof/Certificates/Slice0/Obligations.lean ====
section
/-!
DEFINITION. The statements about the model, for the provers.
-/
open Sys2Proof Sys2Proof.Machine

/-! ### The block as a whole -/

/-- For every command and state, a step with the command at the front of the queue is the command's `exec` with the queue's rest; an empty
queue idles (log entry 1). -/
def Obligations.StepRunsTheFrontCommand : Prop :=
  (∀ (i : Instr) (s : State), step { s with pending := i :: s.pending } = exec i s) ∧
    (∀ s : State, s.pending = [] → step s = .next s)

/-- Every command answers a next state and leaves the commands that wait as they are: nothing ends a run. -/
def Obligations.EveryCommandAnswersNext : Prop :=
  ∀ (i : Instr) (s : State), ∃ t, exec i s = .next t ∧ t.pending = s.pending

/-- Whatever the state, a command leaves memory, the stored registers, the remap tables and the semaphores in their one canonical form;
so from a canonical state every step is safe. -/
def Obligations.StepsKeepTablesCanonical : Prop :=
  (∀ (i : Instr) (s t : State), exec i s = .next t → Tables.wf t.hw) ∧ (∀ s : State, Tables.wf s.hw → SafeStep s)

/-- The tables of the reset state are canonical. -/
def Obligations.ResetTablesCanonical : Prop := Tables.wf State.reset.hw

/-- A byte written reads back, and every byte stored elsewhere reads as before; a write marks the row of a BM byte that a rebuild
has copied, and no other (R250). -/
def Obligations.MemoryReadsWhatWasWritten : Prop :=
  ∀ (hw : Hw) (a : Nat) (b : Byte), Memory.wf hw →
    (hw.putByte a b).byte a = b ∧ (∀ x, physOf hw x ≠ physOf hw a → (hw.putByte a b).byte x = hw.byte x) ∧
      Memory.wf (hw.putByte a b) ∧ (hw.putByte a b).regs = hw.regs ∧
      (∀ g o, regionOf hw a = .bm g o → g * 2 ^ 15 + rowOf o ∈ hw.bmc.copied →
        (hw.putByte a b).bmc = { hw.bmc with dirty := setIns (g * 2 ^ 15 + rowOf o) hw.bmc.dirty }) ∧
      ((∀ g o, regionOf hw a = .bm g o → g * 2 ^ 15 + rowOf o ∉ hw.bmc.copied) → (hw.putByte a b).bmc = hw.bmc)

/-! ### Scalar instructions of a core -/

/-- A scalar instruction of a core whose operands have landed and whose destination is free writes its value to rd, which g0 discards,
goes on to the next instruction, and changes nothing else (R78, R92). -/
def Obligations.CoreValueInstructionsWriteRd : Prop :=
  ∀ r ∈ valueRows, ∀ (n : Fin 8) (w : W32) (s : State), let h := issued s n w; let c := h.core n; let cyc := issueCyc c w
    Issues s n w r.mn → Quiet s h → ReadsLanded c cyc (r.reads w) → WriteFree c cyc (0, rdOf w) r.lat →
    ∃ t, exec (r.make n w) s = .next t ∧ CoreFrame n s h t ∧
      t.hw.core n =
        { c.setG (rdOf w) (r.value c cyc w) with
          pc := nextPc c, next := (t.hw.core n).next, slot0 := (t.hw.core n).slot0, idle := (t.hw.core n).idle
          sb := (t.hw.core n).sb }

/-- A division of a core with the divider free writes quotient or remainder to rd and occupies the divider for 20 cycles; within 20
cycles of the previous one it faults with SCHED_SLOT_CONFLICT: the core stops with CORE_PC at the division, and rd keeps its value (R93,
R94, R105). -/
def Obligations.CoreDivisionsUseTheDivider : Prop :=
  ∀ r ∈ divRows, ∀ (n : Fin 8) (w : W32) (s : State), let h := issued s n w; let c := h.core n; let cyc := issueCyc c w
    Issues s n w r.2.1 → ReadsLanded c cyc [(0, rs1Of w), (0, rs2Of w)] →
    (c.divFree ≤ cyc → WriteFree c cyc (0, rdOf w) 20 → Quiet s h →
      ∃ t, exec (r.1 (.core n) w) s = .next t ∧ CoreFrame n s h t ∧
        t.hw.core n =
          { c.setG (rdOf w) (r.2.2 (c.gr (rs1Of w)) (c.gr (rs2Of w))) with
            pc := nextPc c, next := (t.hw.core n).next, slot0 := (t.hw.core n).slot0, idle := (t.hw.core n).idle
            sb := (t.hw.core n).sb, divFree := cyc + 20 }) ∧
    (cyc < c.divFree → ∃ b : Hw, Does (r.1 (.core n) w) s b ∧ (b.core n).st = .stoppedFault ∧
      (b.core n).lastClass = cSCHED_SLOT_CONFLICT ∧ (b.core n).pc = c.pc ∧ (b.core n).g = c.g)

/-- Division never traps: on KC and on a core it completes whatever its operands are. A division by zero gives a quotient of all ones and the
dividend as remainder; −2^63 by −1 gives −2^63 and 0 (R93). -/
def Obligations.DivisionCorners : Prop :=
  (∀ a : W64, xDiv a 0 = BitVec.allOnes 64 ∧ xDivu a 0 = BitVec.allOnes 64 ∧ xRem a 0 = a ∧ xRemu a 0 = a) ∧
    xDiv (BitVec.intMin 64) (BitVec.allOnes 64) = BitVec.intMin 64 ∧ xRem (BitVec.intMin 64) (BitVec.allOnes 64) = 0 ∧
    (∀ r ∈ divRows, ∀ (w : W32) (s : State), let h := kcFinds s; KcRuns s w r.2.1 → Quiet s h →
      ∃ t, exec (r.1 .kc w) s = .next t ∧ t.hw.reg KCP_TSTAT = h.reg KCP_TSTAT ∧
        t.hw.kc = Kc.put (kcWin h) (rdOf w) (r.2.2 (kcGet h (rs1Of w)) (kcGet h (rs2Of w)))
          { h.kc with pc := (h.kc.pc + 4) % 2 ^ 64, micro := false }) ∧
    (∀ r ∈ divRows, ∀ (n : Fin 8) (w : W32) (s : State), let h := issued s n w; let c := h.core n; let cyc := issueCyc c w
      Issues s n w r.2.1 → Quiet s h → ReadsLanded c cyc [(0, rs1Of w), (0, rs2Of w)] → c.divFree ≤ cyc → WriteFree c cyc (0, rdOf w) 20 →
      ∃ t, exec (r.1 (.core n) w) s = .next t ∧ (t.hw.core n).st = .run ∧
        (t.hw.core n).g = (c.setG (rdOf w) (r.2.2 (c.gr (rs1Of w)) (c.gr (rs2Of w)))).g)

/-- A conditional branch whose registers have landed goes to pc + 4 × imm14 three cycles later where its condition holds, and to the
next instruction otherwise; JAL and JALR write pc + 4 to rd and go to pc + 4 × imm22 and to rs1 with bits [1:0] cleared, three cycles
later (R82, R92). -/
def Obligations.CoreControlTransfers : Prop :=
  (∀ r ∈ branchRows, ∀ (n : Fin 8) (w : W32) (s : State), let h := issued s n w; let c := h.core n; let cyc := issueCyc c w
    Issues s n w r.2.1 → Quiet s h → ReadsLanded c cyc [(0, rdOf w), (0, rs1Of w)] →
    ∃ t, exec (r.1 (.core n) w) s = .next t ∧ CoreFrame n s h t ∧
      (r.2.2 (c.gr (rdOf w)) (c.gr (rs1Of w)) = true →
        t.hw.core n = { c with pc := pcRel c.pc (imm14Of w) % 2 ^ 41, next := cyc + 3, slot0 := none, idle := none }) ∧
      (r.2.2 (c.gr (rdOf w)) (c.gr (rs1Of w)) = false →
        t.hw.core n = { c with
          pc := nextPc c, next := (t.hw.core n).next, slot0 := (t.hw.core n).slot0, idle := (t.hw.core n).idle })) ∧
  (∀ (n : Fin 8) (w : W32) (s : State), let h := issued s n w; let c := h.core n; let cyc := issueCyc c w
    c.pc < 2 ^ 41 → Issues s n w .jal → Quiet s h → WriteFree c cyc (0, rdOf w) 1 →
    ∃ t, exec (.jal (.core n) w) s = .next t ∧ CoreFrame n s h t ∧
      t.hw.core n = { c.setG (rdOf w) (BitVec.ofNat 64 (nextPc c)) with
        pc := pcRel c.pc (imm22Of w) % 2 ^ 41, next := cyc + 3, slot0 := none, idle := none, sb := (t.hw.core n).sb }) ∧
  (∀ (n : Fin 8) (w : W32) (s : State), let h := issued s n w; let c := h.core n; let cyc := issueCyc c w
    Issues s n w .jalr → Quiet s h → ReadsLanded c cyc [(0, rs1Of w)] → WriteFree c cyc (0, rdOf w) 1 →
    ∃ t, exec (.jalr (.core n) w) s = .next t ∧ CoreFrame n s h t ∧
      t.hw.core n = { c.setG (rdOf w) (BitVec.ofNat 64 (nextPc c)) with
        pc := ((c.gr (rs1Of w)).toNat - (c.gr (rs1Of w)).toNat % 4) % 2 ^ 41
        next := cyc + 3, slot0 := none, idle := none, sb := (t.hw.core n).sb })

/-- A load of a core whose address it may read, aligned, with its ports and beat free, goes under way: the register's data comes with
LOAD_RETURN, after the latency of the memory; no register but the pc and no byte of memory changes (R88, R98, R99, R190). -/
def Obligations.CoreLoadsGoUnderWay : Prop :=
  ∀ r ∈ loadRows, ∀ (n : Fin 8) (w : W32) (s : State), let h := issued s n w; let c := h.core n; let cyc := issueCyc c w
    let a := (r.ea c w).toNat; let b := readBeat h n.val h.nid c.pc cyc 0 a r.size
    Issues s n w r.mn → Quiet s h → ReadsLanded c cyc (r.reads w) → AddressOk h n r.align (r.ea c w) → c.rdPort ≤ cyc →
    WriteFree c cyc (r.file, rdOf w) (latMem h a) → beatsBad h [b] = none → h.chkErr = [] →
    handoffFault h n.val (frameOf cyc) a c.pc false = none →
    ∃ t, exec (r.make n w) s = .next t ∧ (∀ m, m ≠ n → t.hw.core m = h.core m) ∧ (∀ x, t.hw.byte x = h.byte x) ∧
      (∀ p, p ≠ 0xD00040 → t.hw.reg p = h.reg p) ∧
      (∃ drop, t.hw.core n = { c with
        pc := nextPc c, next := (t.hw.core n).next, slot0 := (t.hw.core n).slot0, idle := (t.hw.core n).idle, sb := (t.hw.core n).sb
        loads := c.loads ++ [⟨h.nid, c.pc, cyc + latMem h a, a, r.dst c w, false, drop, drop⟩] }) ∧
      b ∈ t.hw.beats

/-- A store of a core whose address it may write, aligned, with its port and beat free, goes under way: a beat will write exactly its
bytes at its address, and its acknowledgement comes with STORE_ACK after the latency of the memory; no register but the pc changes, and
no byte of memory yet (R98–R100, R201). -/
def Obligations.CoreStoresGoUnderWay : Prop :=
  ∀ r ∈ storeRows, ∀ (n : Fin 8) (w : W32) (s : State), let h := issued s n w; let c := h.core n; let cyc := issueCyc c w
    let a := (r.ea c w).toNat; let b := writeBeat h n.val h.nid c.pc cyc 0 a (some n.val) (r.bytes c w a)
    Issues s n w r.mn → Quiet s h → ReadsLanded c cyc (r.reads w) → AddressOk h n r.align (r.ea c w) →
    portFree c.wrPort cyc 1 = true → beatsBad h [b] = none → handoffFault h n.val (frameOf (cyc + latMem h a)) a c.pc true = none →
    ∃ t, exec (r.make n w) s = .next t ∧ (∀ m, m ≠ n → t.hw.core m = h.core m) ∧ (∀ x, t.hw.byte x = h.byte x) ∧
      (∀ p, p ≠ 0xD00040 → t.hw.reg p = h.reg p) ∧
      t.hw.core n = { c with
        pc := nextPc c, next := (t.hw.core n).next, slot0 := (t.hw.core n).slot0, idle := (t.hw.core n).idle
        wrPort := (t.hw.core n).wrPort
        stores := c.stores ++ [⟨h.nid, c.pc, cyc + latMem h a, [a]⟩] } ∧
      b ∈ t.hw.beats

/-! ### KC's scalar instructions -/

/-- A scalar instruction of KC writes its value to rd of the current window, where w.s0 discards it, and goes on to the next
instruction; no memory, register or other unit changes, but for KC's pending interrupts (R92, R93, R406, R407). -/
def Obligations.KcValueInstructionsWriteRd : Prop :=
  ∀ r ∈ kcRows, ∀ (w : W32) (s : State), let h := kcFinds s; KcRuns s w r.mn → Quiet s h →
    ∃ t, exec (r.make w) s = .next t ∧
      t.hw.kc = Kc.put (kcWin h) (rdOf w) (r.value h w) { h.kc with pc := (h.kc.pc + 4) % 2 ^ 64, micro := false } ∧
      t.hw.cores = h.cores ∧ (∀ p, p ≠ 0xD00040 → t.hw.reg p = h.reg p) ∧ t.hw.beats = h.beats ∧
      RestFrame s { h with kc := t.hw.kc } t

/-! ### Vector instructions -/

/-- A vector instruction whose sources have landed and whose destination is free writes its result to its register of file v, p or g,
goes on to the next instruction, charges the vector unit from issue to landing, and in strict mode adds its flags to CORE_FPSTAT;
nothing else changes (R64, R66, R73, R79, R80, R95, R97, R269). -/
def Obligations.VectorInstructionsWriteTheirResult : Prop :=
  ∀ r ∈ vecRows, ∀ (n : Fin 8) (w : W32) (s : State), let h := issued s n w; let c := h.core n; let cyc := issueCyc c w
    Registers.wf h → Issues s n w r.mn → ReadsLanded c cyc (r.reads w) → WriteFree c cyc (r.file, rdOf w) (r.lat w) →
    Quiet s (chargeVec n c.pc cyc (r.lat w) h) →
    ∃ t, exec (r.make n w) s = .next t ∧ VectorFrame n s h t ∧
      t.hw.reg (coreReg n 0x404) = fpstatAfter h n (r.value c w).2 ∧
      t.hw.core n =
        { c.out (rdOf w) (r.value c w).1 with
          pc := nextPc c, next := (t.hw.core n).next, slot0 := (t.hw.core n).slot0, idle := (t.hw.core n).idle
          sb := (t.hw.core n).sb, fpSet := (t.hw.core n).fpSet
          charges := c.charges ++ [⟨cyc, cyc + r.lat w, 0, c.pc⟩] }

/-- VDIV and VSQRT do the same with the divide-and-root unit free, which they occupy for 4 cycles; while it is occupied they fault with
SCHED_SLOT_CONFLICT, and the vector registers keep their values (R95, R96, R105). -/
def Obligations.VectorDivideAndRoot : Prop :=
  ∀ r ∈ vdivRows, ∀ (n : Fin 8) (w : W32) (s : State), let h := issued s n w; let c := h.core n; let cyc := issueCyc c w
    Issues s n w r.mn → ReadsLanded c cyc (r.reads w) →
    (Registers.wf h → c.vdivFree ≤ cyc → WriteFree c cyc (1, rdOf w) (r.lat w) → Quiet s (chargeVec n c.pc cyc (r.lat w) h) →
      ∃ t, exec (r.make n w) s = .next t ∧ VectorFrame n s h t ∧
        t.hw.reg (coreReg n 0x404) = fpstatAfter h n (r.value c w).2 ∧
        t.hw.core n =
          { c.out (rdOf w) (r.value c w).1 with
            pc := nextPc c, next := (t.hw.core n).next, slot0 := (t.hw.core n).slot0, idle := (t.hw.core n).idle
            sb := (t.hw.core n).sb, fpSet := (t.hw.core n).fpSet, vdivFree := cyc + 4
            charges := c.charges ++ [⟨cyc, cyc + r.lat w, 0, c.pc⟩] }) ∧
    (cyc < c.vdivFree → ∃ b : Hw, Does (r.make n w) s b ∧ (b.core n).st = .stoppedFault ∧
      (b.core n).lastClass = cSCHED_SLOT_CONFLICT ∧ (b.core n).pc = c.pc ∧ (b.core n).v = c.v)

/-! ### What every command ends with -/

/-- What a command ends with, where no ledger point of firmware is passed, the meter has nothing to say of the cycles that are over, and no
rebuild ends: a request for a power state lapses, with its reason in REFUSE, where its conditions have ceased to hold; otherwise the
memory, every unit, and every register but KC's pending interrupts are as the command's own effect left them; interrupts only become
pending, each named event's among them; what stands on the pins is what the command sent, and nothing once OFF was accepted (R271, R416,
R472, R475). -/
def Obligations.EndOfEveryCommand : Prop :=
  ∀ a b : Hw, (b.now ≤ a.now ∨ MeterFits b) → noticePoints a b = [] → (b.bmc.busy = true ∨ a.bmc.busy = false) →
    (∀ n, b.boot.pwrReq = some n → n ≠ 3 → pwrRefuse b n ≠ 0 → finish a b = canonTables (muteOff (kcWake (noticeChange a
      ({ b.setFld 0x200034 8 8 (pwrRefuse b n) with boot := { b.boot with pwrReq := none } }.setFld 0x200034 2 1 0))))) ∧
    (powerHolds b = true →
    (∀ p, p ≠ 0xD00040 → (finish a b).reg p = b.reg p) ∧
      (Tables.wf b → ∀ x, (finish a b).byte x = b.byte x) ∧
      (∀ i, nbit (b.reg 0xD00040).toNat i = true → nbit ((finish a b).reg 0xD00040).toNat i = true) ∧
      (wasReset a b = false → ∀ i ∈ noticeSources a b, nbit ((finish a b).reg 0xD00040).toNat i = true) ∧
      (∀ i, semVal (finish a b) i = semVal b i) ∧ (∀ e ∈ (finish a b).out, e ∈ b.out) ∧
      (offAccepted b = false → (finish a b).out = b.out) ∧
      (offAccepted b = true → (finish a b).out = []) ∧
      finish a b = { b with
        mem := (finish a b).mem
        regs := (finish a b).regs
        active := (finish a b).active
        shadow := (finish a b).shadow
        sync := { b.sync with vals := (finish a b).sync.vals }
        kc := { b.kc with wfi := (finish a b).kc.wfi }
        out := (finish a b).out })

/-! ### The system instructions of a core -/

/-- TRAP enters the handler at CORE_TVEC 4 cycles later, with the address of the next instruction in CORE_EPC and its immediate in
CORE_TCAUSE; in the handler it is illegal (R103, R104). ERET returns to CORE_EPC 3 cycles later (R82, R103). FENCE lets the next
instruction issue in the cycle after the last acknowledgement of an earlier store (R100), IDLE lets it issue imm12 cycles later, and the
count ends there; after HALT none issues (R84, R109). MFSR writes a register of the core's own block, as a read of it answers, to rd; MTSR
writes rs1[31:0] to it, in the cycle of its issue, as that register's access lets it, and a write of a sequence entry of an active array faults at issue (R110, R141). -/
def Obligations.CoreSystemAndSpecialRegisters : Prop :=
  (∀ (n : Fin 8) (w : W32) (s : State), let h := issued s n w; let c := h.core n; let cyc := issueCyc c w
    (Issues s n w .trap → c.inTrap = false →
      Does (.trap n w) s (((h.setReg64 (coreReg n 0x28) (nextPc c)).setReg (coreReg n 0x30) (BitVec.ofNat 32 (imm12Of w))).setCore n
        { c with inTrap := true, pc := h.reg64 (coreReg n 0x20) % 2 ^ 41, next := cyc + 4, slot0 := none, idle := none })) ∧
    (Issues s n w .trap → c.inTrap = true → Does (.trap n w) s (coreFault n (plainFault n cILLEGAL_INSTR c.pc 0 0) h)) ∧
    (Issues s n w .eret →
      Does (.eret n w) s (h.setCore n
        { c with inTrap := false, pc := h.reg64 (coreReg n 0x28) % 2 ^ 41, next := cyc + 3, slot0 := none, idle := none })) ∧
    (Issues s n w .fence →
      Does (.fence n w) s (h.setCore n
        { goneOn c cyc w with next := c.stores.foldl (fun m o => max m (o.ack + 1)) (max c.next (cyc + 1)), slot0 := none })) ∧
    (Issues s n w .idle →
      Does (.idle n w) s (h.setCore n
        { goneOn c cyc w with next := max (max c.next (cyc + 1)) (cyc + imm12Of w), idle := some (cyc + imm12Of w) })) ∧
    (Issues s n w .halt → Does (.halt n w) s (h.setCore n { goneOn c cyc w with slot0 := none, halting := true }))) ∧
  (∀ (n : Fin 8) (s : State), let c := s.hw.core n
    (∀ t, c.idle = some t → c.st = .run → partnerWaits c = false →
      Does (.idleExpiry n) s ((s.begun.at t).setCore n { c with idle := none })) ∧
    (c.idle = none ∨ c.st ≠ .run ∨ partnerWaits c = true → Does (.idleExpiry n) s s.begun)) ∧
  (∀ (n : Fin 8) (w : W32) (s : State), let h := issued s n w; let c := h.core n; let cyc := issueCyc c w
    (Issues s n w .mfsr → WriteFree c cyc (0, rdOf w) 2 →
      let r := readRegister n.val (coreReg n (4 * imm12Of w)) (advance n w cyc (enterLanding n cyc 2 (0, rdOf w) h))
      Does (.mfsr n w) s (r.2.setCore n ((r.2.core n).setG (rdOf w) (BitVec.ofNat 64 r.1.toNat)))) ∧
    (Issues s n w .mtsr → ReadsLanded c cyc [(0, rs1Of w)] → ¬ (0x200 ≤ 4 * imm12Of w ∧ 4 * imm12Of w < 0x240 ∧ c.ast ≠ .idle) →
      Does (.mtsr n w) s (Hw.asOf cyc (writeCore n (4 * imm12Of w) n.val ((c.gr (rs1Of w)).setWidth 32)) (advance n w cyc h))) ∧
    (Issues s n w .mtsr → ReadsLanded c cyc [(0, rs1Of w)] → 0x200 ≤ 4 * imm12Of w → 4 * imm12Of w < 0x240 → c.ast ≠ .idle →
      Does (.mtsr n w) s (coreFault n { cls := cPROG_WRITE_ACTIVE, sev := 1, unit := n.val, instr := c.pc,
                                        addr := 0x4000000000 + coreReg n (4 * imm12Of w) } h)))

/-! ### Semaphores, barriers and transfers of a core -/

/-- SSIG puts a signal of imm12 on its way, takeable by the core itself after 3 cycles and by others after 8, by a carrel at the next
BCLK edge; SWAIT makes the core wait for imm12 of a semaphore (R101, R324). A reference that is no semaphore's is illegal, and one to a
semaphore that is not allocated an access fault (R319, R320). STAKE takes imm12 of a semaphore without waiting, after the takes of the
units before it: rd becomes 1 and the value sinks, or rd becomes 0, SEM_UFF takes the semaphore's bit and SEM_STAT counts, with a record
where SEM_CTL.UF_REC is 1 (R323, R325). -/
def Obligations.CoreSignalsTakesAndWaits : Prop :=
  (∀ (n : Fin 8) (w : W32) (s : State), let h := issued s n w; let c := h.core n; let cyc := issueCyc c w; let i := refOf c w
    (∀ p ∈ [((.ssig n w : Instr), Mn.ssig), (.swait n w, .swait), (.stake n w, .stake)],
      Issues s n w p.2 → ReadsLanded c cyc [(0, rs1Of w)] →
        (4096 ≤ i → Does p.1 s (coreFault n (plainFault n cILLEGAL_INSTR c.pc 0 0) h)) ∧
        (i < 4096 → semOn h i = false → Does p.1 s (coreFault n (plainFault n cACCESS_RANGE c.pc 0 i) h))) ∧
    (Issues s n w .ssig → ReadsLanded c cyc [(0, rs1Of w)] → i < 4096 → semOn h i = true →
      Does (.ssig n w) s ((h.setCore n (goneOn c cyc w)).modSync (fun y => { y with
        signals := y.signals ++ [⟨i, imm12Of w, n.val, 0, 0, cyc + 3, cyc + 3, cyc + 8, bclkAt (cyc + 8), cyc + 8, none, none⟩] }))) ∧
    (Issues s n w .swait → ReadsLanded c cyc [(0, rs1Of w)] → i < 4096 → semOn h i = true →
      Does (.swait n w) s (h.setCore n { goneOn c cyc w with st := .wait, wait := some ⟨i, imm12Of w, c.pc, cyc⟩, slot0 := none }))) ∧
  (∀ (n : Fin 8) (w : W32) (s : State), let h := issued s n w; let c := h.core n; let cyc := issueCyc c w; let i := refOf c w
    let g := serveTakes cyc (4 * n.val) (syncTo cyc (advance n w cyc (enterLanding n cyc 2 (0, rdOf w) h)))
    let failed := (g.orReg (uffReg i) (2 ^ (i % 32))).bump 0x500004 0 16
    Issues s n w .stake → ReadsLanded c cyc [(0, rs1Of w)] → i < 4096 → semOn h i = true → WriteFree c cyc (0, rdOf w) 2 →
    (imm12Of w ≤ avail g n.val cyc i →
      Does (.stake n w) s ((setSem i (semVal g i - imm12Of w) g).setCore n ((g.core n).setG (rdOf w) 1))) ∧
    (avail g n.val cyc i < imm12Of w → nbit (h.reg 0x500000).toNat 0 = false →
      Does (.stake n w) s (failed.setCore n ((g.core n).setG (rdOf w) 0))) ∧
    (avail g n.val cyc i < imm12Of w → nbit (h.reg 0x500000).toNat 0 = true →
      let f := raiseBy { cls := cSEM_UNDERFLOW, sev := 0, unit := n.val, syn := semSyn i (imm12Of w) } failed
      Does (.stake n w) s (f.setCore n ((f.core n).setG (rdOf w) 0))))

/-- With nothing on its way, the one unit that waits, a core whose semaphore holds its count, takes it in the first cycle not before its
wait nor before what the block has served, and resumes at the first frame boundary at least 2 cycles later, of which CORE_ANCHOR tells the
frame; during a hold, or with less in the semaphore, it waits on (R101, R283, R325). BARR counts an arrival at its context; a reference
that is no context's is illegal, an arrival at a free or broken context, or one too many, an overflow. The arrival that makes the count of
a context of scope 1 complete starts the next generation and signals RSEM, where it is allocated, with count EXPECT, takeable 12 cycles
later (R318, R326, R327). -/
def Obligations.CoreWaitsEndAndArrivals : Prop :=
  (∀ (n : Fin 8) (s : State) (x : SemWait), (s.hw.core n).wait = some x → waiters s.hw = [(n.val, 0, x)] → s.hw.sync.signals = [] →
    s.hw.sync.arrivals = [] →
    (s.hw.hold.held = false → x.count ≤ semVal s.hw x.sem →
      let t := max x.since s.hw.sync.time
      let h := setSem x.sem (semVal s.hw x.sem - x.count) (s.begun.at t)
      Does (.swaitTake n) s (((h.modSync (fun y => { y with time := max s.hw.now t })).setCore n { s.hw.core n with
        st := .run
        wait := none
        next := 6 * frameAt (t + 2)
        anchor := frameAt (t + 2) }).setReg64 (coreReg n 0x38) (frameAt (t + 2)))) ∧
    (semVal s.hw x.sem < x.count ∨ s.hw.hold.held = true → Does (.swaitTake n) s s.begun)) ∧
  (∀ (n : Fin 8) (w : W32) (s : State), let h := issued s n w; let c := h.core n; let cyc := issueCyc c w; let k := refOf c w % 4096
    let y := syncTo cyc h; let g := advance n w cyc y
    Issues s n w .barr → ReadsLanded c cyc [(0, rs1Of w)] →
    (¬ (refOf c w / 4096 = 1 ∧ k < 64) → Does (.barr n w) s (coreFault n (plainFault n cILLEGAL_INSTR c.pc 0 0) h)) ∧
    (refOf c w / 4096 = 1 → k < 64 →
      (∀ e, arrivalBad y k = some e → Does (.barr n w) s (coreFault n (atIssue n cBARRIER_OVERFLOW c.pc cyc 0 e) y)) ∧
      (arrivalBad y k = none → (y.bar k).waitup = true →
        Does (.barr n w) s (g.modBar k (fun b => { b with next := b.next + 1 }))) ∧
      (arrivalBad y k = none → (y.bar k).waitup = false → (y.bar k).cnt + 1 ≠ barExpect y k →
        Does (.barr n w) s (g.modBar k (fun b => { b with cnt := b.cnt + 1 }))) ∧
      (arrivalBad y k = none → (y.bar k).waitup = false → (y.bar k).cnt + 1 = barExpect y k → barScope y k = 1 →
        semOn y (barRsem y k) = true →
        Does (.barr n w) s (addSignal ⟨barRsem y k, barExpect y k, 0x1A, 0, 0, cyc + 12, cyc + 12, cyc + 12, cyc + 12, cyc + 12, none, some k⟩
          (g.modBar k (fun b => { b with cnt := 0, gen := (b.gen + 1) % 256 }))))))

/-- TXQ gives a record to a channel and writes the result code to rd: 1 with 8 records held or in flight, 2 of a stopped channel, 3 of
an address that is not 64-byte aligned in the core's own LM or in CSM, else 0 with the record's copy held, which lands L_mem + 2 cycles
later; one that starts from the phase start is moved by the hold that the phase has had, once it has ended; errors that the copy meets count
(R195, R280, R297, R298, R486). -/
def Obligations.CoreEnqueuesTransfers : Prop :=
  ∀ (n : Fin 8) (w : W32) (s : State), let h := issued s n w; let c := h.core n; let cyc := issueCyc c w; let k := imm12Of w % 64
    let a := (c.gr (rs1Of w)).toNat; let g := advance n w cyc (enterLanding n cyc 2 (0, rdOf w) h)
    let full := 8 ≤ (h.te k).held.length + ((h.te k).flights.filter (fun f => decide (f.phase = 0))).length
    let stopped := (h.te k).st = .stopping ∨ (h.te k).st = .stoppedFault ∨ (h.te k).st = .stoppedReq
    let place := a % 64 = 0 ∧ a < 2 ^ 41 ∧ (regionOf h a = .lm n.val ∨ regionOf h a = .csm)
    Issues s n w .txq → ReadsLanded c cyc [(0, rs1Of w)] → WriteFree c cyc (0, rdOf w) 2 →
    (full → Does (.txq n w) s (g.setCore n ((g.core n).setG (rdOf w) 1))) ∧
    (¬ full → stopped → Does (.txq n w) s (g.setCore n ((g.core n).setG (rdOf w) 2))) ∧
    (¬ full → ¬ stopped → ¬ place → Does (.txq n w) s (g.setCore n ((g.core n).setG (rdOf w) 3))) ∧
    (¬ full → ¬ stopped → place →
      let g1 := settle g.now g
      let d0 : Desc := ⟨g1.bytes a 64, a, cyc + latMem h a + 2, false, 0, badByte g1 a 64⟩
      let d : Desc := if dRef d0 = 2 ∧ h.hold.held = false then { d0 with shift := 6 * h.hold.delta } else d0
      let read := correct a 64 (match badByte g1 a 64 with
        | some e => countBad (wordOf (physOf g1 e)) g1
        | none => g1)
      let g2 := read.modTe k (fun x => toHead read { x with
        held := x.held ++ [d]
        headAt := if x.held.isEmpty then d.landed else x.headAt })
      Does (.txq n w) s (g2.setCore n ((g2.core n).setG (rdOf w) 0)))

/-! ### Loads, stores, starts and stops of a core -/

/-- The load that lands first reaches its core at its landing, after everything that happens to memory by then and the walk of a range
operation of the cycles before: with all its bytes read and none of them in an uncorrectable word its register (or chain slot) receives
them, and its line the cache that it fills, where no write or invalidation marked it; one in an uncorrectable word stops the core and
delivers nothing, and so one that lost a beat (R16, R88, R106, R196, R199, R200, R203, R208). The store that is acknowledged first leaves
the core at its acknowledgement; a partial write that met an uncorrectable word stops the core (R100, R197). -/
def Obligations.LoadsAndStoresComplete : Prop :=
  (∀ (n : Fin 8) (s : State) (o : LoadOp), firstLoad (s.hw.core n).loads = some o →
    let h := settle o.land (walkTo n (o.land - 1) (s.begun.at o.land)); let gs := gotOf h o.id; let c := h.core n
    let o' := (c.loads.find? (fun x => decide (x.id = o.id))).getD o
    let h1 := dropGot o.id (h.setCore n (fillGone o' { c with loads := c.loads.filter (fun x => decide (x.id ≠ o.id)) }))
    let whole := (gs.map (fun g => g.bytes.length)).sum = dstBytes o.dst
    (¬ whole → Does (.loadReturn n) s h1) ∧
    (∀ a, whole → gotBad gs = some a → Does (.loadReturn n) s (badStop n o.pc o.land a h h1)) ∧
    (whole → gotBad gs = none → o'.alloc = true → o'.drop = false →
      Does (.loadReturn n) s (h1.setCore n (fillLine (deliver o' gs (h1.core n)) (o'.addr / 128)))) ∧
    (whole → gotBad gs = none → (o'.alloc = false ∨ o'.drop = true) →
      Does (.loadReturn n) s (h1.setCore n (deliver o' gs (h1.core n))))) ∧
  (∀ (n : Fin 8) (s : State), (s.hw.core n).loads = [] → Does (.loadReturn n) s s.begun) ∧
  (∀ (o : LoadOp) (gs : List Got) (c : Core), let bs (k : Nat) : List Byte := (List.range k).map (fun i => gotByte gs (o.addr + i))
    (∀ r k sg, o.dst = .g r k sg → deliver o gs c = c.setG r (xLoad (bs k) sg)) ∧
    (∀ r m, o.dst = .v r m →
      deliver o gs c = c.setV r (ofLanes 32 (blend m (lanesOf 32 (c.vr r)) ((chunks 4 32 (bs 128)).map leNat)))) ∧
    (∀ r m k, o.dst = .bcast r m k →
      deliver o gs c =
        c.setV r (ofLanes (8 * k) (blend m (lanesOf (8 * k) (c.vr r)) (List.replicate (1024 / (8 * k)) (leNat (bs k)))))) ∧
    (∀ i, i < 4 → o.dst = .chain i →
      ((deliver o gs c).slots.getD i default).full = true ∧ ((deliver o gs c).slots.getD i default).desc = bs 256)) ∧
  (∀ (n : Fin 8) (s : State) (o : StoreOp), firstStore (s.hw.core n).stores = some o →
    let h := settle o.ack (s.begun.at o.ack); let gs := gotOf h o.id
    let h1 := dropGot o.id (h.setCore n (storeGone o.id o.ack (h.core n)))
    (gotBad gs = none → Does (.storeAck n) s h1) ∧
    (∀ a, gotBad gs = some a → Does (.storeAck n) s (badStop n o.pc o.ack a h h1))) ∧
  (∀ (n : Fin 8) (s : State), (s.hw.core n).stores = [] → Does (.storeAck n) s s.begun)

/-- ARM arms a core at rest whose code is resident in a cluster that is awake, for a frame to come; a frame that has passed is late, and
anything else refused at the writer (R107, R206, R471). An armed core starts at the accepted phase boundary of CORE_GOFRAME at
CORE_ENTRY, and returns to IDLE where the frame is no boundary (R107, R258). STOP returns an armed core to IDLE, and halts the array of a
running or waiting one, which issues nothing from the next cycle on; a wait that has taken nothing is abandoned at its SWAIT, and a core
that drains after HALT goes on doing so (R108, R109, R143, R325). Once nothing of its older instructions is outstanding a core is
STOPPED_REQ, or IDLE after HALT (R108, R109). The block of a fused core is unpopulated (R14, R190). -/
def Obligations.CoresStartAndStop : Prop :=
  (∀ (n : Fin 8) (u : Writer) (s : State), CoreReaches u n s →
    let c := s.hw.core n; let go := s.hw.reg64 (coreReg n 0x18)
    let may := awake s.hw = true ∧ (c.st = .idle ∨ c.st = .stoppedFault ∨ c.st = .stoppedReq) ∧
      nbit (s.hw.reg (coreReg n 0x620)).toNat 0 = true
    (may → s.hw.frame < go → Does (.coreArm n u) s (s.begun.setCore n { c with st := .armed })) ∧
    (may → go ≤ s.hw.frame →
      Does (.coreArm n u) s
        ((raise { cls := cSCHED_LATE, sev := 1, unit := n.val, q := .none, exp := go, act := s.hw.frame, syn := 0x70000000 } s.begun).setCore
          n { c with lastClass := cSCHED_LATE })) ∧
    (¬ may → Does (.coreArm n u) s (refuse u.unit s.begun))) ∧
  (∀ (n : Fin 8) (u : Writer) (s : State), Reaches u s → coreOn s.hw n.val = false → ∀ i ∈ [Instr.coreArm n u, .coreStop n u],
    Does i s (unpopulatedWrite u (0x4000000000 + coreReg n 0) s.begun)) ∧
  (∀ (n : Fin 8) (s : State), let c := s.hw.core n; let go := s.hw.reg64 (coreReg n 0x18)
    (c.st = .armed → go = s.hw.frame → atBoundary s.hw = true →
      Does (.coreGo n) s ((s.begun.at (6 * go)).setCore n { c with
        st := .run
        pc := s.hw.reg64 (coreReg n 0x10)
        next := 6 * go
        slot0 := none
        idle := none
        grace := none
        halting := false
        wait := none })) ∧
    (c.st = .armed → go = s.hw.frame → atBoundary s.hw = false →
      Does (.coreGo n) s ((refuseWhy n.val 0x09 s.begun).setCore n { c with st := .idle, lastClass := cADMISSION_REFUSED })) ∧
    (c.st ≠ .armed ∨ go ≠ s.hw.frame → Does (.coreGo n) s s.begun)) ∧
  (∀ (n : Fin 8) (u : Writer) (s : State), CoreReaches u n s → let h := syncTo s.hw.now s.begun; let c := h.core n
    let stops : Core := { c with
      st := .stopping
      pc := c.wait.elim c.pc (fun x => x.pc)
      grace := if c.st = .run then some s.hw.now else c.grace
      wait := none }
    (c.st = .armed → Does (.coreStop n u) s (h.setCore n { c with st := .idle })) ∧
    ((c.st = .run ∨ c.st = .wait) → c.halting = false → Does (.coreStop n u) s (stopArray n s.hw.now (h.setCore n stops))) ∧
    (c.st = .run → c.halting = true → Does (.coreStop n u) s (stopArray n s.hw.now h)) ∧
    (c.st = .idle ∨ c.st = .stopping ∨ c.st = .stoppedFault ∨ c.st = .stoppedReq → Does (.coreStop n u) s h)) ∧
  (∀ (n : Fin 8) (s : State), let c := s.hw.core n
    let past := c.loads = [] ∧ c.stores = [] ∧ c.floads = [] ∧ c.restore = none ∧ c.ops = [] ∧ c.seq = none ∧ c.mmacs = [] ∧ c.halt = none
    let h := sendsDue (rowsTo n (drainCyc c) (s.begun.at (drainCyc c)))
    (past → c.st = .stopping → (h.core n).st = .stopping →
      Does (.coreDrainDone n) s (h.setCore n { h.core n with st := .stoppedReq })) ∧
    (past → c.st = .run → c.halting = true → (h.core n).st = .run →
      Does (.coreDrainDone n) s (h.setCore n { h.core n with st := .idle, halting := false })) ∧
    (¬ past → Does (.coreDrainDone n) s s.begun))

/-! ### The caches of a core -/

/-- A range operation with a legal base and length starts, BUSY from the next cycle on: RNG_CTL and RNG_STAT show it; DCLEAN and DCLINV
wait for the core's stores to lines of the range, the walk of DINV begins at once, IINV takes the resident code away, and IPRELOAD
requests its code where the core may read it; one that may not start is refused at the writer (R205, R207, R208). It ends, BUSY clears
and DONE is set: DCLEAN when its stores are acknowledged; DINV and DCLINV when the walk has ended, which takes the lines of the range out
of the data cache, and the fills that it marked have landed; IPRELOAD when its code is read, which is then resident, or with ACCESS_RANGE
where the core may not read it; IINV when it has emptied the code (R189, R205, R207, R208). -/
def Obligations.RangeOperationsStartAndEnd : Prop :=
  (∀ p ∈ [(Instr.dinv, 0), (.dclean, 1), (.dclinv, 2), (.ipreload, 3), (.iinv, 4)], ∀ (n : Fin 8) (u : Writer) (s : State), CoreReaches u n s →
    let c := s.hw.core n; let base := s.hw.reg64 (coreReg n 0x608); let len := (s.hw.reg (coreReg n 0x610)).toNat
    let may := c.range = none ∧ base % 128 = 0 ∧ len ≠ 0 ∧ (3 ≤ p.2 → c.st ≠ .armed ∧ c.st ≠ .run ∧ c.st ≠ .wait) ∧
      (p.2 = 3 → len % 128 = 0 ∧ len ≤ 0x10000)
    let own := c.stores.filter (fun o => decide (s.hw.now ≤ o.ack) &&
      o.lines.any (fun a => decide (base / 128 ≤ a / 128 ∧ a / 128 ≤ (base + len - 1) / 128)))
    let ids := if p.2 = 1 ∨ p.2 = 2 then own.map (fun o => o.id) else []
    let r : RangeOp := ⟨p.2, base, len, s.hw.now + 1, ids, if p.2 = 0 ∨ (p.2 = 2 ∧ ids = []) then some (s.hw.now + 1) else none, 0, 0⟩
    let h := (((s.begun.setReg (coreReg n 0x614) (BitVec.ofNat 32 (2 * p.2))).setFld (coreReg n 0x618) 2 8 0).setFld
      (coreReg n 0x618) 0 1 1).setCore n { c with range := some r }
    (¬ may → Does (p.1 n u) s (refuse u.unit s.begun)) ∧
    (may → p.2 < 3 → Does (p.1 n u) s h) ∧
    (may → p.2 = 4 → Does (p.1 n u) s (h.clrReg (coreReg n 0x620) 1)) ∧
    (may → p.2 = 3 → codePlace h n r = false → Does (p.1 n u) s h) ∧
    (may → p.2 = 3 → codePlace h n r = true → Does (p.1 n u) s { h with bg := h.bg ++ [bgNew h n.val (readAccs h base len) (.code n.val)] })) ∧
  (∀ (n : Fin 8) (s : State) (r : RangeOp), (s.hw.core n).range = some r → (∀ o ∈ (s.hw.core n).stores, o.id ∉ r.stores) →
    let past (h : Hw) : Hw := (h.setFld (coreReg n 0x618) 0 2 2).modCore n (fun c => { c with range := none })
    (r.op = 1 → Does (.rangeOpDone n) s (past (s.begun.at r.start))) ∧
    (∀ t, (r.op = 0 ∨ r.op = 2) → r.walkAt = some t →
      let h := walkTo n (t + walkLen r - 1) (s.begun.at (t + walkLen r))
      ((∀ o ∈ (h.core n).loads, markedFill h r o = false) →
        Does (.rangeOpDone n) s (past (h.at ((h.core n).range.elim 0 (fun x => x.fillEnd))))) ∧
      ((∃ o ∈ (h.core n).loads, markedFill h r o = true) → Does (.rangeOpDone n) s s.begun)) ∧
    (∀ b, r.op = 3 → codePlace s.hw n r = true → bgDone s.hw (.code n.val) = some b →
      Does (.rangeOpDone n) s (past (preload n r b.got b.bads (bgDrop (.code n.val) s.begun)))) ∧
    (r.op = 3 → codePlace s.hw n r = true → bgDone s.hw (.code n.val) = none → Does (.rangeOpDone n) s s.begun) ∧
    (r.op = 3 → codePlace s.hw n r = false →
      Does (.rangeOpDone n) s (past (raiseBy { cls := cACCESS_RANGE, sev := 2, unit := n.val, addr := r.base } (s.begun.at r.start)))) ∧
    (r.op = 4 → Does (.rangeOpDone n) s (past ((s.begun.at (r.start + 512)).setCore n { s.hw.core n with icode := [], ibad := [], isoft := [] })))) ∧
  (∀ (n : Fin 8) (s : State) (r : RangeOp), (s.hw.core n).range = some r → (∃ o ∈ (s.hw.core n).stores, o.id ∈ r.stores) →
    Does (.rangeOpDone n) s s.begun) ∧
  (∀ (n : Fin 8) (s : State), (s.hw.core n).range = none → Does (.rangeOpDone n) s s.begun)

/-- Set-and-way maintenance acts on a core at rest with an idle array and no range operation: it invalidates one line or the whole data
cache, shows a tag, or takes one line of the resident code; else it is refused at the writer (R209). A stride that has shown itself
twice, with fewer than four lines ahead, requests its next line where prefetching and the memory's caching are enabled (R18, R200, R204);
with prefetching off nothing happens. The scrubber counts and removes a correctable error of an SRAM word, and leaves the rest (R195,
R486). -/
def Obligations.LineMaintenanceAndPrefetch : Prop :=
  (∀ (n : Fin 8) (u : Writer) (set : Fin 64) (way : Fin 8) (s : State), CoreReaches u n s →
    let c := s.hw.core n; let k := 8 * set.val + way.val
    let may := (c.st = .idle ∨ c.st = .stoppedFault ∨ c.st = .stoppedReq) ∧ c.ast = .idle ∧ c.range = none
    let h (op : Nat) := s.begun.setReg (coreReg n 0x630) (BitVec.ofNat 32 (op * 2 ^ 10 + set.val * 16 + way.val * 2))
    let a := s.hw.reg64 (coreReg n 0x620) - s.hw.fld (coreReg n 0x620) 0 7 + 128 * k
    (¬ may → ∀ i ∈ [.swInvLine n u set way, .swInvAll n u, .swReadTag n u set way, .swInvIline n u set way],
      Does i s (refuse u.unit s.begun)) ∧
    (may →
      Does (.swInvLine n u set way) s ((h 0).setCore n { c with dlines := tabPut (fun _ => none) k none c.dlines }) ∧
      Does (.swInvAll n u) s (((s.begun.setReg (coreReg n 0x630) (BitVec.ofNat 32 (2 ^ 10))).at (s.hw.now + 64)).setCore n
        { c with dlines := [] }) ∧
      (tabGet (fun _ => none) c.dlines k = none → Does (.swReadTag n u set way) s ((h 2).setReg (coreReg n 0x634) 0#32)) ∧
      (∀ d, tabGet (fun _ => none) c.dlines k = some d →
        Does (.swReadTag n u set way) s
          ((h 2).setReg (coreReg n 0x634) (BitVec.ofNat 32 (d.tag % 2 ^ 28 + b2n d.perr * 2 ^ 30 + 2 ^ 31)))) ∧
      Does (.swInvIline n u set way) s (((h 3).clrReg (coreReg n 0x620) 1).setCore n { c with
        icode := c.icode.filter (fun e => decide (e.1 / 128 ≠ a / 128))
        ibad := c.ibad.filter (fun x => decide (x / 16 ≠ a / 128))
        isoft := c.isoft.filter (fun x => decide (x / 16 ≠ a / 128)) }))) ∧
  (∀ (n : Fin 8) (s : State) (x : PfStream) (bm : Bool), let c := s.hw.core n
    let line := ((x.line : Int) + x.stride * (x.ahead + 1)).toNat
    let h := s.begun.setCore n { c with streams := [{ x with ahead := x.ahead + 1 }] }
    dcctl s.hw n 2 = true → c.streams = [x] → 1 ≤ x.hits → 1 ≤ x.stride → x.stride ≤ 8 → x.ahead < 4 →
    cacheable s.hw (line * 128) = some bm → corePerm s.hw n (line * 128) = true → dcctl s.hw n (if bm then 1 else 0) = true →
    Does (.stridePrefetch n) s (bgArrive (bgNew s.hw n.val (readAccs s.hw (line * 128) 128) (.prefetch n.val line)) h)) ∧
  (∀ (n : Fin 8) (line : Nat) (hw : Hw), invalidating (hw.core n) line = false →
    prefetched n line false hw = hw.setCore n (fillLine (hw.core n) line) ∧ prefetched n line true hw = hw) ∧
  (∀ (n : Fin 8) (s : State), dcctl s.hw n 2 = false → Does (.stridePrefetch n) s s.begun) ∧
  (∀ (key : Nat) (s : State), wordSize (wordOf key) = 8 → wordOf key ∈ s.hw.soft →
    Does (.sramScrubStep key) s
      (countCorr .none { s.begun with soft := s.hw.soft.filter (fun x => decide (x ≠ wordOf key)) } (wordOf key))) ∧
  (∀ (key : Nat) (s : State), wordOf key ∉ s.hw.soft → Does (.sramScrubStep key) s s.begun)

/-! ### The array of a core -/

/-- FCFG stores its word as the configuration of a folio that is not busy and not in use, and faults for what R113 refuses; FREL takes the
folios of its mask out of use; a folio that is busy in the cycle of issue makes either a conflict that names it (R113, R125, R127). -/
def Obligations.FoliosAreConfiguredAndReleased : Prop :=
  ∀ (n : Fin 8) (w : W32) (s : State), let h := issued s n w; let c := h.core n; let cyc := issueCyc c w
    let f := wf w 24 3; let fs := maskFolios (wf w 16 8)
    (Issues s n w .fcfg → (c.fol f).busyAt cyc = false → fcfgBad w (c.fol f).inUse = none →
      Does (.fcfg n w) s (h.setCore n (goneOn (c.setFol f { c.fol f with fcfg := w }) cyc w))) ∧
    (∀ r, Issues s n w .fcfg → (c.fol f).busyAt cyc = false → fcfgBad w (c.fol f).inUse = some r →
      Does (.fcfg n w) s (coreFault n (plainFault n cFOLIO_SHAPE c.pc 0 (r + f * 0x100)) h)) ∧
    (Issues s n w .fcfg → (c.fol f).busyAt cyc = true →
      Does (.fcfg n w) s (coreFault n (atIssue n cSCHED_SLOT_CONFLICT c.pc cyc 0 (0x30000004 + f * 0x10000)) h)) ∧
    (Issues s n w .frel → (∀ g ∈ fs, (c.fol g).busyAt cyc = false) →
      Does (.frel n w) s (h.setCore n
        (goneOn (fs.foldl (fun c g => c.setFol g { c.fol g with inUse := false, stripValid := false }) c) cyc w))) ∧
    (∀ g, Issues s n w .frel → fs.find? (fun g => (c.fol g).busyAt cyc) = some g →
      Does (.frel n w) s (coreFault n (atIssue n cSCHED_SLOT_CONFLICT c.pc cyc 0 (0x30000004 + g * 0x10000)) h))

/-- FLD and FLDX read their rows by beats, two lines or one row a cycle, and their folio is in use (its strip valid) and busy until it
lands; FST and FSTX write the converted bytes that the folio holds and are acknowledged like a store, their folio busy while it is read.
So it is where the shape, the address, the folio's state, the port and the beats let them; a busy folio makes FLD and FLDX a conflict
(R116–R124, R126, R127, R190). The folio load that lands first puts its data into its folio, converted, at its landing, behind what rows of chains have
written before, and the chains whose stages still draw lines of the folio see it from then on; with no chain under way it changes its folio
only; one in an uncorrectable word stops the core and delivers nothing, and so one that lost a beat (R16, R58–R60, R106, R115, R121,
R182, R196). -/
def Obligations.FolioTransfersAndTheirLanding : Prop :=
  (∀ p ∈ [((fun n w => Instr.fld n w), Mn.fld, false), ((fun n w => .fldx n w), .fldx, true)], ∀ (n : Fin 8) (w : W32) (s : State),
    let hw := issued s n w; let c := hw.core n; let cyc := issueCyc c w; let f := fxF w; let conv := if p.2.2 then 0 else fxConv w
    let tr := fxT w; let base := (c.gr (fxRs1 w)).toNat; let pitch := (c.gr (fxRs2 w)).toNat; let fo := c.fol f
    let x := xferOf fo true p.2.2 tr conv; let ps := unitCycles hw none (xferPieces x true p.2.2 base pitch)
    let new := ps.map (fun q => readBeat hw n.val hw.nid c.pc cyc q.1 q.2.1 q.2.2)
    let land := cyc + latMem hw base + x.cycles + (if p.2.2 then 0 else convCycles true conv + (if tr then 2 else 0))
    let busy := (hw.nid, cyc, land) :: fo.busy.filter (fun e => decide (cyc < e.2.2))
    let fo' : Folio := if p.2.2 then { fo with stripValid := true, landS := landAt land, busy := busy }
      else { fo with
        inUse := true
        landD := landAt land
        busy := busy
        stripValid := fo.stripValid || decide (conv ≥ 3)
        landS := if conv ≥ 3 then landAt land else fo.landS }
    let h := (advance n w cyc (placed new hw)).modCore n (fun c => { c.setFol f fo' with
      rdPort := cyc + x.cycles
      floads := c.floads ++ [⟨hw.nid, (hw.core n).pc, f, p.2.2, conv, tr, base, pitch, land⟩] })
    Issues s n w p.2.1 → ReadsLanded c cyc [(0, fxRs1 w), (0, fxRs2 w)] →
    xferFault n c.pc hw f fo true p.2.2 tr conv base pitch = none →
    (fo.busyAt cyc = true →
      Does (p.1 n w) s (coreFault n (atIssue n cSCHED_SLOT_CONFLICT c.pc cyc 0 (0x30000004 + f * 0x10000)) hw)) ∧
    (fo.busyAt cyc = false → (if p.2.2 then fo.stripValid else fo.inUse) = false → c.rdPort ≤ cyc →
      AccessOk hw n c.pc cyc false new (ps.map (fun q => (q.2.1, cyc))) h → Does (p.1 n w) s h)) ∧
  (∀ p ∈ [((fun n w => Instr.fst n w), Mn.fst, false), ((fun n w => .fstx n w), .fstx, true)], ∀ (n : Fin 8) (w : W32) (s : State),
    let hw := issued s n w; let c := hw.core n; let cyc := issueCyc c w; let f := fxF w; let conv := if p.2.2 then 0 else fxConv w
    let tr := fxT w; let base := (c.gr (fxRs1 w)).toNat; let pitch := (c.gr (fxRs2 w)).toNat; let fo := c.fol f
    let x := xferOf fo false p.2.2 tr conv; let raw := xferPieces x false p.2.2 base pitch; let ps := unitCycles hw none raw
    let bs := storeBytes fo p.2.2 tr conv base pitch
    let new := ps.map (fun q => writeBeat hw n.val hw.nid c.pc cyc q.1 q.2.1 none
      (bs.filter (fun b => decide (q.2.1 ≤ b.1 ∧ b.1 < q.2.1 + q.2.2))))
    let dly := 1 + (if p.2.2 then 0 else convCycles false conv) + (if tr then 2 else 0) + latMem hw base
    let port := hw.setCore n { c with wrPort := (cyc, cyc + x.cycles) :: c.wrPort.filter (fun q => decide (cyc < q.2)) }
    let h := (advance n w cyc (placed new port)).modCore n (fun c => { c.makeBusy cyc hw.nid f (cyc + 1) (cyc + x.cycles + 1) with
      stores := c.stores ++ [⟨hw.nid, (hw.core n).pc, cyc + x.cycles - 1 + dly, (raw.map (fun q => q.2.1 / 128 * 128)).eraseDups⟩] })
    Issues s n w p.2.1 → ReadsLanded c cyc [(0, fxRs1 w), (0, fxRs2 w)] →
    xferFault n c.pc hw f fo false p.2.2 tr conv base pitch = none → fo.inUse = true → (p.2.2 = true → fo.stripValid = true) →
    (fo.landD.a ≤ cyc ∧ fo.landD.b ≤ cyc) → (fo.landS.a ≤ cyc ∧ fo.landS.b ≤ cyc) → fo.perr = [] →
    portFree c.wrPort cyc x.cycles = true → beatsBad hw new = none →
    handoffCheck n c.pc cyc true (raw.map (fun q => (q.2.1, cyc + q.1 + dly))) h = h → Does (p.1 n w) s h) ∧
  (∀ (n : Fin 8) (s : State) (o : FolioLoad), firstFload (s.hw.core n).floads = some o →
    (∀ r, (s.hw.core n).restore = some r → o.land ≤ r.land) →
    let h := settle o.land (s.begun.at o.land); let gs := gotOf h o.id
    let x := xferOf ((s.hw.core n).fol o.f) true o.exps o.tr o.conv
    let h1 := dropGot o.id (h.setCore n { h.core n with floads := (h.core n).floads.filter (fun y => decide (y.id ≠ o.id)) })
    let whole := (gs.map (fun g => g.bytes.length)).sum = x.rows * x.rowLen
    (¬ whole → Does (.folioLand n) s h1) ∧
    (whole → gotBad gs = none → Does (.folioLand n) s (floadArrives n o gs h1)) ∧
    (whole → gotBad gs = none → (∀ e ∈ (h1.core n).rows, o.land - 1 < e.cyc) → (∀ r ∈ (h1.core n).runs, r.stop < o.land) →
      Does (.folioLand n) s (h1.setCore n (deliverFolio o gs (h1.core n)))) ∧
    (∀ a, whole → gotBad gs = some a → Does (.folioLand n) s (badStop n o.pc o.land a h h1)))

/-- An operation without a prologue starts where its folios, formats, banks and the array's time let it; slice 0 enters the cells 6 cycles
after its issue, and its result lands one cycle after the last slice of its padded length (R126, R128–R133, R135, R138). Once started it
is the newest of the array, which is busy for its occupancy from its start on, and its banks are live in its mode and land with it (R130,
R133, R135). -/
def Obligations.OperationChecks : Prop :=
  (∀ (n : Fin 8) (x : MmaCtx) (w : W32) (hw : Hw) (mode : Nat), let c := hw.core n; let a := c.fol (mmFa w); let b := c.fol (mmFb w)
    let b2 := c.fol (mmFb2 w); let o : Opnds := ⟨a, b, b2, []⟩
    let op0 : ArrOp := ⟨x.id.getD hw.nid, w, x.tm, x.pc, x.entry, a, b, b2, mode, 0, x.slice, mmZ w && !x.resume, 0⟩
    let op := { op0 with land := x.tm + 7 + (op0.kp - x.slice) * opRate mode (mmD w) }
    let fs := if mmD w then [mmFa w, mmFb w, mmFb2 w] else [mmFa w, mmFb w]
    mmP w = false → mmaShape n x (strict hw n) c w = none → opMode (strict hw n) (mmD w) o = some mode →
    (mode ≠ 0 → a.mn ≤ 32 ∧ b.mn ≤ 32 ∧ (mmD w = true → b2.mn ≤ 32)) →
    (∀ k ∈ mmBanks w, mmZ w = true ∨ x.resume = true ∨ ((c.bank k).liveAt x.tm = true ∧ (c.bank k).mode = mode)) →
    (∀ f ∈ fs, x.ib ≠ some f → (c.fol f).landD.a ≤ x.tm ∧ (c.fol f).landD.b ≤ x.tm ∧
      (isRh (c.fol f).fmt = true → (c.fol f).landS.a ≤ x.tm ∧ (c.fol f).landS.b ≤ x.tm)) →
    arrayBusy hw n x.tm op.occ x.entry.isSome x.resume = false →
    (∀ p ∈ (mmBanks w).mapIdx (fun i k => (i, k)), (c.bank p.2).ardLast < op.addCyc p.1 op.from_ (op.n p.1)) →
    OpStarts n x w hw op [] o hw) ∧
  (∀ (n : Fin 8) (op : ArrOp) (ss : List ProStage) (d : Opnds) (hw : Hw), let t := (launchOp n op ss d hw).core n
    t.ops = (hw.core n).ops ++ [op] ∧ t.arrFree = op.start + op.occ ∧ t.ast = .run ∧
      (∀ b ∈ mmBanks op.word, (t.bank b).live = true ∧ (t.bank b).dieAt = none ∧ (t.bank b).mode = op.mode ∧
        (t.bank b).land = landAt op.land))

/-- MMA and its dual form start their operation and note its word in CORE_ALAUNCH; a sequence starts its first entry, and the sequencer
each next one at its B_e, while a word that may not stand in a sequence stops the core; FRSM starts the halted operation, of a sequence its
entry, again at the slice that CORE_FSTART names and clears VALID; without VALID it is refused, and while the array is occupied or not
stalled a conflict (R130, R131, R133, R135, R139, R140, R146). -/
def Obligations.OperationsStart : Prop :=
  ∀ (n : Fin 8) (w : W32) (s : State) (op : ArrOp) (ss : List ProStage) (d : Opnds) (h : Hw), let hw := issued s n w; let c := hw.core n
    let cyc := issueCyc c w; let aw := hw.reg (coreReg n ALAUNCH); let fs := (hw.reg (coreReg n FSTART)).toNat
    (∀ p ∈ [(Instr.mma n w, Mn.mma), (.mmaDual n w, .mmaDual)], Issues s n w p.2 →
      OpStarts n ⟨c.pc, cyc, cyc, none, none, false, 0, none⟩ w hw op ss d h →
      Does p.1 s (launchOp n op ss d ((advance n w cyc h).setReg (coreReg n ALAUNCH) w))) ∧
    (Issues s n w .mmaSeq → arrayBusy hw n cyc (entriesOcc hw n (mmSe w) (min 15 (mmSe w + mmSn w))) false false = false →
      entryOk (aseqWord hw n (mmSe w)) = true →
      OpStarts n ⟨c.pc, cyc, cyc, some (mmSe w), none, false, 0, none⟩ (aseqWord hw n (mmSe w)) hw op ss d h →
      Does (.mmaSequence n w) s ((launchOp n op ss d ((advance n w cyc h).setReg (coreReg n ALAUNCH) w)).modCore n (fun x => { x with
        seq := if mmSe w < mmSe w + mmSn w then some ⟨w, c.pc, mmSe w + 1, mmSe w + mmSn w, cyc + op.occ⟩ else none }))) ∧
    (∀ q, (s.hw.core n).seq = some q → ((s.hw.core n).ast ≠ .halting ∨ (s.hw.core n).mmacs ≠ []) →
      meterStops (s.begun.at q.at_) n.val q.at_ = false → let g := s.begun.at q.at_; let e := aseqWord s.hw n q.next
      (q.next ≤ 15 → entryOk e = true → OpStarts n ⟨q.pc, q.at_, q.at_, some q.next, none, false, 0, none⟩ e g op ss d h →
        Does (.seqEntryStart n) s ((launchOp n op ss d h).modCore n (fun x => { x with
          seq := if q.next < mmSe q.word + mmSn q.word then some ⟨q.word, q.pc, q.next + 1, mmSe q.word + mmSn q.word, q.at_ + op.occ⟩
                 else none }))) ∧
      (15 < q.next ∨ entryOk e = false →
        Does (.seqEntryStart n) s
          ((coreStopNow n (plainFault n cFOLIO_SHAPE q.pc 0 (folSyn 0x16 0 0 (some (q.next % 16)))) g).modCore n (fun x =>
            ({ x with seq := none } : Core).restArray)))) ∧
    (Issues s n w .frsm → occupied hw n cyc = true → Does (.frsm n w) s (conflict n c.pc cyc 0x30000001 hw)) ∧
    (Issues s n w .frsm → occupied hw n cyc = false → fsValid hw n = false →
      Does (.frsm n w) s (coreFault n (plainFault n cFOLIO_SHAPE c.pc 0 0x31) hw)) ∧
    (Issues s n w .frsm → occupied hw n cyc = false → fsValid hw n = true → c.ast ≠ .stalled →
      Does (.frsm n w) s (conflict n c.pc cyc 0x30000001 hw)) ∧
    (Issues s n w .frsm → occupied hw n cyc = false → fsValid hw n = true → c.ast = .stalled → mmS aw = false →
      OpStarts n ⟨c.pc, cyc, cyc, none, none, true, nbits fs 0 7, none⟩ (plainMma aw) hw op ss d h →
      Does (.frsm n w) s (launchOp n op ss d ((advance n w cyc h).clrReg (coreReg n FSTART) 0x80000000))) ∧
    (Issues s n w .frsm → occupied hw n cyc = false → fsValid hw n = true → c.ast = .stalled → mmS aw = true →
      let e := nbits fs 16 4; entryOk (aseqWord hw n e) = true →
      OpStarts n ⟨c.pc, cyc, cyc, some e, none, true, nbits fs 0 7, none⟩ (aseqWord hw n e) hw op ss d h →
      Does (.frsm n w) s ((launchOp n op ss d ((advance n w cyc h).clrReg (coreReg n FSTART) 0x80000000)).modCore n (fun x => { x with
        seq := if e < mmSe aw + mmSn aw then some ⟨aw, c.pc, e + 1, mmSe aw + mmSn aw, cyc + op.occ⟩ else none })))

/-- The operation that lands first, where no halt cuts it short, adds its steps to its banks and leaves the array, which is idle when
nothing else is in progress (R131, R135). An array that a stop halts adds the slices taken, names the next, or of a sequence the next
entry, in CORE_FSTART and is stalled; an MMAC part that waits is named from its slice 0, its banks as its launch would leave them; an
operation with no slice left simply ends (R143, R146, R181). CANCEL makes a stalled array idle (R147); a sequence entry is written while
the array is idle, and refused else (R141). The block of a fused core is unpopulated (R14, R190). -/
def Obligations.ArrayResultsAndHalts : Prop :=
  (∀ (n : Fin 8) (s : State) (o : ArrOp), let c := s.hw.core n
    firstOp c.ops = some o → (c.mmacs ≠ [] ∨ newestOp c ≠ some o ∨ ∀ x, c.halt = some x → o.land ≤ x.2) →
    let h := runOp n o o.kp o.land (s.begun.at o.land)
    Does (.mmaResultLand n) s (h.setCore n ({ h.core n with ops := (h.core n).ops.filter (fun x => decide (x ≠ o)) } : Core).restArray)) ∧
  (∀ (n : Fin 8) (s : State), let c := s.hw.core n
    (c.halt = none → Does (.arrayHalt n) s s.begun) ∧
    (∀ o k t, c.halt = some (k, t) → c.mmacs = [] → newestOp c = some o → Does (.arrayHalt n) s (haltOp n o k t .stalled (s.begun.at t))) ∧
    (∀ k t, c.halt = some (k, t) → c.mmacs = [] → newestOp c = none →
      Does (.arrayHalt n) s ((s.begun.at t).setCore n { c with halt := none, ast := .idle })) ∧
    (∀ m k t, c.halt = some (k, t) → c.mmacs.getLast? = some m →
      let h := ((setFstart n true false 0 0 (landOlder n none (s.begun.at t))).setReg (coreReg n ALAUNCH) m.word).modCore n (fun c =>
        { ((mmBanks m.word).foldl (fun c b => c.setBank b { c.bank b with live := true, dieAt := none, land := landAt t }) c).letGo m.id t with
          mmacs := []
          seq := none
          halt := none
          ast := .stalled
          arrFree := max c.arrFree (m.at_ + m.occ) })
      Does (.arrayHalt n) s (initBanks n m.word m.mode t h))) ∧
  (∀ (n : Fin 8) (o : ArrOp) (k t : Nat) (hw : Hw), let g := landOlder n (some o) hw; let h := haltOp n o k t .stalled hw; let c := h.core n
    c.halt = none ∧ c.seq = none ∧ o ∉ c.ops ∧
    (k < o.kp → c.ast = .stalled ∧
      h.reg (coreReg n FSTART) = BitVec.ofNat 32 (2 ^ 31 + b2n o.entry.isSome * 2 ^ 20 + o.entry.getD 0 % 16 * 2 ^ 16 + k % 128) ∧
      ∀ b ∈ mmBanks o.word, (c.bank b).cells = (((runOp n o k t g).core n).bank b).cells) ∧
    (o.kp ≤ k → (g.core n).seq = none → c.ast = (if c.ops = [] then .idle else .run) ∧
      ∀ b ∈ mmBanks o.word, (c.bank b).cells = (((runOp n o o.kp t g).core n).bank b).cells) ∧
    (∀ q, o.kp ≤ k → (g.core n).seq = some q → c.ast = .stalled ∧
      h.reg (coreReg n FSTART) = BitVec.ofNat 32 (2 ^ 31 + 2 ^ 20 + q.next % 16 * 2 ^ 16))) ∧
  (∀ (n : Fin 8) (u : Writer) (j : Fin 16) (v : W32) (s : State), let c := s.hw.core n
    (CoreReaches u n s → c.ast = .stalled →
      Does (.cancel n u) s ((s.begun.clrReg (coreReg n FSTART) 0x80000000).setCore n { c with ast := .idle })) ∧
    (CoreReaches u n s → c.ast ≠ .stalled → Does (.cancel n u) s s.begun) ∧
    (CoreReaches u n s → c.ast = .idle → Does (.aseqWrite n j u v) s (s.begun.setReg (coreReg n (0x200 + 4 * j.val)) v)) ∧
    (CoreReaches u n s → c.ast ≠ .idle →
      Does (.aseqWrite n j u v) s (raiseBy { cls := cPROG_WRITE_ACTIVE, sev := 1, unit := u.unit,
                                             addr := 0x4000000000 + coreReg n (0x200 + 4 * j.val) } s.begun)) ∧
    (Reaches u s → coreOn s.hw n.val = false →
      Does (.cancel n u) s (unpopulatedWrite u (0x4000000000 + coreReg n 0x100) s.begun) ∧
      Does (.aseqWrite n j u v) s (unpopulatedWrite u (0x4000000000 + coreReg n (0x200 + 4 * j.val)) s.begun)))

/-- ARD starts the read-out that its checks let through: its beats are placed, its send is under way from its first beat, its destination
folio is in use and holds the output from its landing on, and its bank dies after the last row unless RETAIN is set; MMAC does the same
into an operand folio and holds its array part until that has landed, which then starts as an MMA of its word; CHN loads a 256-byte
descriptor into a slot that nothing holds, and conflicts while something does (R136, R137, R153–R156, R171–R175, R178–R180). -/
def Obligations.ReadOutsAndChains : Prop :=
  (∀ (n : Fin 8) (w : W32) (s : State), let hw := issued s n w; let c := hw.core n; let cyc := issueCyc c w
    (∀ p h, Issues s n w .ard → ReadsOut n ⟨c.pc, cyc, ardBank w, ardCs w, ardRetain w, none⟩ hw p h →
      Does (.ard n w) s (launchReadout n w ⟨c.pc, cyc, ardBank w, ardCs w, ardRetain w, none⟩ p h)) ∧
    (∀ p h op ss d h1, Issues s n w .mmac → strict hw n = false → mmZ w = true ∨ (mmD w = false ∧ mmAcc w ≠ mcSrc w) →
      let x : ReadCtx := ⟨c.pc, cyc, mcSrc w, mcCs w, false, some (mcIb w, if mmD w then [mmFa w, mmFb w, mmFb2 w] else [mmFa w, mmFb w])⟩
      ReadsOut n x hw p h → OpStarts n ⟨c.pc, cyc, p.lam, none, some (mcIb w), false, 0, some (h.nid + 2)⟩ (plainMma w) h op ss d h1 →
      Does (.mmac n w) s ((launchReadout n w x p h1).newId.modCore n (fun y =>
        let y := if mmP w then y.holdSlot cyc (h.nid + 2) (mmPs w) op.lastEntry else y
        { y with mmacs := y.mmacs ++ [⟨h.nid + 2, w, c.pc, p.lam, op.occ, op.mode⟩], ast := .run }))) ∧
    (let i := chSlot w; let a := (c.gr (chRs1 w)).toNat; let land := cyc + latMem hw a + 3
     let new := [readBeat hw n.val hw.nid c.pc cyc 0 a 128, readBeat hw n.val hw.nid c.pc cyc 0 (a + 128) 128]
     let h := (advance n w cyc (placed new hw)).modCore n (fun y => { y.setSlot i { y.slot i with land := landAt land } with
       loads := y.loads ++ [⟨hw.nid, c.pc, land, a, .chain i, false, false, false⟩]
       rdPort := max y.rdPort (cyc + 1) })
     Issues s n w .chn → ReadsLanded c cyc [(0, chRs1 w)] → AddressOk hw n 256 (c.gr (chRs1 w)) →
     (slotHeld hw n i cyc = false → c.rdPort ≤ cyc → AccessOk hw n c.pc cyc false new [(a, cyc), (a + 128, cyc)] h → Does (.chn n w) s h) ∧
     (slotHeld hw n i cyc = true → Does (.chn n w) s (conflict n c.pc cyc (0x30000007 + i * 0x10000) hw)))) ∧
  (∀ (n : Fin 8) (s : State) (m : MmacPart) (l : List MmacPart) (op : ArrOp) (ss : List ProStage) (d : Opnds) (h : Hw),
    let c := s.hw.core n
    c.mmacs = m :: l → (c.ast = .run ∨ (c.ast = .halting ∧ l ≠ [])) → meterStops s.hw n.val m.at_ = false →
    OpStarts n ⟨m.pc, m.at_, m.at_, none, none, false, 0, some m.id⟩ (plainMma m.word)
      ((s.begun.at m.at_).setCore n { c with mmacs := l }) op ss d h →
    Does (.mmacMmaPart n) s ((launchOp n op ss d (h.setReg (coreReg n ALAUNCH) m.word)).modCore n (fun x => { x with ast := c.ast }))) ∧
  (∀ (n : Fin 8) (w : W32) (x : ReadCtx) (p : ReadPlan) (hw : Hw), x.bank < 2 → let t := launchReadout n w x p hw
    (∀ b ∈ p.beats, b ∈ t.beats) ∧ ((t.core n).bank x.bank).cells = ((hw.core n).bank x.bank).cells ∧
      ((t.core n).bank x.bank).dieAt =
        (if x.retain then ((hw.core n).bank x.bank).dieAt else some (x.cyc + bankDim ((hw.core n).bank x.bank).mode)) ∧
      (p.send ≠ [] → planSend (hw.nid + 1) x p ∈ (t.core n).sends) ∧
      (∀ f, p.dest = some f → f < 8 → ((t.core n).fol f).inUse = true ∧ ((t.core n).fol f).stripValid = true ∧
        ((t.core n).fol f).landD = landAt p.lam ∧
        ((t.core n).fol f).data = tabBytes (outFolio p.out ((hw.core n).fol f).role).1 ((hw.core n).fol f).data))

/-- The acknowledgement of a core's first send that has handed over its last beat ends its outstanding transactions; with neither
semaphore enabled, that of its last write ends the send (R175). A lost or fenced peer ends the core's first send with the class of that
(R176). A parity error of a skew register in a slice that is still to come discards the step in progress, stops the core and makes a hold
due from the frame of the fault; a second one of the phase is phase-fatal instead; after the reload the array is stalled, and a check that
fails again is phase-fatal and clears VALID (R144, R145, R279, R282). -/
def Obligations.SendsAndSkewRegisters : Prop :=
  ∀ (n : Fin 8) (s : State), let c := s.hw.core n; let h := sendsDue s.begun
    (∀ x, (h.core n).sends.find? (fun y => y.beats.isEmpty) = some x →
      Does (.sendAck n) s ((h.net.txns.filter (fun t => decide (t.owner = .send n.val x.id))).foldl (fun g t => endTxn t 0 g) h)) ∧
    (∀ x t, (h.core n).sends = [x] → x.beats = [] → x.flying = 1 → x.dsemEn = false → x.lsemEn = false →
      h.net.txns.filter (fun t => decide (t.owner = .send n.val x.id)) = [t] → t.kind = 1 →
      Does (.sendAck n) s ({ h with net := { h.net with txns := h.net.txns.filter (fun y => decide (y ≠ t)) } }.setCore n
        { h.core n with sends := [] })) ∧
    ((h.core n).sends.find? (fun y => y.beats.isEmpty) = none → Does (.sendAck n) s h) ∧
    (∀ x l fenced, (h.core n).sends = x :: l →
      Does (.sendFail n fenced) s (sendFail n x.id (if fenced then cPEER_FENCED else cPEER_LOST) h) ∧
      (sendFail n x.id (if fenced then cPEER_FENCED else cPEER_LOST) h).core n =
        { (h.core n).stop .stoppedFault h.now with
          sends := (x :: l).filter (fun y => decide (y.id ≠ x.id))
          lastClass := if fenced then cPEER_FENCED else cPEER_LOST }) ∧
    (∀ fenced, (h.core n).sends = [] → Does (.sendFail n fenced) s s.begun) ∧
    (∀ o idx, newestOp c = some o → (c.ast = .run ∨ c.ast = .halting) → c.seq = none → let t := max s.hw.now (o.start + 1)
      t ≤ o.lastRead → let k := haltSlice o t false; let fatal := s.hw.hold.errors ≠ 0
      let h1 (sev : Nat) := ((coreStopNow n { plainFault n cARRAY_SKEW_PARITY o.pc 0 (idx % 128) with sev := sev } (haltOp n o k t .scrub
        (s.begun.at t))).modCore n (fun c => { c with ast := .scrub, scrubEnd := t + 16, skewIdx := idx % 128 })).setFld
        (coreReg n 0x104) 16 8 (satInc (s.hw.fld (coreReg n 0x104) 16 8) 255)
      (¬ fatal → Does (.arraySkewParity n idx) s { h1 1 with hold := { (h1 1).hold with
        due := (h1 1).hold.due.or (some (frameOf t))
        errors := (h1 1).hold.errors + 1
        par := some (n.val, o.entry0 + (k - o.from_) * o.rate - (6 + 2 * o.q)) } }) ∧
      (fatal → Does (.arraySkewParity n idx) s { h1 2 with hold := { (h1 2).hold with
        errors := satInc (h1 2).hold.errors 255
        par := none } })) ∧
    (newestOp c = none → ∀ idx, Does (.arraySkewParity n idx) s s.begun) ∧
    (c.ast = .scrub → Does (.skewScrubDone n true) s ((s.begun.at c.scrubEnd).setCore n { c with ast := .stalled })) ∧
    (c.ast = .scrub →
      Does (.skewScrubDone n false) s ((raiseBy { plainFault n cARRAY_SKEW_PARITY c.pc 0 (0x100 + c.skewIdx) with sev := 2 }
        ((s.begun.at c.scrubEnd).setCore n { c with ast := .stalled })).clrReg (coreReg n FSTART) 0x80000000)) ∧
    (c.ast ≠ .scrub → ∀ pass, Does (.skewScrubDone n pass) s s.begun)

/-- FSAVE of an idle or stalled array, unoccupied, writes its header and the sections of what is in use to an aligned area, and the saved
folios and banks are busy until it is acknowledged; FRSTR reads an area with a good header for an idle array with nothing in use, and its
state lands with FOLIO_LAND: folios, banks, registers, and a stalled array where the saved FSTART is valid; in another state of the array
either is a conflict (R148–R151). -/
def Obligations.ContextsAreSavedAndRestored : Prop :=
  (∀ (n : Fin 8) (w : W32) (s : State), let hw := issued s n w; let c := hw.core n; let cyc := issueCyc c w; let a := (c.gr (svRs1 w)).toNat
    (let bs := saveHeader hw n cyc ++ saveSections c cyc; let len := bs.length / 128; let ack := cyc + len - 1 + latMem hw a
     let ls := (List.range len).map (fun i => (i, a + 128 * i, 128))
     let new := (unitCycles hw none ls).map (fun p => writeBeat hw n.val hw.nid c.pc cyc p.1 p.2.1 none
       (atAddr p.2.1 (bytesAt bs (p.2.1 - a) 128)))
     let port := hw.setCore n { c with wrPort := (cyc, cyc + len) :: c.wrPort.filter (fun q => decide (cyc < q.2)) }
     let h := (advance n w cyc (placed new port)).modCore n (fun y =>
       let y := ((List.range 8).filter (fun f => (c.fol f).inUse)).foldl (fun y f => y.makeBusy cyc hw.nid f cyc ack) y
       let y := ((List.range 2).filter (fun b => (c.bank b).liveAt cyc)).foldl (fun y b => y.setBank b { y.bank b with busy := ack }) y
       { y with stores := y.stores ++ [⟨hw.nid, c.pc, ack, lineAddrs ls⟩] })
     Issues s n w .fsave → ReadsLanded c cyc [(0, svRs1 w)] →
     (occupied hw n cyc = false → (c.ast = .idle ∨ c.ast = .stalled) → a % 128 = 0 → areaOk hw n a bs.length = true →
       (∀ f, f < 8 → (c.fol f).perr = []) → (∀ b, b < 2 → (c.bank b).perr = []) → portFree c.wrPort cyc len = true →
       beatsBad hw new = none →
       handoffCheck n c.pc cyc true (ls.map (fun p => (p.2.1, cyc + p.1 + latMem hw a))) h = h → Does (.fsave n w) s h) ∧
     (occupied hw n cyc = true → Does (.fsave n w) s (conflict n c.pc cyc 0x30000001 hw)) ∧
     (occupied hw n cyc = false → c.ast ≠ .idle → c.ast ≠ .stalled → Does (.fsave n w) s (conflict n c.pc cyc 0x30000006 hw))) ∧
    (let hd := (settle cyc hw).bytes a 128; let size := sectionSize (leAt hd 0x20 4); let lat := latMem hw a
     let land := cyc + 2 * lat + 1 + ceilDiv size 256
     let ls := (0, a, 128) :: (List.range (size / 128)).map (fun i => (lat + 1 + i / 2, a + 128 + 128 * i, 128))
     let new := (unitCycles hw none ls).map (fun p => readBeat hw n.val hw.nid c.pc cyc p.1 p.2.1 p.2.2)
     let h := (advance n w cyc (placed new hw)).modCore n (fun y =>
       { (maskFolios (leAt hd 0x20 4 % 256)).foldl (fun y f => y.makeBusy cyc hw.nid f cyc land) y with
         rdPort := land
         restore := some ⟨hw.nid, c.pc, a, hd, land⟩ })
     Issues s n w .frstr → ReadsLanded c cyc [(0, svRs1 w)] →
     (c.ast = .idle → fuseWord c cyc % 2 ^ 18 = 0 → a % 128 = 0 → areaOk hw n a 128 = true → c.rdPort ≤ cyc → headerBad hd = false →
       areaOk hw n a (128 + size) = true → AccessOk hw n c.pc cyc false new (ls.map (fun p => (p.2.1, cyc))) h → Does (.frstr n w) s h) ∧
     (c.ast ≠ .idle ∨ fuseWord c cyc % 2 ^ 18 ≠ 0 → Does (.frstr n w) s (conflict n c.pc cyc 0x30000006 hw)))) ∧
  (∀ (n : Fin 8) (s : State) (r : Restore), (s.hw.core n).restore = some r → (∀ o ∈ (s.hw.core n).floads, r.land < o.land) →
    let h := settle r.land (s.begun.at r.land); let gs := gotOf h r.id
    let h1 := dropGot r.id (h.setCore n { h.core n with restore := none })
    let whole := (gs.map (fun g => g.bytes.length)).sum = 128 + sectionSize (leAt r.header 0x20 4)
    let t := restored n r.header ((gs.filter (fun g => decide (g.addr ≠ r.addr))).flatMap (fun g => g.bytes)) r.land h1
    (¬ whole → Does (.folioLand n) s h1) ∧
    (whole → gotBad gs = none → Does (.folioLand n) s t) ∧
    (∀ a, whole → gotBad gs = some a → Does (.folioLand n) s (badStop n r.pc r.land a h h1))) ∧
  (∀ (n : Fin 8) (hd bs : List Byte) (land : Nat) (hw : Hw), Registers.wf hw → let t := restored n hd bs land hw
    (∀ f, f < 8 → ((t.core n).fol f).fcfg = BitVec.ofNat 32 (leAt hd (4 * f) 4) ∧ ((t.core n).fol f).inUse = nbit (leAt hd 0x20 4) f ∧
      ((t.core n).fol f).stripValid = nbit (leAt hd 0x20 4) (8 + f) ∧ ((t.core n).fol f).landD = landAt land) ∧
    (∀ b, b < 2 → nbit (leAt hd 0x20 4) (16 + b) = true → ((t.core n).bank b).live = true ∧ ((t.core n).bank b).land = landAt land) ∧
    (t.core n).ast = (if nbit (leAt hd 0x24 4) 31 then .stalled else (hw.core n).ast) ∧
    t.reg (coreReg n FSTART) = BitVec.ofNat 32 (leAt hd 0x24 4 % 2 ^ 32 &&& 0x801F007F) ∧
    t.reg (coreReg n ALAUNCH) = BitVec.ofNat 32 (leAt hd 0x28 4) ∧
    (∀ e, e < 16 → aseqWord t n e = BitVec.ofNat 32 (leAt hd (0x40 + 4 * e) 4)))

/-! ### Carrels -/

/-- A carrel command that R235 lets pass and whose operands, resources, list and beats fit is in flight from its T0, 24 BCLK after its
issue; the broadcast load where every carrel that takes part names itself and only others that take part; SIG puts a signal of P0 on its
way 8 cycles after T0, BAR an arrival at T0; SWT waits at its record; END ends the list. What R235 refuses, a semaphore that is not
allocated, an operand that has not landed, and a resource in use stop the engine with their class, and so does a broadcast load that its
carrels do not agree on (R229–R238, R244, R247, R319, R320, R324, R326). -/
def Obligations.CarrelCommandsAreIssued : Prop :=
  ∀ (c : Fin 64) (r : CarRec) (s : State), let t := carTime s c r; let g := carRead s c r
    (∀ p ∈ carRows, CarIssues s c p.2 r → ∀ op h, CarFits g c.val t r op h → Does (p.1 c r) s (carEntered h c.val t op)) ∧
    (CarIssues s c 0x11 r → ldbAgree g t r = true → ∀ op h, CarFits g c.val t r op h →
      Does (.ldb (.carrel c r)) s (carEntered h c.val t op)) ∧
    (CarIssues s c 0x11 r → ldbAgree g t r = false → (∀ k, k < 64 → ∀ o ∈ (g.car k).ops, o.t0 ≠ t + 24) →
      Does (.ldb (.carrel c r)) s (carIssueFault c.val cSCHED_SLOT_CONFLICT t 0 0x32000005 g)) ∧
    (CarIssues s c 0x18 r → semOn g (crP1 r) = true → ∀ op h, CarFits g c.val t r op h →
      Does (.sig c r) s (signalAll (crP1 r) (crP0 r) (0x40 + c.val) 0 0 (2 * (t + 24) + 8) (carEntered h c.val t op))) ∧
    (CarIssues s c 0x1A r → ∀ op h, CarFits g c.val t r op h →
      Does (.bar c r) s ((carEntered h c.val t op).modSync (fun y => { y with
        arrivals := y.arrivals ++ [⟨crP1 r % 4096, 2 * (t + 24), 0x40 + c.val, (g.car c.val).pc⟩] }))) ∧
    (CarIssues s c 0x19 r → semOn g (crP1 r) = true →
      Does (.swt c r) s (g.modCar c.val (fun e => { e with
        st := .wait
        wait := some ⟨crP1 r, crP0 r, (g.car c.val).pc, 2 * t⟩
        last := t }))) ∧
    (∀ p ∈ [((fun c r => Instr.sig c r), 0x18), ((fun c r => .swt c r), 0x19)], CarIssues s c p.2 r → semOn g (crP1 r) = false →
      Does (p.1 c r) s (carIssueFault c.val cACCESS_RANGE t 0 (crP1 r) g)) ∧
    (CarIssues s c 0x1F r → Does (.endList c r) s (g.modCar c.val (fun e => { e with ended := true, last := t }))) ∧
    (∀ p ∈ carRows, CarComesTo s c r →
      (carIllegal r = true → Does (p.1 c r) s (carIssueFault c.val cILLEGAL_INSTR t 0 0 g)) ∧
      (carIllegal r = false → crOp r = p.2 → carMisaligned r = true → Does (p.1 c r) s (carIssueFault c.val cACCESS_ALIGN t 0 0 g)) ∧
      (carIllegal r = false → crOp r = p.2 → carMisaligned r = false → carRange g r = true →
        Does (p.1 c r) s (carIssueFault c.val cACCESS_RANGE t 0 0 g))) ∧
    (∀ p ∈ carRows, CarIssues s c p.2 r → ∀ early h, scratchEarly c.val (t + 24) r g = (early, h) →
      (0 < early → Does (p.1 c r) s (carFault c.val
        { cls := cSCHED_LATE, sev := 2, unit := 0x40 + c.val, instr := (g.car c.val).pc, exp := frameOf (2 * (t + 24 + early)),
          act := frameOf (2 * (t + 24)), syn := 0x50000000 + min early 255 } h)) ∧
      (∀ x, early = 0 → busyResource (g.car c.val) r (t + 24) (carEndOf c.val t r) = some x →
        Does (p.1 c r) s (carIssueFault c.val cSCHED_SLOT_CONFLICT t 0 (0x32000000 + x) h)))

/-- What a carrel command does to memory, from its operands as they stand at T0: DOT, REDUCE, GATHER, CSUM
and TOPK bring their result to DST, into scratch when it lands, into CSM one line in each of the last BCLK before; a MOVE from BM and the
broadcast and other loads of CSM bring theirs to scratch when they land; a DOT that adds to what CSM holds reads its y there first, one
line in each of the first BCLK, and computes when it has the last; AXPY, SCALE, OPT, RERANGE and a MOVE to BM write
their units over the span. The entries of GATHER, SCATTER and ATOM are performed one in 16 BCLK: an entry is read from scratch and judged,
against the handoff table too where the list was still to land at the issue, its unit is read, and for SCATTER written, in its BCLK; the word of an ATOM is read in it, written in the next, and what it held lands in
the list; which line moves in which BCLK is the model's choice where the spec gives the span alone (log entry 10) (R231, R232, R235, R239–R247). -/
def Obligations.CarrelCommandsWrite : Prop :=
  (∀ (hw : Hw) (c : Nat) (o : CarOp), let r := o.cmd; let land := o.e + carLat r; let d := carD r
    let dst (l : List Byte) : Prop := carMoves hw c o = toDst c r land l
    let bm (l : List (Nat × List Byte)) : Prop := carMoves hw c o = toMoves (spread c o.t0 d l)
    (crOp r = 0x01 → dotReads r = false → dst (carDot hw c r (fun i => if crBit r 2 then hw.num (carDst c r + 4 * i) 4 else 0))) ∧
    (dotReads r = true → ⟨o.t0 + dotLines r, true, 0, 0, .step 0⟩ ∈ carMoves hw c o ∧
      (∀ j, j < dotLines r →
        ⟨o.t0 + j, false, csmAt (crDst r) + 128 * j, min 128 (4 * crN r - 128 * j), .read⟩ ∈ carLines c o) ∧
      ∀ i, let n := carDstLen r; i < up n 128 →
        ⟨land - up n 128 + i, true, carDst c r + 128 * i, min 128 (n - 128 * i), .got (dotPlace + 128 * i)⟩ ∈ carMoves hw c o) ∧
    (crOp r = 0x02 → bm [(carBm hw c (crA r), carAxpy hw c r)]) ∧
    (crOp r = 0x03 → bm [(carBm hw c (crA r), carScale hw c r)]) ∧
    (crOp r = 0x04 → dst (carReduce hw c r)) ∧
    (crOp r = 0x05 → bm [(carBm hw c (crA r), (carOpt hw c r).1), (carBm hw c (crDst r), (carOpt hw c r).2)]) ∧
    (crOp r = 0x06 → bm [(carBm hw c (crB r), carRerange hw c r)]) ∧
    (crOp r = 0x09 → dst (leBytes (crc32c (if crBit r 0 then some (crP0 r) else none) (hw.bytes (carBm hw c (crA r)) (crN r))) 4)) ∧
    (crOp r = 0x0A → dst (carTopk hw c r)) ∧
    (∀ l, crBit r 5 = false → toDst c r land l = [⟨land, true, carScr c (crDst r), l.length, .bytes (atAddr (carScr c (crDst r)) l)⟩]) ∧
    (∀ i l, crBit r 5 = true → 128 * i < l.length → let x := (l.drop (128 * i)).take 128
      ⟨land - up l.length 128 + i, true, csmAt (crDst r) + 128 * i, x.length, .bytes (atAddr (csmAt (crDst r) + 128 * i) x)⟩ ∈
        toDst c r land l) ∧
    (crOp r = 0x0C → crBit r 0 = false → carMoves hw c o =
      [⟨land, true, carScr c (crS r), crN r, .bytes (atAddr (carScr c (crS r)) (hw.bytes (carBm hw c (crA r)) (crN r)))⟩]) ∧
    (crOp r = 0x0C → crBit r 0 = true → bm [(carBm hw c (crA r), hw.bytes (carScr c (crS r)) (crN r))]) ∧
    (∀ j, j < crN r → (crOp r = 0x07 ∨ crOp r = 0x08) → ⟨spanBeat c o.t0 (16 * j), true, 0, 0, .step j⟩ ∈ carMoves hw c o) ∧
    (∀ i, let n := carU r * crN r; i < up n 128 → crOp r = 0x07 →
      ⟨if crBit r 5 then land - up n 128 + i else land, true, carDst c r + 128 * i, min 128 (n - 128 * i), .got (carDst c r + 128 * i)⟩ ∈
        carMoves hw c o) ∧
    (∀ j k, j < crN r → k < 2 → crOp r = 0x0B → ⟨spanBeat c o.t0 (16 * j + k), true, 0, 0, .step (2 * j + k)⟩ ∈ carMoves hw c o) ∧
    (∀ j, j < crN r → crOp r = 0x0B →
      ⟨land, true, carScr c (crS r) + 16 * j + 8, 8, .got (carScr c (crS r) + 16 * j + 8)⟩ ∈ carMoves hw c o) ∧
    (∀ j, j < crN r / 128 →
      ((crOp r = 0x10 ∨ crOp r = 0x11) → ⟨land, true, carScr c (crS r) + 128 * j, 128, .got (csmAt (crB r) + 128 * j)⟩ ∈ carLines c o) ∧
      (crOp r = 0x10 → ⟨o.t0 + j, false, csmAt (crB r) + 128 * j, 128, .read⟩ ∈ carLines c o) ∧
      (crOp r = 0x11 → ⟨o.t0 + j / 2, false, csmAt (crB r) + 128 * j, 128, .read⟩ ∈ carLines c o) ∧
      (crOp r = 0x12 →
        ⟨o.t0 + j, true, csmAt (crB r) + 128 * j, 128, .mem (carScr c (crS r) + 128 * j)⟩ ∈ carLines c o))) ∧
  (∀ (hw : Hw) (c : Nat) (o : CarOp) (j : Nat), let r := o.cmd; let e := carScr c (crS r) + 16 * (j / 2) + 8
    let checks (u : Nat × Nat) (h : Hw) : Prop := (if o.open_ then
        carRanges hw c (o.t0 - 24) (o.e + carLat r) o.pc (if listReads r then [u] else []) (if listWrites r then [u] else [])
      else (none, hw)) = (none, h) ∧ hw.bad = [] ∧ h.soft = []
    (dotReads r = true → hw.bad = [] → hw.soft = [] → let gs := hw.got.filter (fun g => decide (g.id = o.id)); gotBad gs = none →
      carStep c o j hw = capture o.id dotPlace
        (carDot hw c r (fun i => leNat ((List.range 4).map (fun k => gotByte gs (carDst c r + 4 * i + k))))) hw) ∧
    (∀ i, isList r = true → i = (if crOp r = 0x0B then j / 2 else j) → (crOp r = 0x0B → j % 2 = 0) → hw.bad = [] →
      carEntryBad hw c r i ≠ 0 →
      carStep c o j hw = carAbort c o { cls := carEntryBad hw c r i, sev := 2, unit := 0, exp := hw.frame, act := hw.frame } hw) ∧
    (∀ h, let a := carBm hw c (crA r + carU r * carIdx hw c r j); crOp r = 0x07 → checks (a, carU r) h → carEntryBad hw c r j = 0 →
      carStep c o j hw = capture o.id (carDst c r + carU r * j) (hw.bytes a (carU r)) h) ∧
    (∀ h, let a := carBm hw c (crA r + carU r * carIdx hw c r j); crOp r = 0x08 → checks (a, carU r) h → carEntryBad hw c r j = 0 →
      carStep c o j hw = (h.write (atAddr a (hw.bytes (carScr c (crP0 r + carU r * j)) (carU r))) none).1) ∧
    (∀ h, crOp r = 0x0B → j % 2 = 0 → let w := atomWord hw c r (j / 2); checks (carBm hw c w.1, w.2) h →
      carEntryBad hw c r (j / 2) = 0 → carStep c o j hw = capture o.id e (leBytes (hw.num (carBm hw c w.1) w.2) 8) h) ∧
    (∀ g, crOp r = 0x0B → j % 2 = 1 → hw.got.find? (fun g => decide (g.id = o.id ∧ g.addr = e)) = some g →
      let w := atomWord hw c r (j / 2)
      carStep c o j hw =
        (hw.write (atAddr (carBm hw c w.1) (leBytes (atomNew (crFlags r % 4) (leNat g.bytes) (hw.num e 8)) w.2)) none).1))

/-- ARM, GO and STOP of a carrel engine are as a core's; a waiting engine takes its count at a BCLK edge and goes on past its SWT from the
first frame boundary at least 2 BCLK later, of which CAR_ANCHOR tells the frame; past END an engine whose last command has completed is
IDLE, a stopping one STOPPED_REQ; a command that has lost a beat performs nothing more and stops its engine, and the later ones of its
engine with it (R101, R107, R108, R219, R229, R237, R238, R258, R325). -/
def Obligations.CarrelEnginesStartAndStop : Prop :=
  ∀ (c : Fin 64) (u : Writer) (s : State), let e := s.hw.car c.val; let go := s.hw.reg64 (carReg c.val 0x10)
    let rest := e.st = .idle ∨ e.st = .stoppedFault ∨ e.st = .stoppedReq
    (Reaches u s → awake s.hw = true → rest → s.hw.frame < go →
      Does (.carArm c u) s (s.begun.modCar c.val (fun e => { e with st := .armed }))) ∧
    (Reaches u s → awake s.hw = true → rest → go ≤ s.hw.frame → Does (.carArm c u) s ((raise
      { cls := cSCHED_LATE, sev := 1, unit := 0x40 + c.val, q := .none, exp := go, act := s.hw.frame, syn := 0x70000000 } s.begun).modCar
        c.val (fun e => { e with lastClass := cSCHED_LATE }))) ∧
    (Reaches u s → ¬ (awake s.hw = true ∧ rest) → Does (.carArm c u) s (refuse u.unit s.begun)) ∧
    (e.st = .armed → go = s.hw.frame → atBoundary s.hw = true →
      Does (.carGo c) s ((s.begun.at (6 * go)).modCar c.val (fun e => { e with
        st := .run
        ended := false
        wait := none
        pc := (s.hw.reg (carReg c.val 8)).toNat % 0x40000
        last := 3 * go }))) ∧
    (e.st = .armed → go = s.hw.frame → atBoundary s.hw = false →
      Does (.carGo c) s ((refuseWhy (0x40 + c.val) 0x09 s.begun).modCar c.val (fun e => { e with
        st := .idle
        lastClass := cADMISSION_REFUSED }))) ∧
    (e.st ≠ .armed ∨ go ≠ s.hw.frame → Does (.carGo c) s s.begun) ∧
    (let h := syncTo s.hw.now s.begun; let x := h.car c.val
     Reaches u s →
     (x.st = .armed → Does (.carStop c u) s (h.modCar c.val (fun e => { e with st := .idle }))) ∧
     (x.st = .run → x.ended = false → Does (.carStop c u) s (h.modCar c.val (fun e => { e with st := .stopping }))) ∧
     (x.st = .wait → Does (.carStop c u) s (h.modCar c.val (fun e => { e with st := .stopping, wait := none }))) ∧
     (x.st = .idle ∨ x.st = .stopping ∨ x.st = .stoppedFault ∨ x.st = .stoppedReq ∨ (x.st = .run ∧ x.ended = true) →
       Does (.carStop c u) s (h.modCar c.val id))) ∧
    (∀ x, e.wait = some x → waiters s.hw = [(0x40 + c.val, 0, x)] → s.hw.sync.signals = [] → s.hw.sync.arrivals = [] →
      (s.hw.hold.held = false → x.count ≤ semVal s.hw x.sem →
        let t := bclkAt (max x.since s.hw.sync.time)
        let h := setSem x.sem (semVal s.hw x.sem - x.count) (s.begun.at t)
        Does (.swtTake c) s (((h.modSync (fun y => { y with time := max s.hw.now t })).modCar c.val (fun e => { e with
          st := .run
          wait := none
          pc := (e.pc + 32) % 0x40000
          last := 3 * frameAt (t + 4) })).setReg64 (carReg c.val 0x18) (frameAt (t + 4)))) ∧
      (semVal s.hw x.sem < x.count ∨ s.hw.hold.held = true → Does (.swtTake c) s s.begun)) ∧
    (let t := e.ops.foldl (fun m o => max m (2 * o.done)) 0; let h := carPurge c.val t (s.begun.at t)
     (e.st = .stopping → (h.car c.val).st = .stopping →
       Does (.carrelCommandsComplete c) s (h.modCar c.val (fun e => { e with st := .stoppedReq, ended := false }))) ∧
     (e.st = .run → e.ended = true → (h.car c.val).st = .run → (h.car c.val).ended = true →
       Does (.carrelCommandsComplete c) s (h.modCar c.val (fun e => { e with st := .idle, ended := false }))) ∧
     (e.st ≠ .stopping → e.ended = false → Does (.carrelCommandsComplete c) s s.begun)) ∧
    (∀ o l, e.ops = [o] → o.lost = some l → Does (.carrelBeatLost c) s (carPurge c.val l.1 (s.begun.at l.1))) ∧
    (∀ (hw : Hw) (t k : Nat) (o : CarOp) (l : Nat × Nat), (hw.car c.val).ops = [o] → o.lost = some l → l.1 ≤ t →
      let r : FaultRec :=
        { cls := cSCHED_SLOT_CONFLICT, sev := 2, unit := 0, exp := frameOf l.1, act := frameOf l.1, syn := l.2 }
      let past := carLose c.val t (k + 1) hw; let stops := carAbort c.val o r { hw with now := min hw.now l.1 }
      (past.car c.val).ops = [] ∧ (past.car c.val).st = .stoppedFault ∧ past.rcd = stops.rcd ∧ past.beats = stops.beats) ∧
    ((∀ o ∈ e.ops, o.lost = none) → Does (.carrelBeatLost c) s s.begun)

/-- A refresh period latches COOL_NEXT (R223); a group's refresh slot scrubs the row at its pointer and, during a rebuild, copies one
scheduled row, then the dirty ones, none in a bank that the period refreshes (R221, R225, R249, R250). A scrubbed row with an
uncorrectable word is recorded and left as it is; of another every correctable word is put right (R225, R226). REMAP_START of a legal
shadow table schedules every row whose place changes, and one that may not be is refused with the group's number; ABORT before the swap
restores the table; with nothing left at a frame boundary the shadow tables become active, are copied back, and the rebuild is over
(R248, R251, R252). -/
def Obligations.RefreshAndRemap : Prop :=
  ∀ (g : Fin 64) (u : Writer) (s : State), let m := s.hw.bmc
    (s.hw.frame % 520 = 0 → refreshOn s.hw = true →
      Does .refreshPeriodStart s { s.begun with bmc := { m with cool := nbit (s.hw.reg 0x900000).toNat 0 } }) ∧
    (s.hw.frame % 520 ≠ 0 ∨ refreshOn s.hw = false → Does .refreshPeriodStart s s.begun) ∧
    (s.hw.frame % 520 = 130 * (g.val % 4) → refreshOn s.hw = true →
      Does (.refreshSlot g) s (migrationStep g.val (scrubStep g.val (settle s.hw.now s.begun)))) ∧
    (s.hw.frame % 520 ≠ 130 * (g.val % 4) ∨ refreshOn s.hw = false → Does (.refreshSlot g) s s.begun) ∧
    (∀ hw : Hw, let p := scrubRow hw (tabGet (fun _ => 0) hw.bmc.scrub g.val); let k := scrubKey hw g.val p
      let on (h : Hw) : Hw := { h with bmc := { h.bmc with scrub := tabPut (fun _ => 0) g.val ((p + 1) % scrubRows hw) h.bmc.scrub } }
      (∀ w ∈ hw.bad, k ≤ w → w < k + 2048 → scrubStep g.val hw = on (countBad k (raise
        { cls := cBM_UNCORRECTABLE, sev := 0, unit := 0x40 + g.val, q := .none, addr := scrubAddr hw g.val p } hw))) ∧
      ((∀ w ∈ hw.bad, ¬ (k ≤ w ∧ w < k + 2048)) → scrubStep g.val hw =
        on ((hw.soft.filter (fun w => decide (k ≤ w ∧ w < k + 2048))).foldl (countCorr .none)
          { hw with soft := hw.soft.filter (fun w => !decide (k ≤ w ∧ w < k + 2048)) }))) ∧
    (∀ hw : Hw, let may (y : Nat) : Prop := y / 2 ^ 15 = g.val ∧ y % bankCount hw ∉ refreshBanks hw
      hw.bmc.busy = true →
      (∀ x, hw.bmc.todo.find? (fun y => decide (may y)) = some x →
        migrationStep g.val hw = { migrateRow x hw with bmc := { hw.bmc with
          todo := hw.bmc.todo.filter (fun y => decide (y ≠ x))
          copied := setIns x hw.bmc.copied } }) ∧
      (∀ x, hw.bmc.todo.find? (fun y => decide (may y)) = none → hw.bmc.dirty.find? (fun y => decide (may y)) = some x →
        migrationStep g.val hw = { migrateRow x hw with bmc := { hw.bmc with dirty := hw.bmc.dirty.filter (fun y => decide (y ≠ x)) } })) ∧
    (Reaches u s → m.busy = false → awake s.hw = true → (∀ k, k < 64 → remapBad s.hw k = false) →
      Does (.remapStart u) s { s.begun with bmc := { m with
        busy := true
        todo := (List.range 64).flatMap (remapMoves s.hw)
        copied := []
        dirty := []
        copyEnd := none } }) ∧
    (Reaches u s → m.busy = true ∨ awake s.hw = false →
      Does (.remapStart u) s (raise { cls := cADMISSION_REFUSED, sev := 1, unit := u.unit } s.begun)) ∧
    (∀ k, Reaches u s → m.busy = false → awake s.hw = true → (List.range 64).find? (remapBad s.hw) = some k →
      Does (.remapStart u) s (raise { cls := cADMISSION_REFUSED, sev := 1, unit := u.unit, syn := k * 0x100 } s.begun)) ∧
    (Reaches u s → m.busy = true → m.copyEnd = none →
      Does (.remapAbort u) s { s.begun with
        shadow := s.hw.active
        bmc := { m with busy := false, todo := [], copied := [], dirty := [] } }) ∧
    (Reaches u s → m.busy = false ∨ m.copyEnd ≠ none → Does (.remapAbort u) s s.begun) ∧
    (let h := settleBefore s.hw.now s.begun
     let left := h.bmc.busy = true ∧ h.bmc.copyEnd = none ∧ h.bmc.todo = [] ∧ h.bmc.dirty = []
     (s.hw.now = 6 * s.hw.frame → left →
       Does .remapSwap s ({ h with
         active := h.shadow
         bmc := { h.bmc with swapped := true, copied := [], copyEnd := some (s.hw.now + 8192) } }.setReg64 0x900018 s.hw.frame)) ∧
     (s.hw.now ≠ 6 * s.hw.frame ∨ ¬ left → Does .remapSwap s s.begun)) ∧
    (∀ k, m.copyEnd = some k →
      Does .remapCopyDone s { s.begun with shadow := s.hw.active, bmc := { m with busy := false, copyEnd := none } }) ∧
    (m.copyEnd = none → Does .remapCopyDone s s.begun)

/-! ### The timing contract -/

/-- With the clock locked a frame boundary counts TIM_FRAME, after the meter, the semaphore block and the overdue watch have seen the frame
that ended; a frame in slow-exact mode marks the phase, counts the time without TEMERG, and is two of the heartbeat's (R22, R271, R284,
R285, R337, R362). At a boundary firmware ends the phase of a hold that it may not release: the reload has not been checked, or Δ would
exceed 8,320 frames (R281, R282; when firmware looks is the model's choice, log entry 90). The armed boundary of the present frame is
accepted where no reason of R256 stands against it: the rows that have passed by then count in the mode that ends, it latches budget,
masks, mode and the handoff list, and starts the prepared phase (R67, R74, R255, R262, R273, R276, R343, R479); else it is refused, and
units armed for it return to IDLE (R256). In ORPHAN queues that may park do so at a boundary (R363), and the hand-over record follows. -/
def Obligations.FramesAndPhaseBoundaries : Prop :=
  (∀ s : State, let t := 6 * (s.hw.frame + 1)
    let h := watchFrame (syncTo t (meterFrame s.hw.frame ((meterTo (t - 1) s.begun).at t)))
    (s.hw.clk.lock = false → Does .frameBoundary s s.begun) ∧
    (s.hw.clk.lock = true → s.hw.clk.slow = false → Does .frameBoundary s (firmHold (farTo { h with
      frame := s.hw.frame + 1
      clk := { h.clk with lowFrames := 0 }
      fw := { h.fw with hbClock := h.fw.hbClock + 1 } }))) ∧
    (s.hw.clk.lock = true → s.hw.clk.slow = true → Does .frameBoundary s (firmHold (farTo (markWall ({ h with
      frame := s.hw.frame + 1
      clk := { h.clk with lowFrames := if s.hw.clk.temerg then 0 else s.hw.clk.lowFrames + 1 }
      fw := { h.fw with hbClock := h.fw.hbClock + 2 } }.orReg 0x30001C 4)))))) ∧
  (∀ h : Hw, let fails := fwRuns h = true ∧ h.hold.held = true ∧ h.hold.pend = false ∧
      (holdScrubbed h = false ∨ 8320 < (h.frame + 2 - h.reg64 0x300030 + 4159) / 4160 * 4160)
    (fails → firmHold h = stopUnits { h with hold := { h.hold with held := false, pend := false, par := none } }) ∧
    (¬ fails → firmHold h = h) ∧
    (∀ (n : Fin 8) (k : Nat), h.hold.par = some (n.val, k) → holdScrubbed h = nbit (h.reg (coreReg n 0x108)).toNat 31)) ∧
  (∀ s : State,
    let after (f : Hw → Hw) : Hw := noted (fun h => orphanPark (f h)) s.begun
    (nbit (s.hw.reg 0x300018).toNat 0 = false ∨ s.hw.reg64 0x300008 ≠ s.hw.frame → Does .phaseBoundary s (after id)) ∧
    (nbit (s.hw.reg 0x300018).toNat 0 = true → s.hw.reg64 0x300008 = s.hw.frame →
      (∀ r, boundaryReason s.hw = some r →
        Does .phaseBoundary s
          (after (fun h => irq 0x08 (((refuseWhy 0xF0 r (disarmUnits h)).clrReg 0x300018 1).orReg 0x30001C 1)))) ∧
      (boundaryReason s.hw = none →
        Does .phaseBoundary s
          (after (fun h => irq 0x08 (adminApply (pageSwap (epochBoundary (latchBoundary (settle h.now h)))))))))) ∧
  (∀ h : Hw, h.fw.orphan = false → orphanPark h = h) ∧
  (∀ h : Hw, Tables.wf h →
    let g := (List.finRange 8).foldl (fun g n => rowsTo n (6 * g.frame - 1) g) h
    let b := latchBoundary h
    b.handoff = handoffList h ∧ b.chkOff = [] ∧ b.chkBoth = [] ∧ b.rcd = { g.rcd with phaseSeen := true } ∧
      b.hold = { g.hold with errors := 0, par := if h.hold.held then h.hold.par else none, delta := if h.hold.held then h.hold.delta else 0 } ∧
      b.fld 0x200000 0 9 = h.fld 0x200000 16 9 ∧ b.fld 0x200004 0 9 = h.fld 0x200004 16 9 ∧
      b.fld 0x200008 0 16 = h.fld 0x200008 16 16 ∧ b.reg64 0x200018 = h.reg64 0x200010 ∧
      b.reg64 TIM_PHASE_START = h.frame % 2 ^ 64 ∧ nbit (b.reg 0x300018).toNat 0 = false ∧ b.reg FLT_QID = h.reg 0xB00008 ∧
      (∀ n : Fin 8, b.fld (coreReg n 0x400) 0 1 = g.fld (coreReg n 0x400) 1 1) ∧
      b.fld TIM_CHK_STAT 1 2 = 0 ∧
      (∀ p, g.fw.phase = some p → p.start = h.frame → b.fw.phase = some { p with running := true }) ∧ b.cores = g.cores ∧
      b.cars = g.cars ∧ b.tes = g.tes ∧ b.mem = g.mem ∧ b.sync = g.sync ∧ b.net = g.net ∧ b.kc = g.kc)

/-- ARMED is set for a frame to come while the cluster is awake, late or refused else; DISARM clears it (R257, R471). At the end of a
phase's length each unit that has not ended is recorded late, once; 64 frames later firmware stops it (R259, R260). -/
def Obligations.PhasesAreArmedAndChecked : Prop :=
  ∀ (u : Writer) (s : State), Reaches u s →
    (awake s.hw = false → Does (.phaseArm u) s (refuse u.unit s.begun)) ∧
    (awake s.hw = true → s.hw.reg64 0x300008 ≤ s.hw.frame → Does (.phaseArm u) s (raise
      { cls := cSCHED_LATE, sev := 1, unit := u.unit, q := .none, exp := s.hw.reg64 0x300008, act := s.hw.frame, syn := 0x70000001 } s.begun)) ∧
    (awake s.hw = true → s.hw.frame < s.hw.reg64 0x300008 → Does (.phaseArm u) s (s.begun.orReg 0x300018 1)) ∧
    Does (.phaseDisarm u) s (s.begun.clrReg 0x300018 1) ∧
    (∀ p, s.hw.fw.phase = some p → p.running = true → p.checked = false → s.hw.hold.held = false → p.start + p.len ≤ s.hw.frame →
      let h := { s.begun with fw := { s.hw.fw with phase := some { p with checked := true } } }
      (notEnded s.hw p = [] → Does .phaseLenCheck s h) ∧
      (notEnded s.hw p ≠ [] → Does .phaseLenCheck s (modCmd p (fun c => { c with late := true })
        (((notEnded s.hw p).foldl (fun g k => raise
          { cls := cSCHED_LATE, sev := 0, unit := k, exp := p.start + p.len, act := s.hw.frame, syn := 0x71000000 } g) h).orReg
            0x30001C 2)))) ∧
    (∀ p, s.hw.fw.phase = some p → p.running = false ∨ p.checked = true ∨ s.hw.hold.held = true ∨ s.hw.frame < p.start + p.len →
      Does .phaseLenCheck s s.begun) ∧
    (∀ p, s.hw.fw.phase = some p → fwRuns s.hw = true → p.running = true → s.hw.hold.held = false →
      p.start + p.len + 64 ≤ s.hw.frame → notEnded s.hw p ≠ [] →
      Does .phaseGraceExpiry s (modCmd p (fun c => { c with late := true }) (stopUnits (modCmd p (failCmd cSCHED_LATE)
        { s.begun with fw := { s.hw.fw with phase := some { p with stopped := true } } })))) ∧
    (∀ p, s.hw.fw.phase = some p → fwRuns s.hw = false ∨ p.running = false ∨ s.hw.hold.held = true ∨
        s.hw.frame < p.start + p.len + 64 ∨ notEnded s.hw p = [] →
      Does .phaseGraceExpiry s s.begun) ∧
    (s.hw.fw.phase = none → Does .phaseLenCheck s s.begun ∧ Does .phaseGraceExpiry s s.begun)

/-- A hold begins at the first frame boundary after a recoverable parity error; RELEASE, once the reload is checked, asks for its end by
the smallest Δ of whole 4,160-frame periods, by which phases that have not run move; ABORT ends it and stops every unit; at F + Δ
everything that has not issued moves by Δ, a held exact descriptor but where what it counts from has moved, or is still to come
(R279–R283, R313, R353). A request for slow-exact mode, by software or TEMERG, takes effect at the second boundary after it, each by
itself; after 4,160 frames without TEMERG the cluster asks to return unless HOLD is set (R24, R284, R285). -/
def Obligations.HoldsAndSlowExactMode : Prop :=
  (∀ (u : Writer) (s : State), Reaches u s →
    (∀ f, s.hw.hold.due = some f → s.hw.hold.held = false → f < s.hw.frame → let h := syncTo (6 * s.hw.frame) s.begun
      Does .holdBegin s ({ h with hold := { h.hold with due := none, held := true, pend := false, delta := 0 } }.setReg64 0x300030 s.hw.frame)) ∧
    (∀ f, s.hw.hold.due = some f → s.hw.hold.held = true ∨ s.hw.frame ≤ f → Does .holdBegin s s.begun) ∧
    (s.hw.hold.due = none → Does .holdBegin s s.begun) ∧
    (s.hw.hold.held = true → s.hw.hold.pend = false → holdScrubbed s.hw = true →
      let d := (s.hw.frame + 2 - s.hw.reg64 0x300030 + 4159) / 4160 * 4160
      let h := { s.begun with hold := { s.hw.hold with pend := true, delta := d } }.setReg64 0x300038 (s.hw.reg64 0x300030 + d)
      Does (.holdRelease u) s (moveCalendar d true
        { h with fw := { h.fw with phase := h.fw.phase.map (fun p => { p with len := p.len + d }) } })) ∧
    (s.hw.hold.held = false ∨ s.hw.hold.pend = true ∨ holdScrubbed s.hw = false →
      Does (.holdRelease u) s (refuse u.unit s.begun)) ∧
    (s.hw.hold.held = true → Does (.holdAbort u) s
      (stopUnits { s.begun with hold := { s.hw.hold with held := false, pend := false, par := none } })) ∧
    (s.hw.hold.held = false → Does (.holdAbort u) s (refuse u.unit s.begun)) ∧
    (∀ (n : Fin 8) (k : Nat), s.hw.hold.par = some (n.val, k) → s.hw.hold.held = true → s.hw.hold.pend = true →
      s.hw.reg64 0x300038 ≤ s.hw.frame →
      let d := 6 * s.hw.hold.delta
      let h := syncTo (6 * s.hw.frame) (s.begun.at (6 * s.hw.frame))
      let core (i : Nat) (c : Core) : Core :=
        if c.st = .run ∨ (i = n.val ∧ c.st = .stoppedFault) then
          { c with
            st := .run
            next := c.next + d
            slot0 := c.slot0.map (fun x => (x.1 + d, x.2))
            idle := c.idle.map (fun t => t + d) }
        else c
      let car (e : Car) : Car := if e.st = .run then { e with last := e.last + d / 2 } else e
      let te (c : TeCh) : TeCh := { c with held := c.held.mapIdx (fun i x => { x with shift := holdShift h c d (decide (i = 0)) x }) }
      Does .holdResume s (holdRelaunch n (k + d) { h with
        cores := h.cores.mapIdx core
        cars := h.cars.map car
        tes := h.tes.map te
        hold := { h.hold with held := false, pend := false, par := none } })) ∧
    (s.hw.hold.held = false ∨ s.hw.hold.pend = false ∨ s.hw.frame < s.hw.reg64 0x300038 → Does .holdResume s s.begun)) ∧
  (∀ (h : Hw) (c : TeCh) (d : Nat) (x : Desc),
    (dExact h x = false → ∀ b, holdShift h c d b x = x.shift) ∧
    (dExact h x = true → c.anchor.isSome = true → holdShift h c d true x = x.shift + d) ∧
    (dExact h x = true → c.anchor = none → dWait x = false → holdShift h c d true x = x.shift + d) ∧
    (dExact h x = true → dWait x = false → dRef x ≠ 0 → holdShift h c d false x = x.shift + d) ∧
    (dExact h x = true → dWait x = true ∨ dRef x = 0 → holdShift h c d false x = x.shift)) ∧
  (∀ (u : Writer) (s : State), Reaches u s →
    let last := (s.hw.clk.changes.getLast?).elim s.hw.clk.slow (fun x => x.1); let k := s.hw.clk
    (last = false → Does (.slowEnter u) s { s.begun with clk := { k with changes := k.changes ++ [(true, s.hw.frame + 2)] } }) ∧
    (last = true → Does (.slowEnter u) s s.begun) ∧
    (last = false → Does .temergAssert s { s.begun with
      clk := { k with temerg := true, lowFrames := 0, changes := k.changes ++ [(true, s.hw.frame + 2)] } }) ∧
    (last = true → Does .temergAssert s { s.begun with clk := { k with temerg := true, lowFrames := 0 } }) ∧
    Does .temergDeassert s { s.begun with clk := { k with temerg := false, lowFrames := 0 } } ∧
    (k.slow = true → k.temerg = false → 4160 ≤ k.lowFrames → nbit (s.hw.reg 0x100004).toNat 1 = false → k.changes.all (fun x => x.1) = true →
      Does .slowExitTimer s { s.begun with clk := { k with changes := k.changes ++ [(false, s.hw.frame + 2)] } }) ∧
    (k.slow = false ∨ k.temerg = true ∨ k.lowFrames < 4160 ∨ nbit (s.hw.reg 0x100004).toNat 1 = true ∨
        k.changes.all (fun x => x.1) = false →
      Does .slowExitTimer s s.begun) ∧
    (∀ b l, k.changes = b :: l → b.2 ≤ s.hw.frame → (∀ x ∈ l, s.hw.frame < x.2) →
      (b.1 = true → Does .clockModeSwitch s ({ s.begun with
        clk := { k with changes := l, slow := true, slowCount := satInc k.slowCount 255, lowFrames := 0 } }.orReg 0x30001C 4)) ∧
      (b.1 = false → Does .clockModeSwitch s { s.begun with clk := { k with changes := l, slow := false, lowFrames := 0 } })) ∧
    ((∀ x ∈ k.changes, s.hw.frame < x.2) → Does .clockModeSwitch s s.begun))

/-! ### Transfer engines -/

/-- A register enqueue stores its result code, and with code 0 the record's copy, which lands when the spec does not say (log entry 13); an
exact descriptor that R295 and R301 let start is in flight with its beats placed, a paced one waits for slots, and one that a check
refuses ends with its status; a channel takes the count it waits for; STOP drops what is held, RESUME makes a stopped channel idle again
(R295–R303, R312). -/
def Obligations.TransfersStartAndStop : Prop :=
  (∀ (k : Fin 64) (u : Writer) (s : State), let c := s.hw.te k.val
    (Reaches u s → awake s.hw = true →
      let a := s.hw.reg64 (teReg k.val 8)
      let r := enqueue k.val (decide (a % 64 = 0) && decide (regionOf s.hw a = .csm)) a
        (s.hw.now + Config.freeNat s.hw.free % 257) true s.begun.draw
      Does (.tenEnq k u) s (r.1.setFld (teReg k.val 0x10) 8 8 r.2)) ∧
    (Reaches u s → awake s.hw = false → Does (.tenEnq k u) s (refuse u.unit s.begun)) ∧
    (∀ d l p t, c.held = d :: l → s.hw.hold.held = false → c.wait = none → (c.st = .run ∨ c.st = .idle) → c.last = some (t, p) →
      let s0 := startRef s.begun c d + dDelta d + (if dExact s.hw d then d.shift else 0)
      let s1 := max (max s0 d.landed) (max c.headAt (match lastStart s.hw k.val with
        | some t => t + 32
        | none => 0))
      let on := if dExact s.hw d then s0 else max s1 s.hw.now
      let full := dExact s.hw d = false ∧ 4 ≤ ((engineFlights s.hw k.val s.hw.now).filter (fun f => f.paced)).length
      let ends (st a syn : Nat) : Hw := descFail k.val d st a syn (frameOf on) (frameOf on) (popHead k.val none on (s.begun.at on))
      (full → Does (.descStart k) s s.begun) ∧
      (∀ a, ¬ full → d.bad = some a → let key := wordOf (physOf s.hw a)
        Does (.descStart k) s (ends (badClass key) a (Config.eccSyndrome key % 2 ^ 32))) ∧
      (∀ st a, ¬ full → d.bad = none → descCheck s.hw d p = some (st, a) → Does (.descStart k) s (ends st a 0)) ∧
      (¬ full → d.bad = none → descCheck s.hw d p = none → dWait d = true → c.anchor = none →
        Does (.descStart k) s (ends cACCESS_RANGE 0 (dWsem d))) ∧
      (¬ full → d.bad = none → descCheck s.hw d p = none → (dWait d = true → c.anchor.isSome = true) →
        (dExact s.hw d = true → Does (.descStart k) s (startExact k.val on d (s.begun.at on))) ∧
        (dExact s.hw d = false → Does (.descStart k) s (startPaced k.val on d (s.begun.at on))))) ∧
    (c.held = [] ∨ s.hw.hold.held = true ∨ c.wait.isSome = true ∨ (c.st ≠ .run ∧ c.st ≠ .idle) → Does (.descStart k) s s.begun) ∧
    (∀ x, c.wait = some x → waiters s.hw = [(teUnit k.val, k.val % 4, x)] → s.hw.sync.signals = [] → s.hw.sync.arrivals = [] →
      (s.hw.hold.held = false → x.count ≤ semVal s.hw x.sem →
        let t := max x.since s.hw.sync.time
        let h := setSem x.sem (semVal s.hw x.sem - x.count) (s.begun.at t)
        Does (.channelWaitTake k) s ((h.modSync (fun y => { y with time := max s.hw.now t })).modTe k.val (fun c =>
          teSettle { c with wait := none, anchor := some (frameAt (t + 2)) }))) ∧
      (semVal s.hw x.sem < x.count ∨ s.hw.hold.held = true → Does (.channelWaitTake k) s s.begun)) ∧
    (let h := syncTo s.hw.now s.begun
     Reaches u s → Does (.tenStop k u) s ((h.setFld (teReg k.val 0x18) 16 16
       (min 0xFFFF (h.fld (teReg k.val 0x18) 16 16 + (h.te k.val).held.length))).modTe k.val (fun c => { c with
         st := if c.flights.all (fun f => decide (f.phase ≠ 0)) then .stoppedReq else .stopping
         held := []
         wait := none
         anchor := none }))) ∧
    (Reaches u s → c.st = .stoppedReq ∨ c.st = .stoppedFault →
      Does (.tenResume k u) s (s.begun.modTe k.val (fun c => toHead s.begun { c with st := .idle, headAt := s.hw.now }))) ∧
    (Reaches u s → c.st ≠ .stoppedReq → c.st ≠ .stoppedFault → Does (.tenResume k u) s s.begun) ∧
    (c.st = .stopping → (∀ f ∈ c.flights, f.phase ≠ 0) →
      Does (.channelStopDone k) s (s.begun.modTe k.val (fun c => { c with st := .stoppedReq }))) ∧
    (c.st ≠ .stopping ∨ (∃ f ∈ c.flights, f.phase = 0) → Does (.channelStopDone k) s s.begun)) ∧
  (∀ (k s : Nat) (d : Desc) (h : Hw), let h1 := popHead k (some (s, false)) s h; let new := exactBeats h k h.nid s d
    let fail (g : Hw) (r addr syn : Nat) := descFail k d r addr syn (frameOf s) (frameOf s) g
    (∀ r, startConflict h k s d = some r →
      startExact k s d h = fail (popHead k none s h) cSCHED_SLOT_CONFLICT 0 (0x37000000 + k * 256 + r)) ∧
    (∀ syn a, startConflict h k s d = none → descBad h new = some (syn, a) →
      startExact k s d h = fail h1 cSCHED_SLOT_CONFLICT a syn) ∧
    (startConflict h k s d = none → descBad h new = none → h.handoff = [] → h.chkErr = [] → startExact k s d h =
      (let h2 := (placeBeats new h1.newId).modTe k (fun c => { c with flights := c.flights ++
         [⟨h.nid, d, s, false, if dMarker d then s else s + 39 + lSrc h d + lDst h d + dBeats d, 0, 0, [], 0, false, 0, 0, 0, 0, 0⟩] })
       h2.modTe k (toHead h2)))) ∧
  (∀ (k : Nat) (ok : Bool) (addr landed : Nat) (via : Bool) (h : Hw), let c := h.te k
    let full := 8 ≤ c.held.length + (c.flights.filter (fun f => decide (f.phase = 0))).length
    let stopped := c.st = .stopping ∨ c.st = .stoppedFault ∨ c.st = .stoppedReq
    (full → enqueue k ok addr landed via h = (h, 1)) ∧ (¬ full → stopped → enqueue k ok addr landed via h = (h, 2)) ∧
    (¬ full → ¬ stopped → ok = false → enqueue k ok addr landed via h = (h, 3)) ∧
    (¬ full → ¬ stopped → ok = true → let g := settle h.now h
      let d0 : Desc := ⟨g.bytes addr 64, addr, landed, via, 0, badByte g addr 64⟩
      let d : Desc := if dRef d0 = 2 ∧ h.hold.held = false then { d0 with shift := 6 * h.hold.delta } else d0
      let e := correct addr 64 (match d0.bad with
        | some a => countBad (wordOf (physOf g a)) g
        | none => g)
      enqueue k ok addr landed via h = (e.modTe k (fun c => toHead e { c with
        held := c.held ++ [d]
        headAt := if c.held.isEmpty then landed else c.headAt }), 0)))

/-- An exact descriptor ends at its K: DONE and COUNT count it, once, and LSEM is signalled a cycle later; one with a status is recorded
with it and stops its channel, a remote address with its cluster (R296, R303, R304, R309–R311). With DSEM its signal goes to the destination and LSEM follows its acknowledgement
(R309). A paced descriptor hands a transaction to its port when its data, a tracker entry and credit are there, engines of lower unit
numbers first; it ends when its last write is done or acknowledged; an error class that the destination returns becomes its status
(R305–R309). -/
def Obligations.TransfersEnd : Prop :=
  (∀ (k : Fin 64) (s : State), let c := s.hw.te k.val
    (∀ f, c.flights = [f] → f.paced = false → f.phase = 0 →
      let h := settle f.done (s.begun.at f.done); let g := ((h.te k.val).flights.find? (fun x => decide (x.id = f.id))).getD f
      (g.status ≠ 0 → Does (.descComplete k) s (descFail k.val g.d g.status g.fail g.syn (g.frameFor g.status) (g.frameFor g.status)
        (dropFlight k.val g.id h))) ∧
      (g.status = 0 → gotBad (gotOf h g.id) = none → Does (.descComplete k) s (descEnd k.val (g.done + 1) g h)) ∧
      (∀ a, g.status = 0 → gotBad (gotOf h g.id) = some a → let key := wordOf (physOf h a)
        Does (.descComplete k) s (countBad key (descFail k.val g.d (badClass key) a (Config.eccSyndrome key % 2 ^ 32) 0 0
          (dropFlight k.val g.id h))))) ∧
    (∀ f, c.flights = [f] → f.paced = true → f.phase = 0 → openTxns s.hw k.val f.id = false →
      (f.status = 0 → dBeats f.d ≤ f.wr → Does (.descComplete k) s (descEnd k.val s.hw.now f s.begun)) ∧
      (f.status ≠ 0 → Does (.descComplete k) s
        (descFail k.val f.d f.status f.fail f.syn (f.frameFor f.status) (f.frameFor f.status) (dropFlight k.val f.id s.begun)))) ∧
    (c.flights = [] → Does (.descComplete k) s s.begun ∧ Does (.pacedHandover k) s s.begun) ∧
    (∀ f p x, c.flights = [f] → nextPiece s.hw f = some p → trkFree s.hw k.val = some x →
      let out := dDstRemote s.hw f.d
      let g := if out then lineAddr (dDst f.d) (dDpitch f.d) (dRowLen f.d) p.1 else lineAddr (dSrc f.d) (dSpitch f.d) (dRowLen f.d) p.1
      let data := if !out then leBytes p.1 4 else if dFill f.d then (List.range p.2).flatMap (fun _ => fillLine128 f.d)
        else f.buf.take (128 * p.2)
      let t : Txn := ⟨x, .desc (k.val / 4) (k.val % 4) f.id, if out then 1 else 2, teUnit k.val, dFar f.d, dFc f.d, g / 2 ^ 41, loc g,
        data, 128 * p.2, false, out && !dFar f.d, s.hw.now, .none, 0, false, false⟩
      let r := handOver t s.begun
      let may := pieceReady s.hw f p = true ∧ (waitingBefore s.hw k.val).length < trkLeft s.hw ∧ txnCredit s.hw t = true
      (may → r.2 = 0 → Does (.pacedHandover k) s (trkMark (modFlight k.val f.id (fun f =>
        if out then { f with wr := f.wr + p.2, buf := f.buf.drop (128 * p.2) } else { f with rd := f.rd + p.2 }) r.1))) ∧
      (may → r.2 ≠ 0 →
        let syn := if r.2 = cSCHED_SLOT_CONFLICT then 0x35000000 + (meshRoute s.hw (g / 2 ^ 41) false).port
          else if r.2 = cADMISSION_REFUSED then 0x110000 else 0
        Does (.pacedHandover k) s (modFlight k.val f.id (fun f =>
          { f with status := r.2, fail := failAddr s.hw g, syn := syn, slotFrame := frameOf s.hw.now }) r.1)) ∧
      (¬ may → Does (.pacedHandover k) s s.begun)) ∧
    (∀ t l, s.hw.net.txns = t :: l → (∃ id, t.owner = .desc (k.val / 4) (k.val % 4) id) →
      (t.kind ≠ 2 → Does (.remoteTxnEnd k 0) s (endTxn t 0 s.begun)) ∧ (t.kind = 2 → Does (.remoteTxnEnd k 0) s s.begun) ∧
      (∀ cls, cls ≠ 0 → Does (.remoteTxnEnd k cls) s (endTxn t (errorStatus cls.toNat) s.begun))) ∧
    (∀ cls, s.hw.net.txns = [] → Does (.remoteTxnEnd k cls) s s.begun)) ∧
  (∀ (k c : Nat) (f : Flight) (h : Hw),
    (dDsemEn f.d = false → descEnd k c f h = signalLsem k f.d c (countDone k (dropFlight k f.id h))) ∧
    (dDsemEn f.d = true → trkFree h k = none → descEnd k c f h = h) ∧
    (∀ x, dDsemEn f.d = true → trkFree h k = some x →
      let r := handOver ⟨x, .desc (k / 4) (k % 4) f.id, 4, teUnit k, dFar f.d, dFc f.d, dDst f.d / 2 ^ 41, 0,
        leBytes (dDsem f.d) 4 ++ leBytes 1 2, 6, false, false, h.now, .none, 0, false, false⟩ h
      (r.2 = 0 → descEnd k c f h = trkMark ((countDone k (modFlight k f.id (fun f => { f with phase := 1 }) r.1)).modTe k teSettle)) ∧
      (r.2 ≠ 0 →
        let syn := if r.2 = cSCHED_SLOT_CONFLICT then 0x35000000 + (meshRoute h (dDst f.d / 2 ^ 41) false).port
          else if r.2 = cADMISSION_REFUSED then 0x110000 else 0
        let frm := if r.2 = cSCHED_SLOT_CONFLICT then frameOf h.now else 0
        descEnd k c f h = descFail k f.d r.2 0 syn frm frm (dropFlight k f.id r.1))) ∧
    (dLsemEn f.d = true → semOn h (dLsem f.d) = true → signalLsem k f.d c h = signalSsig (dLsem f.d) 1 (teUnit k) (k % 4) c h) ∧
    (dLsemEn f.d = false → signalLsem k f.d c h = h) ∧
    (∀ status t, (h.te k).flights.find? (fun g => decide (g.id = f.id)) = some f →
      (f.phase = 1 → flightTxnEnd k f.id 0 t h = signalLsem k f.d h.now (dropFlight k f.id h)) ∧
      (f.phase = 1 → status ≠ 0 → flightTxnEnd k f.id status t h =
        descStatus k f.d status (failAddr h (t.dst * 2 ^ 41 + t.addr)) 0 0 0 (dropFlight k f.id h)) ∧
      (f.phase ≠ 1 → status ≠ 0 → flightTxnEnd k f.id status t h =
        modFlight k f.id (fun f => if f.status = 0 then
          { f with status := status, fail := failAddr h (t.dst * 2 ^ 41 + t.addr) } else f) h)) ∧
    (∀ g a, (isLocal g a = true → failAddr g a = loc a) ∧ (isLocal g a = false → failAddr g a = a % 2 ^ 59)))

/-! ### Semaphores and barriers -/

/-- Register accesses of KC and the host: a signal takeable by all 8 cycles later, a take without waiting that SEM_TAKE tells the result
of, after those of lower units that wait, a value that replaces what was added before, and an allocation that resets the semaphores it
newly allocates; a count of 0 or a semaphore that is not allocated is refused at the writer (R320–R325). What is on its way first becomes
due at its cycle (R324, R325). -/
def Obligations.SemaphoreRegisters : Prop :=
  ∀ (u : Writer) (v : W32) (s : State), Reaches u s → let i := fieldOf v 0 12; let n := fieldOf v 16 12
    let h := serveTakes s.hw.now (takeKey u.unit 0) (syncTo s.hw.now s.begun)
    let keep (b : Bool) (g : Hw) : Hw := g.setReg 0x50000C (BitVec.ofNat 32 (i + n * 0x10000 + b2n b * 2 ^ 31))
    (n ≠ 0 → semOn s.hw i = true → Does (.semSignal u v) s
      (addSignal ⟨i, n, u.unit, 0, 0, s.hw.now + 8, s.hw.now + 8, s.hw.now + 8, s.hw.now + 8, s.hw.now + 8, none, none⟩ s.begun)) ∧
    (n = 0 ∨ semOn s.hw i = false → Does (.semSignal u v) s (refuse u.unit s.begun)) ∧
    (nbit v.toNat 30 = true → n ≠ 0 → semOn s.hw i = true → n ≤ avail h u.unit s.hw.now i →
      Does (.semTake u v) s (keep true (setSem i (semVal h i - n) h))) ∧
    (nbit v.toNat 30 = true → n ≠ 0 → semOn s.hw i = true → avail h u.unit s.hw.now i < n →
      let g := (h.orReg (uffReg i) (2 ^ (i % 32))).bump 0x500004 0 16
      (nbit (s.hw.reg 0x500000).toNat 0 = false → Does (.semTake u v) s (keep false g)) ∧
      (nbit (s.hw.reg 0x500000).toNat 0 = true → Does (.semTake u v) s
        (keep false (raise { cls := cSEM_UNDERFLOW, sev := 0, unit := u.unit, syn := semSyn i n } g)))) ∧
    (nbit v.toNat 30 = true → n = 0 → Does (.semTake u v) s (refuse u.unit s.begun)) ∧
    (nbit v.toNat 30 = true → n ≠ 0 → semOn s.hw i = false →
      Does (.semTake u v) s (refuse u.unit (s.begun.setFld 0x50000C 31 1 0))) ∧
    (nbit v.toNat 30 = false → Does (.semTake u v) s (keep (nbit (s.hw.reg 0x50000C).toNat 31) s.begun)) ∧
    (∀ k : Fin 4096, semOn s.hw k.val = true → s.hw.sync.signals = [] → s.hw.sync.arrivals = [] → waiters s.hw = [] →
      Does (.semValWrite k u v) s ((setSem k.val (fieldOf v 0 16) s.begun).modSync (fun y => { y with time := max y.time s.hw.now }))) ∧
    (∀ k : Fin 4096, semOn s.hw k.val = true →
      let g := setSem k.val (fieldOf v 0 16) (if s.hw.sync.time < s.hw.now then syncTo (s.hw.now - 1) s.begun else s.begun)
      let before (x : Signal) : Bool := decide (x.sem = k.val ∧ x.add < s.hw.now) && x.added.isSome
      Does (.semValWrite k u v) s (bring s.hw.now (g.modSync (fun y => { y with
        signals := (y.signals.filter (fun x => !before x)).map (fun x =>
          if x.sem = k.val ∧ x.add = s.hw.now then { x with added := none } else x) })))) ∧
    (∀ k : Fin 4096, semOn s.hw k.val = false → Does (.semValWrite k u v) s (refuse u.unit s.begun)) ∧
    (∀ j : Fin 128, let h := syncTo s.hw.now s.begun
      let new := (List.range 32).filter (fun b => nbit v.toNat b && !nbit (h.reg (0x500200 + 4 * j.val)).toNat b)
      let m := (new.map (fun b => 2 ^ b)).sum
      Does (.semAllocWrite j u v) s ((((((new.foldl (fun g b => setSem (32 * j.val + b) 0 g) h).modSync (fun y => { y with
        signals := y.signals.filter (fun x => !(x.added.isSome && decide (x.sem / 32 = j.val ∧ x.sem % 32 ∈ new))) })).clrReg
          (0x500400 + 4 * j.val) m).clrReg (0x500600 + 4 * j.val) m)).setReg (0x500200 + 4 * j.val) v)) ∧
    (∀ c x, syncHead s.begun = some (c, x) → Does .signalTakeable s (syncTo (max c s.hw.now) (s.begun.at c))) ∧
    (syncHead s.hw = none → Does .signalTakeable s s.begun) ∧
    (∀ x : Signal, s.hw.sync.signals = [x] → s.hw.sync.arrivals = [] → waiters s.hw = [] → x.added = none →
      (∀ e ∈ s.hw.sync.vals, e.1 ≠ x.sem) → x.count ≤ 0xFFFF → semVal (syncTo x.add s.begun) x.sem = x.count)

/-- An arrival by register counts like a core's; a configuration is written while its context does not count, and a SCOPE of 0 clears the
context in any case (R326, R332). The serving hub counts up-arrivals: the one that completes them releases a context that ends here, or
sends one on; a release signals RSEM and goes on to the hubs that arrived; one too many is an overflow. A context whose route has broken
signals nothing (R328–R331). -/
def Obligations.BarriersAcrossClusters : Prop :=
  ∀ (k : Fin 64) (u : Writer) (v : W32) (f : UpFrom) (s : State), let h := syncTo s.hw.now s.begun; let b := h.bar k.val
    let busy := b.cnt ≠ 0 ∨ b.next ≠ 0 ∨ b.upcnt ≠ 0 ∨ b.waitup = true
    (Reaches u s → ∀ y, arrivalBad h k.val = some y →
      Does (.barArrive k u) s (raise { cls := cBARRIER_OVERFLOW, sev := 2, unit := u.unit, syn := y } h)) ∧
    (Reaches u s → arrivalBad h k.val = none → b.waitup = true →
      Does (.barArrive k u) s (h.modBar k.val (fun b => { b with next := b.next + 1 }))) ∧
    (Reaches u s → arrivalBad h k.val = none → b.waitup = false → b.cnt + 1 ≠ barExpect h k.val →
      Does (.barArrive k u) s (h.modBar k.val (fun b => { b with cnt := b.cnt + 1 }))) ∧
    (Reaches u s → arrivalBad h k.val = none → b.waitup = false → b.cnt + 1 = barExpect h k.val → barScope h k.val = 1 →
      Does (.barArrive k u) s (signalRelease k.val (s.hw.now + 12)
        ((h.modBar k.val (fun b => { b with cnt := b.cnt + 1 })).modBar k.val (fun b => { b with cnt := 0, gen := (b.gen + 1) % 256 })))) ∧
    (Reaches u s → arrivalBad h k.val = none → b.waitup = false → b.cnt + 1 = barExpect h k.val → barScope h k.val ≠ 1 →
      h.fld (barCfg k.val + 8) 0 6 = 0 →
      Does (.barArrive k u) s (sendUp k.val
        ((h.modBar k.val (fun b => { b with cnt := b.cnt + 1 })).modBar k.val (fun b => { b with waitup := true, cnt := 0 })))) ∧
    (Reaches u s → fieldOf v 24 3 = 0 →
      Does (.barConfigWrite k 0 u v) s ((h.modBar k.val (fun b => ⟨b.gen, false, false, 0, 0, 0, []⟩)).setReg (barCfg k.val)
        (v &&& 0x00FF0FFF#32))) ∧
    (Reaches u s → ¬ busy → 1 ≤ fieldOf v 24 3 → fieldOf v 24 3 ≤ 4 →
      Does (.barConfigWrite k 0 u v) s (h.setReg (barCfg k.val) (v &&& 0x07FF0FFF#32))) ∧
    (Reaches u s → 5 ≤ fieldOf v 24 3 ∨ (busy ∧ fieldOf v 24 3 ≠ 0) →
      Does (.barConfigWrite k 0 u v) s (refuse u.unit h)) ∧
    (Reaches u s → ¬ busy → Does (.barConfigWrite k 1 u v) s (h.setReg (barCfg k.val + 4) (v &&& 0x01FFFFFF#32)) ∧
      Does (.barConfigWrite k 2 u v) s (h.setReg (barCfg k.val + 8) (v &&& 0x3F#32))) ∧
    (Reaches u s → busy → Does (.barConfigWrite k 1 u v) s (refuse u.unit h) ∧
      Does (.barConfigWrite k 2 u v) s (refuse u.unit h)) ∧
    (b.upcnt + 1 < h.fld (barCfg k.val + 8) 0 6 →
      Does (.upArrival k f) s (h.modBar k.val (fun b => { b with upcnt := b.upcnt + 1, ups := b.ups ++ [f] }))) ∧
    (h.fld (barCfg k.val + 8) 0 6 ≤ b.upcnt →
      Does (.upArrival k f) s (raise { cls := cBARRIER_OVERFLOW, sev := 2, unit := 0x1A, syn := 0x02000000 + k.val } h)) ∧
    (let g := h.modBar k.val (fun b => { b with upcnt := b.upcnt + 1, ups := b.ups ++ [f] })
     b.upcnt + 1 = h.fld (barCfg k.val + 8) 0 6 →
     (barTop h k.val = false → Does (.upArrival k f) s (sendUp k.val g)) ∧
     (barTop h k.val = true → b.next = 0 →
       Does (.upArrival k f) s ((b.ups ++ [f]).foldl (fun g f => sendRel k.val f g)
         ((signalRelease k.val (s.hw.now + 12) g).modBar k.val (fun b =>
           { b with cnt := b.next, next := 0, upcnt := 0, waitup := false, gen := (b.gen + 1) % 256, ups := [] }))))) ∧
    (b.next = 0 ∨ b.next ≠ barExpect (b.ups.foldl (fun g f => sendRel k.val f g)
        ((signalRelease k.val (s.hw.now + 12) h).modBar k.val (fun b =>
          { b with cnt := b.next, next := 0, upcnt := 0, waitup := false, gen := (b.gen + 1) % 256, ups := [] }))) k.val →
      Does (.barrierRelease k) s (b.ups.foldl (fun g f => sendRel k.val f g)
        ((signalRelease k.val (s.hw.now + 12) h).modBar k.val (fun b =>
          { b with cnt := b.next, next := 0, upcnt := 0, waitup := false, gen := (b.gen + 1) % 256, ups := [] })))) ∧
    (∀ t g, let x : Signal := ⟨barRsem g k.val, barExpect g k.val, 0x1A, 0, 0, t, t, t, t, t, none, some k.val⟩
      ((g.bar k.val).broken = false → semOn g (barRsem g k.val) = true → signalRelease k.val t g = addSignal x g) ∧
      ((g.bar k.val).broken = false → semOn g (barRsem g k.val) = false → signalRelease k.val t g =
        raise { cls := cACCESS_RANGE, sev := 2, unit := 0x1A, syn := barRsem g k.val } (addSignal { x with count := 0 } g)) ∧
      ((g.bar k.val).broken = true → signalRelease k.val t g = g) ∧
      (∀ y : Signal, y.rel = some k.val → y.sem < 4096 → Registers.wf g →
        (applySignal y g).reg64 (barCfg k.val + 0x10) = frameOf y.add % 2 ^ 64))

/-- A save takes the record of an idle range at once and frees it; a restore reads the record of a free one. Each is under way, its
accesses waiting for free slots, until its end, which has the record in memory or puts it in place; an error is told in SEM_XFER, and one
begun during another is refused (R17, R333–R335). The trip of the overdue watch records the waiters of 4,096 quiet frames and raises
DEADLOCK (R337, R338); firmware then ends the phase and clears TRIPPED, with which QUIET counts from 0 (R339, R429). -/
def Obligations.SavesRestoresAndTheWatch : Prop :=
  ∀ (u : Writer) (s : State), let hs := s.begun.setReg 0x500010 0#32; let hr := s.begun.setReg 0x500010 2#32
    let firm (g : Hw) : Hw := if fwRuns g = true ∧ nbit (g.reg 0x500044).toNat 0 = true then
      (stopPhase cDEADLOCK g).clrReg 0x500044 0x1FFF0001 else g
    (Reaches u s → s.hw.sync.xfer = none → let h := syncTo s.hw.now hs
      (saveErr h false = 0 → Does (.semSave u) s (xferClear (xferStart true (syncRecord h) (h.setFld 0x500028 8 8 0)))) ∧
      (saveErr h false ≠ 0 → Does (.semSave u) s (h.setFld 0x500028 8 8 (saveErr h false)))) ∧
    (Reaches u s → s.hw.sync.xfer.isSome = true → Does (.semSave u) s (refuse u.unit hs) ∧
      Does (.semRestore u) s (refuse u.unit hr)) ∧
    (Reaches u s → s.hw.sync.xfer = none →
      (xferPlace hr false (hr.reg64 0x500020) = true → Does (.semRestore u) s (xferStart false [] (hr.setFld 0x500028 8 8 0))) ∧
      (xferPlace hr false (hr.reg64 0x500020) = false → Does (.semRestore u) s (hr.setFld 0x500028 8 8 0x06))) ∧
    (∀ x b, s.hw.sync.xfer = some x → bgDone s.hw .sem = some b → b.bad = none →
      let h := bgDrop .sem ((syncTo s.hw.now s.begun).modSync (fun y => { y with xfer := none }))
      (x.1 = true → Does .semXferDone s (h.setFld 0x500028 0 2 2)) ∧
      (x.1 = false → restoreErr h b.got = 0 →
        Does .semXferDone s (restoreRecord b.got (h.setFld 0x500028 0 2 2))) ∧
      (x.1 = false → restoreErr h b.got ≠ 0 →
        Does .semXferDone s ((h.setFld 0x500028 0 1 0).setFld 0x500028 8 8 (restoreErr h b.got)))) ∧
    (∀ x b a, s.hw.sync.xfer = some x → bgDone s.hw .sem = some b → b.bad = some a →
      let h := bgDrop .sem ((syncTo s.hw.now s.begun).modSync (fun y => { y with xfer := none }))
      let bad (k : Nat) (g : Hw) : Hw := raise { cls := badClass k, sev := 2, unit := 0x1A, addr := a, syn := Config.eccSyndrome k % 2 ^ 32 } g
      (x.1 = true → Does .semXferDone s (bad (wordOf (physOf s.hw a)) (h.setFld 0x500028 0 2 2))) ∧
      (x.1 = false → Does .semXferDone s (bad (wordOf (physOf h a)) (h.setFld 0x500028 0 1 0)))) ∧
    (s.hw.sync.xfer = none ∨ bgDone s.hw .sem = none → Does .semXferDone s s.begun) ∧
    (s.hw.fld 0x500044 16 13 < 4096 ∨ nbit (s.hw.reg 0x500044).toNat 0 = true ∨ nbit (s.hw.reg 0x500040).toNat 0 = false →
      Does .overdueTrip s (firm s.begun)) ∧
    (4096 ≤ s.hw.fld 0x500044 16 13 → nbit (s.hw.reg 0x500044).toNat 0 = false → nbit (s.hw.reg 0x500040).toNat 0 = true →
      let ws := waiters s.hw; let qw := if s.hw.rcd.phaseSeen then s.hw.fld FLT_QID 0 14 else 0
      let clear := (List.range 64).foldl (fun g i => g.setReg (0x500100 + 4 * i) 0#32) s.begun
      let put (g : Hw) (p : Nat × Nat × Nat × SemWait) : Hw :=
        (((g.setReg (0x500100 + 16 * p.1) (BitVec.ofNat 32 (2 ^ 31 + p.2.2.1 * 256 + p.2.1))).setReg (0x500100 + 16 * p.1 + 4)
          (BitVec.ofNat 32 (p.2.2.2.count * 0x10000 + p.2.2.2.sem))).setReg (0x500100 + 16 * p.1 + 8)
          (BitVec.ofNat 32 (semVal g p.2.2.2.sem))).setReg (0x500100 + 16 * p.1 + 12) (BitVec.ofNat 32 qw)
      Does .overdueTrip s (firm (raise
        { cls := cDEADLOCK, sev := 2, unit := 0x1A, q := if s.hw.rcd.phaseSeen then .queue qw else .none, act := s.hw.frame - 1,
          syn := min 255 ws.length }
        ((((((ws.take 16).mapIdx (fun i w => (i, w))).foldl put clear).setFld 0x500044 8 8 (min 255 ws.length)).orReg 0x500044 1).setReg64
          0x500050 (s.hw.frame - 1)))))

/-! ### Mesh ports -/

/-- The flits of a transaction that is not refused are a request: WRITE's permitted pieces, READ_REQ's bytes and READ_DATA's lines are its
accesses, each for a slot of its memory; it is performed once they are served, at once where the slots let it, and without accesses at
once unless the cluster is SHELVED. WRITE and SIGNAL are acknowledged with their status, a READ_REQ is answered with its data or an error,
READ_DATA and ERROR go to the transaction that waits for them, barrier messages are an arrival or a release; credit goes back for each
flit (R17, R306, R308, R328, R330, R358, R368–R371). -/
def Obligations.MeshTransactionsArePerformed : Prop :=
  (∀ (p : Fin 4) (f : Flit) (l : List Flit) (s : State), meshRefuse s.hw f = none →
    let fl := f :: l
    let b := bgNew s.begun (0x20 + p.val) (meshTodo s.begun fl) (.mesh p.val fl)
    ∀ q ∈ [(1, (Instr.meshWrite : Fin 4 → Flit → List Flit → Instr)), (2, .meshReadReq),
      (3, .meshReadData), (4, .meshSignal), (5, .meshError),
      (6, .meshBarUp), (7, .meshBarRel)], MeshTakes s.hw q.1 fl f →
      (NoneServed b s.begun → Does (q.2 p f l) s (bgAdd b s.begun)) ∧
      (ServedNow b s.begun → b.todo = [] → Does (q.2 p f l) s (meshPerform p.val fl b (servedFrom b s.begun))) ∧
      (ServedNow b s.begun → b.todo ≠ [] →
        Does (q.2 p f l) s (serveReq s.hw.now b ((asking b s.begun).at s.hw.now))) ∧
      (4 ≤ q.1 → b.todo = [])) ∧
  (∀ (t a k : Nat) (x : BgAcc) (l : List BgAcc) (b : BgReq) (g : Hw), b.todo = x :: l →
    (x = .rd a k → inRegs g a = true → b.unit ≠ 0x18 →
      let r := readRegs b.unit a (k / 4) (bgMark b.unit t a 1 g)
      let b' := { b with todo := l, got := b.got ++ r.1, since := t, warned := false }
      (l = [] → serveReq t b g = ingressEnd b' { r.2 with bg := r.2.bg.erase b }) ∧
      (l ≠ [] → serveReq t b g = { r.2 with bg := r.2.bg.map (fun y => if y = b then b' else y) })) ∧
    (b.unit = 0x18 ∨ (∀ y n, x = .rd y n → inRegs g y = false) → serveReq t b g = bgServeAcc ingressEnd t b g)) ∧
  (∀ (h : Hw) (f : Flit) (l : List Flit), let fl := f :: l
    (f.typ = 1 → meshTodo h fl = fl.flatMap (fun x => let bs := bytesAt x.payload 0 (8 * x.len8)
      if ingressClass h f.host true x.addr bs.length = 0 then writeAccs h x.addr bs else [])) ∧
    (f.typ = 2 → let n := leAt f.payload 0 4
      (readClass h f.host f.addr n = 0 → meshTodo h fl = readAccs h f.addr (128 * n)) ∧
      (readClass h f.host f.addr n ≠ 0 → meshTodo h fl = [])) ∧
    (f.typ = 3 → ∀ t, meshTxn h f.txid = some t → t.kind = 2 → meshTodo h fl = dataTodo h t (flitLines fl))) ∧
  (∀ (p : Nat) (f : Flit) (l : List Flit) (b : BgReq) (g : Hw), let fl := f :: l; let h := syncTo g.now g; let unit := 0x20 + p
    let acked (r : Hw × Nat) : Hw := meshCredit p fl (if fl.any (fun x => x.last) then meshAck p r.2 f r.1 else r.1)
    (b.ans ≠ 0 → (f.typ = 2 → meshPerform p fl b g = meshCredit p fl (meshError p b.ans f h)) ∧
      (f.typ ≠ 2 → meshPerform p fl b g = meshCredit p fl (meshAck p b.ans f h))) ∧ (b.ans = 0 →
    (f.typ = 1 → meshPerform p fl b g = acked (writeStatus unit f.host b.bad (flitPieces fl) h)) ∧
    (f.typ = 2 → ∀ x d, readEnd unit f.host f.addr (leAt f.payload 0 4) b h = (x, .ok d) →
      meshPerform p fl b g = meshCredit p fl (meshAnswer p 3 f d x)) ∧
    (f.typ = 2 → ∀ x c, readEnd unit f.host f.addr (leAt f.payload 0 4) b h = (x, .error c) →
      meshPerform p fl b g = meshCredit p fl (meshError p c f x)) ∧
    (f.typ = 3 → ∀ t, meshTxn h f.txid = some t → t.kind = 2 →
      meshPerform p fl b g = meshCredit p fl (dataEnd t fl.length b.bad h)) ∧
    (f.typ = 4 → meshPerform p fl b g = acked (ingressSignal unit f.src f.payload h)) ∧
    (f.typ = 5 → ∀ t, meshTxn h f.txid = some t →
      meshPerform p fl b g = meshCredit p fl (endTxn t (errorStatus (f.payload.headD 0).toNat) h)) ∧
    (f.typ = 5 → meshTxn h f.txid = none → meshPerform p fl b g = meshCredit p fl h) ∧
    (f.typ = 6 → ∀ k, refBar (leAt f.payload 0 4) = some k → meshPerform p fl b g = acked (upArrival k (.mesh f.src) h, 0)) ∧
    (f.typ = 7 → ∀ k, refBar (leAt f.payload 0 4) = some k → meshPerform p fl b g = acked (barrierRelease k h, 0)) ∧
    (f.typ = 6 ∨ f.typ = 7 → refBar (leAt f.payload 0 4) = none → meshPerform p fl b g = acked (h, cILLEGAL_INSTR)))) ∧
  (∀ (unit : Nat) (host : Bool) (a n : Nat) (bs : List Byte) (b : BgReq) (h : Hw),
    (ingressClass h host true a bs.length = 0 → b.bad = none → writeStatus unit host b.bad [(a, bs)] h = (h, 0)) ∧
    (∀ e, ingressClass h host true a bs.length = 0 → b.bad = some e → a ≤ e → e < a + bs.length →
      writeStatus unit host b.bad [(a, bs)] h = (h, badAt h e)) ∧
    (ingressClass h host true a bs.length ≠ 0 → writeStatus unit host b.bad [(a, bs)] h =
      (ingressRecord unit (ingressClass h host true a bs.length) a h, ingressClass h host true a bs.length)) ∧
    (readClass h host a n = 0 → b.bad = none → readEnd unit host a n b h = (h, .ok b.got)) ∧
    (∀ e, readClass h host a n = 0 → b.bad = some e → readEnd unit host a n b h = (h, .error (badAt h e))) ∧
    (readClass h host a n ≠ 0 → readEnd unit host a n b h =
      (ingressRecord unit (readClass h host a n) a h, .error (readClass h host a n))) ∧
    (∀ src pl i, refSem (leAt pl 0 4) = some i → semOn h i = true →
      ingressSignal unit src pl h = (signalAll i (leAt pl 4 2) unit 0 src (h.now + 8) h, 0)) ∧
    (∀ src pl i, refSem (leAt pl 0 4) = some i → semOn h i = false → ingressSignal unit src pl h =
      (raise { cls := cACCESS_RANGE, sev := 0, unit := unit, q := .none, syn := i } h, cACCESS_RANGE)) ∧
    (∀ src pl, refSem (leAt pl 0 4) = none → ingressSignal unit src pl h = (h, cILLEGAL_INSTR))) ∧
  (∀ (h : Hw) (host wr : Bool) (a k : Nat), ingressClass h host wr a k = 0 → 0 < k →
    (host = true → wr = true → inRegs h a = false) ∧ ingressMay h host wr (a + (k - 1)) = true ∧ ingressMay h host wr a = true)

/-- What is not performed: a fenced cluster answers PEER_FENCED to all but a host's access where R492 lets it in; in CATALOGUE only a host
reaches registers and CSM; a flit that fails its check or has no known type is discarded and recorded, and one for another cluster is
dropped (R368, R369, R399, R447); a request of a cluster in SHELVED waits (R395); a free slot serves, of the requests that it can serve,
the lowest unit number's, and a request is recorded once when it has waited 256 cycles (R17, R18, R264). -/
def Obligations.MeshTransactionsAreRefusedOrWait : Prop :=
  (∀ (p : Fin 4) (f : Flit) (l : List Flit) (s : State), let fl := f :: l; let h := meshCredit p.val fl s.begun
    (∀ c, meshRefuse s.hw f = some c →
      (MeshTakes s.hw 2 fl f → Does (.meshReadReq p f l) s (meshError p.val c f h)) ∧
      (MeshTakes s.hw 3 fl f → Does (.meshReadData p f l) s h) ∧
      (MeshTakes s.hw 5 fl f → Does (.meshError p f l) s h) ∧
      (∀ q ∈ [(1, (Instr.meshWrite : Fin 4 → Flit → List Flit → Instr)), (4, .meshSignal),
        (6, .meshBarUp), (7, .meshBarRel)], MeshTakes s.hw q.1 fl f →
        (cluState s.hw ≠ 1 → Does (q.2 p f l) s (meshAck p.val c f h)) ∧
        (cluState s.hw = 1 → Does (q.2 p f l) s (meshError p.val c f h)))) ∧
    (s.hw.net.fenced = true → (f.host = false ∨ cluState s.hw < 8) → meshRefuse s.hw f = some cPEER_FENCED) ∧
    (s.hw.net.fenced = false → cluState s.hw = 1 → f.host = false ∨ (inRegs s.hw f.addr = false ∧ regionOf s.hw f.addr ≠ .csm) →
      meshRefuse s.hw f = some cACCESS_RANGE) ∧
    (s.hw.net.fenced = false → cluState s.hw ≠ 1 → meshRefuse s.hw f = none) ∧
    (l = [] → s.hw.clk.lock = true → f.ok = false → f.slot = false → Does (.meshWrite p f l) s
      (sendMaint p.val 1 1 0 (raise { cls := cACCESS_RANGE, sev := 0, unit := 0x20 + p.val, q := .none } s.begun))) ∧
    (l = [] → s.hw.clk.lock = true → f.ok = true → f.typ = 1 → meshRefuse s.hw f = none → f.dst ≠ s.hw.cid → cluState s.hw ≠ 1 →
      Does (.meshWrite p f l) s h)) ∧
  (∀ (t : Nat) (b : BgReq) (p : Nat) (fl : List Flit) (h : Hw), b.what = .mesh p fl → pwrState h = 2 →
    fl.any (fun f => f.host && decide (f.typ = 2) && inRegs h f.addr) = false → servable h t b = false) ∧
  (∀ (t : Nat) (h : Hw) (x), nextServed h t = some x →
    (∀ b ∈ h.bg, servable h t b = true → (match x with
      | .inl c => c.rank
      | .inr p => teUnit p.1 + 1) ≤ b.rank) ∧
    (match x with
      | .inl c => c ∈ h.bg ∧ servable h t c = true
      | .inr p => p ∈ pacedWaits h ∧ pwrState h ≠ 2)) ∧
  (∀ (s : State) (g : Hw), g = ringAsk (settle s.hw.now s.begun) →
    let asks := s.hw.bg ≠ [] ∨ pacedWaits s.hw ≠ [] ∨ s.hw.rcd.queue ≠ []
    let left (i : Nat) : Prop := i < 6 ∧ (i = 0 ∨ s.hw.now + i < 6 * (s.hw.frame + 1))
    (¬ asks → Does .bgRequestServe s s.begun) ∧
    (∀ b, asks → nextServed g s.hw.now = some (.inl b) → b.todo = [] →
      Does .bgRequestServe s (ingressEnd b { g.at s.hw.now with bg := (g.at s.hw.now).bg.erase b })) ∧
    (∀ b, asks → nextServed g s.hw.now = some (.inl b) → b.todo ≠ [] →
      Does .bgRequestServe s (serveReq s.hw.now b (g.at s.hw.now))) ∧
    (∀ p, asks → nextServed g s.hw.now = some (.inr p) →
      Does .bgRequestServe s ((pacedServe p.1 s.hw.now p.2 g).at s.hw.now)) ∧
    (∀ i h, asks → left i → (∀ j, j < i → serveAt (s.hw.now + j) s.begun = none) → serveAt (s.hw.now + i) s.begun = some h →
      Does .bgRequestServe s h) ∧
    (asks → (∀ i, left i → serveAt (s.hw.now + i) s.begun = none) → Does .bgRequestServe s s.begun) ∧
    (∀ b m x l k, s.hw.bg = b :: m → b.todo = x :: l → b.warned = false → b.since + 256 ≤ s.hw.now → waitMemory s.hw x.addr = some k →
      pacedWaits s.hw = [] → Does .bgWait256 s (raise
        { cls := cSCHED_SLOT_CONFLICT, sev := 0, unit := b.unit, addr := x.addr, exp := s.hw.frame, act := s.hw.frame, syn := 0x34000000 + k }
        { s.begun with bg := s.hw.bg.map (fun x => if x = b then { x with warned := true } else x) })) ∧
    (∀ k f l w a m, pacedWaits s.hw = (k, f) :: l → f.warned = false → f.since + 256 ≤ s.hw.now → pacedWork s.hw f = some (w, a) →
      waitMemory s.hw a = some m → Does .bgWait256 s (raise
        { cls := cSCHED_SLOT_CONFLICT, sev := 0, unit := teUnit k, addr := a, exp := s.hw.frame, act := s.hw.frame, syn := 0x34000000 + m }
        (modFlight k f.id (fun f => { f with warned := true }) s.begun))) ∧
    (pacedWaits s.hw = [] → (∀ b ∈ s.hw.bg, b.warned = true ∨ s.hw.now < b.since + 256) → Does .bgWait256 s s.begun))

/-- Credit that comes back is kept up to 128; an ACK ends the transaction it names; HEARTBEAT and ANNOUNCE bring a port that announces or
has lost its partner to UP with whole credit pools, and ANNOUNCE in UP loses the partner; FENCE marks the peer; every microsecond a port
sends HEARTBEAT, or ANNOUNCE, and counts a silent interval; the eighth loses the partner; EN takes the ports DOWN or ANNOUNCING; a slot
of the calendar carries what it may (R266, R370, R371, R377–R381, R400). -/
def Obligations.MeshPortsKeepTouch : Prop :=
  ∀ (p : Fin 4) (u : Writer) (s : State),
    let st := portState s.hw p.val
    let heard (h : Hw) : Hw := h.modPort p.val (fun m => { m with heard := true })
    (∀ n, Does (.mntCredit p n true) s ((heard s.begun).modPort p.val (fun m =>
      { m with credSlot := min 128 (m.credSlot + n % 1024), heard := true }))) ∧
    (∀ n, Does (.mntCredit p n false) s ((heard s.begun).modPort p.val (fun m =>
      { m with credOther := min 128 (m.credOther + n % 1024), heard := true }))) ∧
    (∀ t l, s.hw.net.txns = t :: l → t.owner ≠ .answer → t.kind ≠ 2 → t.sent = true → t.far = false →
      Does (.mntAck p t.txid 0) s (endTxn t 0 (heard s.begun)) ∧
      (∀ c, c ≠ 0 → Does (.mntAck p t.txid c) s (endTxn t (errorStatus c.toNat) (heard s.begun)))) ∧
    (∀ x c, (∀ t ∈ s.hw.net.txns, t.txid ≠ x) → Does (.mntAck p x c) s (heard s.begun)) ∧
    (∀ id, st = 1 ∨ st = 3 → Does (.mntHeartbeat p id) s (portUp p.val id s.begun) ∧
      Does (.mntAnnounce p id) s (portUp p.val id s.begun)) ∧
    (∀ id, st = 2 → Does (.mntHeartbeat p id) s ((heard s.begun).setFld (mshStat p.val) 0 18 id) ∧
      Does (.mntAnnounce p id) s (portLost p.val (heard s.begun))) ∧
    (∀ id, st = 0 → Does (.mntHeartbeat p id) s s.begun ∧ Does (.mntAnnounce p id) s s.begun) ∧
    (∀ id, Does (.mntFence p id) s (fencePeer (0x20 + p.val) (id % 2 ^ 18) none (heard s.begun))) ∧
    (nbit (s.hw.reg 0x700010).toNat 0 = true → s.hw.clk.lock = true → st = 2 → Does (.heartbeatTimer p) s
      (((sendMaint p.val 3 s.hw.cid 0 s.begun).setFld (mshStat p.val) 22 4
        (if (s.hw.port p.val).heard then 0 else min 8 (s.hw.fld (mshStat p.val) 22 4 + 1))).modPort p.val
          (fun m => { m with heard := false }))) ∧
    (nbit (s.hw.reg 0x700010).toNat 0 = true → s.hw.clk.lock = true → st ≠ 2 → Does (.heartbeatTimer p) s
      (((sendMaint p.val (if st = 1 then 4 else 3) s.hw.cid 0 s.begun).setFld (mshStat p.val) 22 4 0).modPort p.val
        (fun m => { m with heard := false }))) ∧
    (nbit (s.hw.reg 0x700010).toNat 0 = false ∨ s.hw.clk.lock = false → Does (.heartbeatTimer p) s s.begun) ∧
    (st = 2 → s.hw.fld (mshStat p.val) 22 4 = 8 → Does (.portLost p) s (portLost p.val s.begun)) ∧
    (st ≠ 2 ∨ s.hw.fld (mshStat p.val) 22 4 ≠ 8 → Does (.portLost p) s s.begun) ∧
    (∀ v : W32, Reaches u s → nbit v.toNat 0 = false → Does (.mshHbEnWrite u v) s
      ((List.range 4).foldl (fun h p => (h.setFld (mshStat p) 26 3 0).setFld (mshStat p) 22 4 0)
        (s.begun.setReg 0x700010 (v &&& 1#32)))) ∧
    (∀ v : W32, Reaches u s → nbit v.toNat 0 = true → nbit (s.hw.reg 0x700010).toNat 0 = false → Does (.mshHbEnWrite u v) s
      ((List.range 4).foldl (fun h p => (h.setFld (mshStat p) 26 3 1).setFld (mshStat p) 22 4 0)
        (s.begun.setReg 0x700010 (v &&& 1#32)))) ∧
    (∀ v : W32, Reaches u s → nbit v.toNat 0 = true → nbit (s.hw.reg 0x700010).toNat 0 = true →
      Does (.mshHbEnWrite u v) s (s.begun.setReg 0x700010 (v &&& 1#32))) ∧
    Does (.meshSlotDepart p) s (slotDepart p.val (sendsDue s.begun)) ∧
    (∀ t (h : Hw), t.far = false → (meshRoute h t.dst (t.slotted || decide (t.kind ≠ 3 ∧ t.host = false))).status = 0 →
      handOver t h = (h.modNet (fun n => { n with txns := n.txns ++ [{ t with handed := h.now, q := queueNow h }] }), 0)) ∧
    (∀ t (h : Hw), t.far = false → let r := meshRoute h t.dst (t.slotted || decide (t.kind ≠ 3 ∧ t.host = false))
      r.status ≠ 0 → handOver t h = (h, r.status))

/-! ### Far channels -/

/-- A far packet that its channel hears gives its acknowledgement and credit to the channel; the next in sequence takes a buffer and is a
request: its accesses are served in their slots, at once where the slots let it, and packets of a channel are performed in their order;
new buffers are asked for. Performed, it is counted, and acts at its destination: an access that fails is answered with ERROR (R17, R306,
R308, R328, R330, R358, R383–R386, R389, R400). A packet that was already taken is answered with ACK alone, and one that comes too early
with a NAK, once in RTO frames until a packet follows in order; ACK, NAK, KEEPALIVE and ANNOUNCE act on the channel alone; in a channel that
carries no packets a packet is only
heard; a packet whose CRC does not match is counted and has no other effect, and a channel that is not configured, or whose link is down,
hears nothing (R384–R387, R391–R393, R403). -/
def Obligations.FarPacketsArePerformed : Prop :=
  (∀ (c : Fin 32) (h0 pl : List Byte) (crc : W32) (s : State),
    let hd := farHead h0 crc
    let h1 := s.begun.modChan c.val (fun ch => { ch with lastHeard := s.hw.now })
    let live := chanState s.hw c.val = 2 ∨ chanState s.hw c.val = 4
    let goes (i : Instr) (g : Hw) (b : BgReq) (after : Hw → Hw) : Prop := let h := farTaken c.val pl g
      (NoneServed b h → Does i s (after (poolRequest (bgAdd b h)))) ∧
      (ServedNow b h → b.todo = [] → Does i s (after (poolRequest (farPerform c.val hd pl b (servedFrom b h))))) ∧
      (ServedNow b h → b.todo ≠ [] → Does i s (after (poolRequest (serveReq h.now b ((asking b h).at h.now)))))
    (∀ q ∈ [(1, (Instr.lfcWrite : Fin 32 → List Byte → List Byte → W32 → Instr)), (2, .lfcReadReq),
      (3, .lfcReadData), (4, .lfcSignal), (6, .lfcBarUp),
      (7, .lfcBarRel), (8, .lfcFence)], FarHears s.hw c q.1 hd pl → live →
      let g := farHeader c.val hd h1
      FarInOrder g c.val hd →
        (¬FarFenced g hd → goes (q.2 c h0 pl crc) g (farReq g c.val hd pl) id) ∧
        (FarFenced g hd → goes (q.2 c h0 pl crc) g (farNo g c.val hd pl) id)) ∧
    (FarHears s.hw c 5 hd pl → live → FarInOrder h1 c.val hd →
      goes (.lfcError c h0 pl crc) h1 (farReq h1 c.val hd pl) (farHeader c.val hd))) ∧
  (∀ (c : Nat) (hd pl : List Byte) (g : Hw),
    (hTyp hd = 1 → farTodo g c hd pl =
      (let bs := bytesAt pl 0 (8 * hLen8 hd)
       if ingressClass g (hHost hd) true (hAddr hd) bs.length = 0 then writeAccs g (hAddr hd) bs else [])) ∧
    (hTyp hd = 2 → let n := leAt (hInline hd) 0 4
      (readClass g (hHost hd) (hAddr hd) n = 0 → farTodo g c hd pl = readAccs g (hAddr hd) (128 * n)) ∧
      (readClass g (hHost hd) (hAddr hd) n ≠ 0 → farTodo g c hd pl = [])) ∧
    (hTyp hd = 3 → ∀ t, farTxn g c (hTxid hd) = some t → t.kind = 2 → farTodo g c hd pl = dataTodo g t pl) ∧
    (4 ≤ hTyp hd → farTodo g c hd pl = [])) ∧
  (∀ (c : Nat) (hd pl : List Byte) (b : BgReq) (g : Hw),
    let k := farDueAt c g
    let unit := 0x24 + k.fld (farReg c 0) 18 1
    let more (h : Hw) : Hw := if pwrState k = 2 then poolAsk c h else poolRequest h
    let inl := hInline hd
    (b.ans ≠ 0 → farPerform c hd pl b g = more (farAnswer c 5 hd [BitVec.ofNat 8 b.ans] k)) ∧
    (b.ans = 0 →
      (hTyp hd = 1 → farPerform c hd pl b g = more (farStatus c hd
        (writeStatus unit (hHost hd) b.bad [(hAddr hd, bytesAt pl 0 (8 * hLen8 hd))] k))) ∧
      (hTyp hd = 2 → ∀ x l, readEnd unit (hHost hd) (hAddr hd) (leAt inl 0 4) b k = (x, .ok l) →
        farPerform c hd pl b g = more (farAnswer c 3 hd l x)) ∧
      (hTyp hd = 2 → ∀ x e, readEnd unit (hHost hd) (hAddr hd) (leAt inl 0 4) b k = (x, .error e) →
        farPerform c hd pl b g = more (farAnswer c 5 hd [BitVec.ofNat 8 e] x)) ∧
      (hTyp hd = 3 → ∀ t, farTxn k c (hTxid hd) = some t → t.kind = 2 →
        farPerform c hd pl b g = more (dataEnd t (pl.length / 128) b.bad k)) ∧
      (hTyp hd = 4 → farPerform c hd pl b g = more (farStatus c hd (ingressSignal unit (hSrc hd) inl k))) ∧
      (hTyp hd = 5 → ∀ t, farTxn k c (hTxid hd) = some t →
        farPerform c hd pl b g = more (endTxn t (errorStatus (inl.headD 0).toNat) k)) ∧
      (hTyp hd = 5 → farTxn k c (hTxid hd) = none → farPerform c hd pl b g = more k) ∧
      (hTyp hd = 6 → ∀ x, refBar (leAt inl 0 4) = some x → farPerform c hd pl b g = more (upArrival x (.far c) k)) ∧
      (hTyp hd = 7 → ∀ x, refBar (leAt inl 0 4) = some x → farPerform c hd pl b g = more (barrierRelease x k)) ∧
      (hTyp hd = 6 ∨ hTyp hd = 7 → refBar (leAt inl 0 4) = none →
        farPerform c hd pl b g = more (farAnswer c 5 hd [BitVec.ofNat 8 cILLEGAL_INSTR] k)) ∧
      (hTyp hd = 8 → farPerform c hd pl b g = more (fencePeer unit (hSrc hd) (some c) k))) ∧
    (∀ h st, st ≠ 0 → farStatus c hd (h, st) = farAnswer c 5 hd [BitVec.ofNat 8 st] h) ∧ (∀ h, farStatus c hd (h, 0) = h)) ∧
  (∀ (h : Hw) (t : Nat) (b x : BgReq) (l : List BgReq) (c k m : Nat) (hd pl hx px : List Byte), b.what = .far c hd pl k →
    x.what = .far c hx px m →
    h.bg = x :: l → b ≠ x → servable h t b = false) ∧
  (∀ (c : Fin 32) (h0 pl : List Byte) (crc : W32) (s : State),
      let hd := farHead h0 crc
      let h1 := s.begun.modChan c.val (fun ch => { ch with lastHeard := s.hw.now })
      let g := farHeader c.val hd h1
      let live := chanState s.hw c.val = 2 ∨ chanState s.hw c.val = 4
      let want := g.fld (farReg c.val 0x18) 16 16
      let rto := g.fld (farReg c.val 0xC) 0 16
      (∀ q ∈ [(1, (Instr.lfcWrite : Fin 32 → List Byte → List Byte → W32 → Instr)), (2, .lfcReadReq),
        (3, .lfcReadData), (4, .lfcSignal), (6, .lfcBarUp),
        (7, .lfcBarRel), (8, .lfcFence)], FarHears s.hw c q.1 hd pl →
        (live → farLive g c.val = true → leAt hd 4 2 ≠ want →
          (let i := q.2 c h0 pl crc
           ((want + 65536 - leAt hd 4 2) % 65536 ≤ 32768 → Does i s (sendPlain c.val 0x10 g)) ∧
           (32768 < (want + 65536 - leAt hd 4 2) % 65536 →
             (∀ f, (g.chan c.val).nak = some (want, f) → g.frame < f + rto → Does i s g) ∧
             ((∀ e f, (g.chan c.val).nak = some (e, f) → e ≠ want ∨ f + rto ≤ g.frame) →
               Does i s (sendPlain c.val 0x11 (g.modChan c.val (fun ch => { ch with nak := some (want, g.frame) }))))))) ∧
        (¬live → Does (q.2 c h0 pl crc) s h1)) ∧
      (FarHears s.hw c 5 hd pl → live → let seen := h1.fld (farReg c.val 0x18) 16 16
        (leAt hd 4 2 ≠ seen → (seen + 65536 - leAt hd 4 2) % 65536 ≤ 32768 →
          Does (.lfcError c h0 pl crc) s (farHeader c.val hd (sendPlain c.val 0x10 h1))) ∧
        (32768 < (seen + 65536 - leAt hd 4 2) % 65536 → (h1.chan c.val).nak = none →
          Does (.lfcError c h0 pl crc) s (farHeader c.val hd (sendPlain c.val 0x11
            (h1.modChan c.val (fun ch => { ch with nak := some (seen, s.hw.frame) })))))) ∧
      (FarHears s.hw c 5 hd pl → ¬live → Does (.lfcError c h0 pl crc) s h1) ∧
      (live → FarHears s.hw c 0x10 hd pl → Does (.lfcAck c h0 pl crc) s g) ∧
      (live → FarHears s.hw c 0x11 hd pl → ((g.chan c.val).kept = [] → Does (.lfcNak c h0 pl crc) s g) ∧
        ((g.chan c.val).kept ≠ [] → Does (.lfcNak c h0 pl crc) s (farRetry c.val (leAt hd 6 2) g))) ∧
      (live → FarHears s.hw c 0x12 hd pl → Does (.lfcKeepalive c h0 pl crc) s g) ∧
      (¬live → FarHears s.hw c 0x10 hd pl → Does (.lfcAck c h0 pl crc) s h1) ∧
      (¬live → FarHears s.hw c 0x11 hd pl → Does (.lfcNak c h0 pl crc) s h1) ∧
      (¬live → FarHears s.hw c 0x12 hd pl → Does (.lfcKeepalive c h0 pl crc) s h1) ∧
      (FarHears s.hw c 0x13 hd pl →
        (chanState s.hw c.val = 2 → Does (.lfcAnnounce c h0 pl crc) s (chanLost c.val h1)) ∧
        (chanState s.hw c.val ≠ 1 → chanState s.hw c.val ≠ 2 → hSrc hd = s.hw.fld (farReg c.val 0) 0 18 →
          Does (.lfcAnnounce c h0 pl crc) s (chanJoin c.val h1)) ∧
        (chanState s.hw c.val = 1 ∨ (chanState s.hw c.val ≠ 2 ∧ hSrc hd ≠ s.hw.fld (farReg c.val 0) 0 18) →
          Does (.lfcAnnounce c h0 pl crc) s h1)) ∧
      (∀ q ∈ [(Instr.lfcWrite : Fin 32 → List Byte → List Byte → W32 → Instr), .lfcReadReq,
        .lfcReadData, .lfcSignal, .lfcError, .lfcBarUp,
        .lfcBarRel, .lfcFence, .lfcAck, .lfcNak,
        .lfcKeepalive, .lfcAnnounce],
        (s.hw.clk.lock = true → cluState s.hw ≠ 1 → nbit (s.hw.reg (farReg c.val 0)).toNat 31 = true →
          s.hw.net.linkup.getD (s.hw.fld (farReg c.val 0) 18 1) false = true →
          crc32c none (bytesAt hd 0 0x7C ++ pl) ≠ leAt hd 0x7C 4 → Does (q c h0 pl crc) s (s.begun.bump (farReg c.val 0x1C) 0 16)) ∧
        (s.hw.clk.lock = false ∨ cluState s.hw = 1 ∨ nbit (s.hw.reg (farReg c.val 0)).toNat 31 = false ∨
            s.hw.net.linkup.getD (s.hw.fld (farReg c.val 0) 18 1) false = false →
          Does (q c h0 pl crc) s s.begun)))

/-- Timers of a far channel: ACK after 8 frames without one, the kept packets again after RTO frames, KEEPALIVE or ANNOUNCE after an
interval without a packet; silence loses the channel; a transaction that its channel's bound has passed is recorded and counted, once; a
freed buffer goes to the first that waits; FPn_LINKUP shows in its status; fencing goes its three steps: units idle and queues parked,
FENCE sent and acknowledged; with MODE a phase that has not begun is taken back (R268, R386, R390–R393, R396–R399, R516). -/
def Obligations.FarTimersAndFencing : Prop :=
  ∀ (c : Fin 32) (u : Writer) (s : State),
    let live := chanState s.hw c.val = 2 ∨ chanState s.hw c.val = 4
    let on := s.hw.clk.lock = true ∧ nbit (s.hw.reg (farReg c.val 0)).toNat 31 = true ∧
      s.hw.net.linkup.getD (s.hw.fld (farReg c.val 0) 18 1) false = true
    (∀ x, (s.hw.chan c.val).ackDue = some x → live → Does (.lfcAckTimer c) s (sendPlain c.val 0x10 s.begun)) ∧
    ((s.hw.chan c.val).ackDue = none ∨ ¬live → Does (.lfcAckTimer c) s s.begun) ∧
    (∀ p l, (s.hw.chan c.val).kept = p :: l → live → (∀ q ∈ p :: l, q.sends < s.hw.fld (farReg c.val 0xC) 16 3 + 1) →
      Does (.rtoExpiry c) s (resendFrom c.val p.seq s.begun)) ∧
    (∀ p l, (s.hw.chan c.val).kept = p :: l → live → s.hw.fld (farReg c.val 0xC) 16 3 + 1 ≤ p.sends →
      Does (.rtoExpiry c) s (chanLost c.val s.begun)) ∧
    ((s.hw.chan c.val).kept = [] ∨ ¬live → Does (.rtoExpiry c) s s.begun) ∧
    (on → chanState s.hw c.val ≠ 0 → chanState s.hw c.val ≠ 1 → Does (.keepaliveTimer c) s (sendPlain c.val 0x12 s.begun)) ∧
    (on → chanState s.hw c.val = 1 → Does (.keepaliveTimer c) s (sendPlain c.val 0x13 s.begun)) ∧
    (¬on ∨ chanState s.hw c.val = 0 → Does (.keepaliveTimer c) s s.begun) ∧
    (live → Does (.farChannelLost c) s (chanLost c.val s.begun)) ∧
    (¬live → Does (.farChannelLost c) s s.begun) ∧
    (∀ t l, s.hw.net.txns = t :: l → t.far = true → t.fc = c.val → t.owner ≠ .answer → t.late = false →
      let due := frameOf t.handed + (s.hw.reg (farReg c.val 0x10)).toNat
      due < s.hw.frame → Does (.linkLate c) s (Hw.bump (farReg c.val 0x1C) 16 16 (raise
        { cls := cLINK_LATE, sev := 1, unit := 0x24 + s.hw.fld (farReg c.val 0) 18 1, q := t.q, exp := due, act := s.hw.frame,
          addr := t.addr, syn := c.val }
        (s.begun.modNet (fun n => { n with txns := n.txns.map (fun x => if x = t then { x with late := true } else x) }))))) ∧
    ((∀ t ∈ s.hw.net.txns, t.far = true → t.fc = c.val → t.owner ≠ .answer → t.late = false →
      s.hw.frame ≤ frameOf t.handed + (s.hw.reg (farReg c.val 0x10)).toNat) → Does (.linkLate c) s s.begun) ∧
    (∀ d l, s.hw.net.poolq = d :: l → poolFree s.hw ≠ 0 → pwrState s.hw ≠ 2 → Does .poolGrant s
      (poolRequest (grantOne d (s.begun.modNet (fun n => { n with poolq := l, poolDry := false }))))) ∧
    (s.hw.net.poolq = [] ∨ poolFree s.hw = 0 ∨ pwrState s.hw = 2 → Does .poolGrant s s.begun) ∧
    (∀ h : Hw, let wants (k : Nat) : Prop := farLive h k = true ∧ (h.chan k).granted < h.fld (farReg k 0x14) 0 7 ∧ k ∉ h.net.poolq
      (¬ wants c.val → poolAsk c.val h = h) ∧
      (wants c.val → poolFree h = 0 ∨ h.net.poolq ≠ [] → poolAsk c.val h = poolEmpty c.val h) ∧
      (wants c.val → poolFree h ≠ 0 → h.net.poolq = [] →
        poolAsk c.val h = grantOne c.val (h.modNet (fun n => { n with poolDry := false }))) ∧
      ((∀ k, k < 32 → ¬ wants k) ∨ pwrState h = 2 → poolRequest h = h)) ∧
    (∀ p up, Does (.linkupChange p up) s (s.begun.modNet (fun n => { n with linkup := n.linkup.set p up }))) ∧
    (∀ v : W32, Reaches u s →
      (¬(cluState s.hw = 4 ∨ cluState s.hw = 5 ∨ cluState s.hw = 6) ∨ s.hw.boot.drain ≠ none →
        Does (.fenceGo u v) s (refuse u.unit s.begun)) ∧
      (cluState s.hw = 4 ∨ cluState s.hw = 5 ∨ cluState s.hw = 6 → s.hw.boot.drain = none →
        let h0 := { s.begun with boot := { s.hw.boot with warmAfter := false } }
        let h := irq 0x0A (setState 7 (((h0.setReg 0x700020 (v &&& 2#32)).setReg 0x700030 1#32).orReg 4 0x10))
        (h.fw.phase = none → fwRuns h = true → Does (.fenceGo u v) s (ledger 0xC4 (handOff h))) ∧
        (∀ p, h.fw.phase = some p → fwRuns h = true → (nbit v.toNat 1 = false ∨ p.running = true) →
          Does (.fenceGo u v) s (ledger 0xC4 (handOff h))) ∧
        (∀ p, h.fw.phase = some p → fwRuns h = true → nbit v.toNat 1 = true → p.running = false →
          let x := stopUnits (phaseDisarm h)
          fwRuns x = true → Does (.fenceGo u v) s (ledger 0xC4 (handOff { x with fw := { x.fw with phase := none, loading := none } }))) ∧
        (fwRuns h = false → Does (.fenceGo u v) s h))) ∧
    (fwRuns s.hw = true → cluState s.hw = 7 → s.hw.fld 0x700030 0 2 = 1 → s.hw.fw.cmds = [] → s.hw.fw.phase = none →
      coresRest s.hw 0xFF = true → carsRest s.hw (2 ^ 64 - 1) = true →
      let h1 := (List.finRange 64).foldl (fun h k => tenStop k h) s.begun
      let idle := (∀ k, k < 64 → (h1.te k).flights = []) ∧ ∀ p ∈ h1.fw.inc, p.stage = 2
      let h3 := sendFence ((parkAll h1).setFld 0x700030 0 2 2)
      (idle → postsDone (parkAll h1) 0x19 = true → Does .fenceDrainDone s (ledger 0xC4 (fwMail 2 0x92 [h3.cid] h3))) ∧
      (idle → postsDone (parkAll h1) 0x19 = false → Does .fenceDrainDone s (parkAll h1)) ∧
      (¬ idle → Does .fenceDrainDone s h1) ∧ (postsDone (parkAll h1) 0x19 = true → (parkAll h1).fw.inc = [])) ∧
    (cluState s.hw ≠ 7 ∨ s.hw.fld 0x700030 0 2 ≠ 1 ∨ s.hw.fw.cmds ≠ [] → Does .fenceDrainDone s s.begun) ∧
    (s.hw.fld 0x700030 0 2 = 2 →
      (∀ k, k < 32 → farLive s.hw k = true → ∀ p ∈ (s.hw.chan k).kept ++ (s.hw.chan k).waitq, p.typ ≠ 0x08) →
      let h := s.begun.setFld 0x700030 0 2 3
      Does .fenceAcksDone s (if fwRuns h then ledger 0xC4 h else h)) ∧
    (∀ k p, k < 32 → farLive s.hw k = true → p ∈ (s.hw.chan k).kept ++ (s.hw.chan k).waitq → p.typ = 0x08 →
      Does .fenceAcksDone s s.begun)

/-! ### Queues -/

/-- A doorbell sets its queue's tail or head where the queue exists and the index is within its ring, and is counted and ignored else;
either way KC and a shelved cluster see it (R348, R416, R474). The admin queue is configured while nothing of it is outstanding (R342,
R366); ATTACH answers a code and, with code 0, ends the orphan state (R365); the heartbeat word is followed, and its silence or a
detaching driver makes the cluster an orphan (R362); a queue that needs an entry is paged in over a victim that can leave, step by step,
or waits for one; a context that cannot be read puts the cluster into ARCHIVING (R335, R343, R344, R490). As an orphan
it parks each queue that has nothing outstanding and is not pinned, and is ready once all is put away (R363); the hand-over record follows
what it tells (R364). -/
def Obligations.QueuesAndTheHost : Prop :=
  ∀ (u : Writer) (v : W32) (q : Fin 16384) (s : State),
    let d := exitTrigger (irq 0x03 s.begun)
    let k := fieldOf v 16 14
    let i := fieldOf v 0 16
    let c := qCtx d k
    let n := qCqLen c
    let h := settle s.hw.now s.begun
    let w := hbWord h
    let kept (g : Hw) : Hw := handover s.begun g
    (Reaches u s → qCreated c = true → i < qSqLen c → Does (.queSqdb u v) s (kept (putQ k 0x1A 2 i d))) ∧
    (Reaches u s → qCreated c = false ∨ qSqLen c ≤ i → Does (.queSqdb u v) s
      (kept ((d.bump 0x400024 0 16).setFld 0x400024 16 14 k))) ∧
    (Reaches u s → qCreated c = true → i < n → (i + n - qCqHead c % n) % n ≤ (qCqTail c + n - qCqHead c) % n →
      Does (.queCqdb u v) s (kept (putQ k 0x1C 2 i d))) ∧
    (Reaches u s → qCreated c = false ∨ n ≤ i ∨ (qCqTail c + n - qCqHead c) % n < (i + n - qCqHead c % n) % n →
      Does (.queCqdb u v) s (kept ((d.bump 0x400024 0 16).setFld 0x400024 16 14 k))) ∧
    (Reaches u s → qOut (qCtx s.hw 0) ≠ 0 → Does (.queAdminCfgWrite u v) s (kept (refuse u.unit s.begun))) ∧
    (Reaches u s → qOut (qCtx s.hw 0) = 0 →
      let h1 := s.begun.setReg 0x400008 (v &&& 0x80001F1F#32)
      (nbit v.toNat 31 = nbit (s.hw.reg 0x400008).toNat 31 → Does (.queAdminCfgWrite u v) s (kept h1)) ∧
      (nbit v.toNat 31 = true → nbit (s.hw.reg 0x400008).toNat 31 = false →
        let h2 := setQCtx 0 (adminCtx h1 v) (dropHead 0 h1)
        Does (.queAdminCfgWrite u v) s (kept { h2 with fw := { h2.fw with made := setIns 0 h2.fw.made } })) ∧
      (nbit v.toNat 31 = false → nbit (s.hw.reg 0x400008).toNat 31 = true →
        let h2 := putQ 0 2 1 6 h1
        Does (.queAdminCfgWrite u v) s (kept { h2 with fw := { h2.fw with made := h2.fw.made.filter (fun q => decide (q ≠ 0)) } }))) ∧
    (Reaches u s → let a := settle d.now d
      let no (r : Nat) : Prop := Does (.queAttach u v) s (kept (a.setReg 0x400030 (BitVec.ofNat 32 r)))
      (cluState a ≠ 6 → no 1) ∧ (cluState a = 6 → a.fw.ready = false → no 2) ∧
      (cluState a = 6 → a.fw.ready = true → v.toNat ≠ a.fw.hseq % 2 ^ 32 → no 3) ∧
      (cluState a = 6 → a.fw.ready = true → v.toNat = a.fw.hseq % 2 ^ 32 → hbInterval (hbWord a) = 0 → no 4) ∧
      (cluState a = 6 → a.fw.ready = true → v.toNat = a.fw.hseq % 2 ^ 32 → hbInterval (hbWord a) ≠ 0 →
        let h1 := a.setReg 0x400030 0#32
        let h2 := countBeat (hbWord a) { h1 with fw := { h1.fw with attached := some (hbInstance (hbWord a)), orphan := false } }
        Does (.queAttach u v) s (kept (ledger 0xC9 (setState 4 h2))))) ∧
    (fwRuns s.begun = true → 4 ≤ cluState s.begun ∧ cluState s.begun ≤ 7 →
      (h.fw.attached = none → hbInterval w ≠ 0 → h.fw.orphan = false → Does .heartbeatSample s
        (kept (countBeat w { h with fw := { h.fw with attached := some (hbInstance w) } }))) ∧
      (h.fw.attached = none → hbInterval w = 0 → h.fw.orphan = false → Does .heartbeatSample s (kept h)) ∧
      (h.fw.attached = none → h.fw.orphan = true → Does .heartbeatSample s (kept (orphanPark h))) ∧
      (∀ x, h.fw.attached = some x → hbSeqOf w ≠ h.fw.hbSeq → hbInstance w = x →
        (hbInterval w ≠ 0 → Does .heartbeatSample s (kept (countBeat w h))) ∧
        (hbInterval w = 0 → Does .heartbeatSample s (kept (orphanEntry true (countBeat w h))))) ∧
      (∀ x, h.fw.attached = some x → hbSeqOf w = h.fw.hbSeq ∨ hbInstance w ≠ x →
        (800000 * h.fld 0x400028 16 7 ≤ h.fw.hbClock - h.fw.hbAt → Does .heartbeatSample s (kept (orphanEntry false h))) ∧
        (h.fw.hbClock - h.fw.hbAt < 800000 * h.fld 0x400028 16 7 → Does .heartbeatSample s (kept h)))) ∧
    (fwRuns s.begun = false ∨ cluState s.begun < 4 ∨ 7 < cluState s.begun → Does .heartbeatSample s s.begun) ∧
    (fwRuns s.begun = true → 4 ≤ cluState s.begun ∧ cluState s.begun ≤ 7 → pwrState s.begun = 0 →
      ((∀ p ∈ s.hw.fw.inc, p.qid ≠ q.val) →
        (needsEntry s.begun q.val = true → s.hw.sync.xfer = none →
          (∀ x, pageChoice s.begun q.val = some x → Does (.queuePageIn q) s (kept (pageBegin q.val x s.begun))) ∧
          (pageChoice s.begun q.val = none → q.val ∉ s.hw.fw.pwait → Does (.queuePageIn q) s
            (kept (ledger 0x70 { s.begun with fw := { s.hw.fw with pwait := setIns q.val s.hw.fw.pwait } }))) ∧
          (pageChoice s.begun q.val = none → q.val ∈ s.hw.fw.pwait → Does (.queuePageIn q) s s.begun)) ∧
        (needsEntry s.begun q.val = false ∨ s.hw.sync.xfer ≠ none → Does (.queuePageIn q) s s.begun)) ∧
      (∀ p l, s.hw.fw.inc = p :: l → p.qid = q.val →
        (s.hw.sync.xfer ≠ none → Does (.queuePageIn q) s s.begun) ∧
        (s.hw.sync.xfer = none → p.stage = 0 →
          (∀ b, bgDone s.begun (.page p.qid) = some b → b.bad = none → Does (.queuePageIn q) s (kept (pageRestore p s.begun))) ∧
          (∀ b, bgDone s.begun (.page p.qid) = some b → b.bad ≠ none → Does (.queuePageIn q) s (kept
            (enterArchiving (raise { cls := cBM_UNCORRECTABLE, sev := 3, unit := 0x18, q := .none, addr := qAddr s.begun p.qid } s.begun)))) ∧
          (bgDone s.begun (.page p.qid) = none → Does (.queuePageIn q) s s.begun)) ∧
        (s.hw.sync.xfer = none → p.stage ≠ 0 → Does (.queuePageIn q) s (kept { s.begun with fw := { s.hw.fw with
          inc := s.hw.fw.inc.map (fun x => if x.qid = p.qid then { x with stage := 2 } else x) } })))) ∧
    (fwRuns s.begun = false ∨ cluState s.begun < 4 ∨ 7 < cluState s.begun ∨ pwrState s.begun ≠ 0 →
      Does (.queuePageIn q) s s.begun) ∧
    (∀ a b : Hw, let on := fwRuns b = true ∧ 4 ≤ cluState b ∧ cluState b ≤ 7 ∧ handoverFields a ≠ handoverFields b
      (on → handover a b = post 0x18 0 0x2003FFF100 (handoverBytes b) b) ∧ (¬ on → handover a b = b)) ∧
    (∀ (h : Hw) (off k n : Nat),
      (ctxHeld h q.val = true → putQ q.val off k n h = setQCtx q.val (overlay (qCtx h q.val) off (leBytes n k)) h) ∧
      (ctxHeld h q.val = false → putQ q.val off k n h = post 0x19 0 (qAddr h q.val + off) (leBytes n k) h)) ∧
    (∀ h : Hw, h.fw.orphan = true → fwRuns h = true → cluState h ≤ 7 →
      let may (x : Res) : Bool := decide (x.qid ≠ 0 ∧ qOut x.ctx = 0) && !qPinned x.ctx && (resOf h x.qid).isSome
      let g := ((h.fw.res.filter may).map (fun x => x.qid)).foldl (fun y q => parkNow q y) h
      let parked := (∀ x ∈ g.fw.cmds, x.refused = true) ∧ (∀ x ∈ g.fw.res, x.qid = 0 ∨ qPinned x.ctx = true) ∧ g.fw.inc = [] ∧
        postsDone g 0x19 = true
      (parked → g.fw.ready = false → orphanPark h = { g with fw := { g.fw with ready := true, readyFrame := g.frame } }) ∧
      (¬ parked ∨ g.fw.ready = true → orphanPark h = g))

/-- The head command of a queue, in its round, is refused by the first case of R350 that applies, or accepted with R351's promise: a RUN
stands in the calendar to the end of its allowances, a SIGNAL is done at once, an administrative command waits for a boundary; the slot is
reserved and SQ_HEAD advances (R347, R349–R351). What firmware decides from, it reads through slots first (R17). An ended command's record
is written in slots too, and once it is there the queue goes on and the state follows (R353, R354, R462). -/
def Obligations.CommandsAreDecidedAndCompleted : Prop :=
  ∀ (q : Fin 16384) (r : List Nat) (s : State),
    let kept (g : Hw) : Hw := handover s.begun g
    let rows : List ((Fin 16384 → Instr) × (Nat → Bool)) :=
      [(.run, fun t => decide (t = 1) || !knownType t), (.cmdSignal, fun t => decide (t = 2)), (.qcreate, fun t => decide (t = 0x10)),
       (.qdestroy, fun t => decide (t = 0x11)), (.pin, fun t => decide (t = 0x12)), (.unpin, fun t => decide (t = 0x13))]
    (∀ b, mayDecide s.begun q.val = some r → HeadKnown s.begun q.val b → cmdRefusal s.begun q.val b = none →
      let c := headRecord s.begun q.val b
      let p := promiseOf s.begun q.val b
      let e := runEnd s.begun q.val b
      let does (i : Instr) (g : Hw) : Prop := Does i s (kept g)
      (c.typ = 1 → does (.run q) (decideAs q.val r
        { c with nphase := runPhases b, allows := (runEntries b).map allowance, allow := e, promise := p }
        { s.begun with fw := { s.hw.fw with calEnd := e } })) ∧
      (c.typ = 2 → does (.cmdSignal q) (signalAll (cw b 0x10) (cw b 0x14) 0x18 0 0 s.hw.now
        (syncTo s.hw.now (decideAs q.val r { c with promise := p, fin := true } s.begun)))) ∧
      (c.typ = 0x10 → does (.qcreate q) (decideAs q.val r { c with promise := p } s.begun)) ∧
      (c.typ = 0x11 → does (.qdestroy q) (decideAs q.val r { c with promise := p } s.begun)) ∧
      (c.typ = 0x12 → does (.pin q) (decideAs q.val r { c with promise := p } s.begun)) ∧
      (c.typ = 0x13 → does (.unpin q) (decideAs q.val r { c with promise := p } s.begun))) ∧
    (∀ x ∈ rows,
      (∀ b st re, mayDecide s.begun q.val = some r → HeadKnown s.begun q.val b → cmdRefusal s.begun q.val b = some (st, re) →
        x.2 (cmdType b) = true → Does (x.1 q) s (kept (decideAs q.val r
          { headRecord s.begun q.val b with status := st, reason := re, refused := true, fin := true } s.begun))) ∧
      (mayDecide s.begun q.val = some r → headCmd s.begun q.val = none → Does (x.1 q) s
        (kept (fetch (qSqBase (qCtx s.begun q.val) + 64 * qSqHead (qCtx s.begun q.val)) 64 (.cmd q.val) s.begun))) ∧
      (∀ b, mayDecide s.begun q.val = some r → headCmd s.begun q.val = some b → x.2 (cmdType b) = false → Does (x.1 q) s s.begun) ∧
      (∀ b a, mayDecide s.begun q.val = some r → headCmd s.begun q.val = some b → x.2 (cmdType b) = true →
        listOf s.begun q.val b = some a → bgDone s.begun (.list q.val) = none →
        Does (x.1 q) s (kept (fetch a.1 a.2 (.list q.val) s.begun))) ∧
      (mayDecide s.begun q.val = none → Does (x.1 q) s s.begun)) ∧
    (∀ (a k : Nat) (w : BgWhat) (h : Hw), (bgWaits h w = true → fetch a k w h = h) ∧
      (bgWaits h w = false → fetch a k w h = bgAdd (bgNew h 0x18 (readAccs h a k) w) h)) ∧
    (∀ (x : Cmd) (h : Hw), let y := qCtx h q.val
      let h1 := putQ q.val 0x22 2 (qResv y + 1) (putQ q.val 0x18 2 ((qSqHead y + 1) % qSqLen y) h)
      let h2 := putQ q.val 0x28 8 x.promise (putQ q.val 0x1C0 2 (qOut y + 1) h1)
      let taken (h : Hw) (used : Res → Res) : Hw := roundEnds (bgDrop (.list q.val) (bgDrop (.cmd q.val) { h with fw := { h.fw with
        cmds := h.fw.cmds ++ [x]
        round := r
        last := if q.val = 0 then h.fw.last else q.val
        clock := h.fw.clock + 1
        res := h.fw.res.map used } }))
      (x.refused = false → decideAs q.val r x h =
        fwState (taken h2 (fun z => if z.qid = q.val then { z with used := h.fw.clock + 1 } else z))) ∧
      (x.refused = true → decideAs q.val r x h = ledger 0x2F (taken h1 id))) ∧
    (∀ x l, s.hw.fw.cmds = x :: l → x.qid = q.val → fwRuns s.begun = true → 4 ≤ cluState s.begun ∧ cluState s.begun ≤ 7 →
      (x.fin = false → Does (.commandComplete q) s s.begun) ∧
      (x.fin = true → bgWaits s.begun (.cqe q.val) = false → Does (.commandComplete q) s (kept (completeAsk x s.begun))) ∧
      (x.fin = true → bgWaits s.begun (.cqe q.val) = true → bgDone s.begun (.cqe q.val) = none → Does (.commandComplete q) s s.begun) ∧
      (∀ b, x.fin = true → bgWaits s.begun (.cqe q.val) = true → bgDone s.begun (.cqe q.val) = some b → Does (.commandComplete q) s
        (kept (orphanPark (fwState (completed x (frameOf b.since) (bgDrop (.cqe q.val) s.begun))))))) ∧
    (fwRuns s.begun = false ∨ cluState s.begun < 4 ∨ 7 < cluState s.begun → Does (.commandComplete q) s s.begun) ∧
    ((∀ x ∈ s.hw.fw.cmds, x.qid ≠ q.val) → fwRuns s.begun = true → 4 ≤ cluState s.begun ∧ cluState s.begun ≤ 7 →
      Does (.commandComplete q) s (kept (orphanPark s.begun))) ∧
    (∀ (x : Cmd) (h : Hw), completeAsk x h =
      bgAdd (bgNew h 0x18 (writeAccs h (qCqBase (qCtx h x.qid) + 32 * qCqTail (qCtx h x.qid)) (completionBytes h x)) (.cqe x.qid)) h) ∧
    (∀ (x : Cmd) (f : Nat) (h : Hw),
      let g := dropPhases x.qid h
      let y := qCtx g x.qid
      let t := (qCqTail y + 1) % qCqLen y
      let h1 := putQ x.qid 0x1E 2 t (putQ x.qid 0x22 2 (qResv y - 1) g)
      let h2 := if t = 0 then putQ x.qid 0x20 2 (1 - qCqP y) h1 else h1
      let h3 := if x.refused then h2 else putQ x.qid 0x1C0 2 (qOut y - 1) h2
      completed x f h = { h3 with fw := { h3.fw with cmds := h3.fw.cmds.filter (fun z => decide (z ≠ x)), lastDone := f } })

/-- Firmware prepares the next phase of the calendar for a frame that R352 and R427 allow, over units that rest: it reads the
phase's entry and tables through slots, has the code loaded, then writes registers, the declaration, the handoff list and descriptors, and
arms the boundary; while none is to come, a page-in or an administrative command that
waits for a boundary gets one; a phase over which every unit rests ends, its cores are cleaned, and its command goes on, or ends with its
last phase or a fault; the excess of one that was stopped moves the calendar (R261, R343, R351, R427–R429). -/
def Obligations.PhasesAreDispatchedAndEnd : Prop :=
  ∀ (b : Nat) (s : State),
    (fwRuns s.begun = true → 4 ≤ cluState s.begun ∧ cluState s.begun ≤ 6 → s.hw.fw.phase = none → nbit (s.hw.reg 0x300018).toNat 0 = false →
      s.hw.hold.held = false → awake s.begun = true →
      (∀ c, nextCmd s.begun = some c →
        let k := phaseKey c
        (bgDone s.begun (.phase k) = none →
          Does (.dispatchPhase b) s (fetch (runList c.body + 256 * c.next) 256 (.phase k) s.begun)) ∧
        (∀ x, bgDone s.begun (.phase k) = some x → let e := x.got; let accs := tableAccs s.begun e
          (accs ≠ [] → bgDone s.begun (.tables k) = none →
            (bgWaits s.begun (.tables k) = true → Does (.dispatchPhase b) s s.begun) ∧
            (bgWaits s.begun (.tables k) = false →
              Does (.dispatchPhase b) s (bgAdd (bgNew s.begun 0x18 accs (.tables k)) s.begun))) ∧
          (∀ tb, (accs = [] ∧ tb = []) ∨ (accs ≠ [] ∧ ∃ y, bgDone s.begun (.tables k) = some y ∧ tb = y.got) →
            let may := holdsEntry s.begun c.qid = true ∧ coresRest s.begun (declCores e) = true ∧ carsRest s.begun (leAt e 0x90 8) = true
            let load := declCores e ≠ 0 ∧ s.hw.fw.loading ≠ some k
            let ready := (∀ n : Fin 8, nbit (declCores e) n.val = true → (s.hw.core n).range = none) ∧ placeOk s.begun c b = true
            (¬ may → Does (.dispatchPhase b) s s.begun) ∧
            (may → load → let h := (List.finRange 8).foldl (preloadCore e tb) (settle s.hw.now s.begun)
              Does (.dispatchPhase b) s { h with fw := { h.fw with loading := some k } }) ∧
            (may → ¬ load → ready → Does (.dispatchPhase b) s (prepare c b e tb s.begun)) ∧
            (may → ¬ load → ¬ ready → Does (.dispatchPhase b) s s.begun)))) ∧
      (nextCmd s.begun = none →
        (boundaryWanted s.begun = true → s.hw.frame + 8 ≤ b →
          Does (.dispatchPhase b) s (phaseArm .kc (prepareRegs (List.replicate 64 0) b (s.hw.fld 0xB00008 0 14) s.begun))) ∧
        (boundaryWanted s.begun = false ∨ b < s.hw.frame + 8 → Does (.dispatchPhase b) s s.begun))) ∧
    (fwRuns s.begun = false ∨ cluState s.begun < 4 ∨ 7 < cluState s.begun ∨ (cluState s.begun = 7 ∧ nbit (s.hw.reg 0x700020).toNat 1 = true) ∨
      s.hw.fw.phase ≠ none ∨ nbit (s.hw.reg 0x300018).toNat 0 = true ∨ s.hw.hold.held = true ∨ awake s.begun = false →
      Does (.dispatchPhase b) s s.begun) ∧
    (s.hw.fw.phase = none ∨ fwRuns s.begun = false → Does .phaseEnd s s.begun) ∧
    (∀ p, s.hw.fw.phase = some p → fwRuns s.begun = true → p.running = true → phaseOver s.begun p = true →
      let step (c : Cmd) : Cmd :=
        if c.status ≠ 0 ∨ c.next + 1 = c.nphase then { c with next := c.next + 1, fin := true } else { c with next := c.next + 1 }
      let g := (queuedFatal s.begun p).elim s.begun (fun cls => modCmd p (failCmd cls) s.begun)
      let h2 := modCmd p step (cleanCores p { g with fw := { g.fw with phase := none } })
      (p.stopped = false → Does .phaseEnd s (handOff h2)) ∧
      (p.stopped = true → ∀ c, nextCmd s.begun = some c →
        Does .phaseEnd s (handOff (overrun (s.hw.frame - allowStart { c with next := c.next + 1 }) h2)))) ∧
    (∀ p, s.hw.fw.phase = some p → fwRuns s.begun = true → p.running = true → phaseOver s.begun p = false → Does .phaseEnd s s.begun) ∧
    (∀ p, s.hw.fw.phase = some p → fwRuns s.begun = true → p.running = false →
      (nbit (s.hw.reg 0x300018).toNat 0 = false → p.start ≤ s.hw.frame →
        let h1 := p.chans.foldl (fun h k => tenResume (Fin.ofNat 64 k) (tenStop (Fin.ofNat 64 k) h)) s.begun
        Does .phaseEnd s (handOff (ledger 0x48 { h1 with fw := { h1.fw with phase := none } }))) ∧
      (nbit (s.hw.reg 0x300018).toNat 0 = true ∨ s.hw.frame < p.start → Does .phaseEnd s s.begun))

/-! ### The control core -/

/-- WPUSH and WPOP move CUR and OCC, and trap where a window overflows or underflows; TRET leaves the trap window; WSPILL and WFILL move a
frame of 128 bytes between the window file and the stack at KCP_WSP; loads and stores reach memory in its slots and registers at once,
and wait or trap where they cannot, branches and links go on at their address; KTRAP, an interrupt, the timer, WFI and the watchdog
follow their rules; a bad code word traps, and in firmware's TCM puts the cluster into ARCHIVING; a trap in the trap window is the fatal one, and the next halts KC (R6, R17, R82, R90, R189, R190, R196, R197,
R407–R416, R431, R432, R486, R490, R523). -/
def Obligations.ControlCoreWindowsAndTraps : Prop :=
  (∀ (w : W32) (s : State),
    let h := kcFinds s
    let trap (c : Nat) : Hw := kcEnters c h ((h.setReg64 0xD00008 h.kc.pc).setFld KCP_TSTAT 16 5 c)
    (KcRuns s w .wpush → kcInTrap h = false →
      (kcOcc h ≠ 7 → Does (.wpush w) s (kcSet 23 (kcGet h 23 - BitVec.ofNat 64 (8 * imm12Of w))
        (setWin (kcCur h + 1) (kcOcc h + 1) (kcSpilled h) (kcAdvance h)))) ∧
      (kcOcc h = 7 → kcFatal h = false → Does (.wpush w) s (trap 1))) ∧
    (KcRuns s w .wpop → kcInTrap h = false →
      (1 < kcOcc h → Does (.wpop w) s (setWin (kcCur h + 7) (kcOcc h - 1) (kcSpilled h) (kcAdvance h))) ∧
      (kcOcc h ≤ 1 → kcSpilled h ≠ 0 → kcFatal h = false → Does (.wpop w) s (trap 2)) ∧
      (kcOcc h ≤ 1 → kcSpilled h = 0 → kcFatal h = false → Does (.wpop w) s (trap 3))) ∧
    (KcRuns s w .tret → kcInTrap h = true → Does (.tret w) s
      (((h.setFld KCP_TSTAT 1 1 (h.fld KCP_TSTAT 2 1)).clrReg KCP_TSTAT 1).modKc (fun k =>
        { k with pc := h.reg64 0xD00008, micro := nbit (h.reg KCP_PROG).toNat 31 }))) ∧
    (KcRuns s w .tret → kcInTrap h = false → kcFatal h = false → Does (.tret w) s (trap 3)) ∧
    (KcRuns s w .wspill → kcInTrap h = true → 1 < kcOcc h → kcSpilled h ≠ 0xFFFF →
      let a := (h.reg64 KCP_WSP + 2 ^ 64 - 128) % 2 ^ 64
      let l := (frameRegs ((kcCur h + 9 - kcOcc h) % 8)).flatMap (fun p => leBytes (kcWindow h.kc p.1 p.2).toNat 8)
      let done (g : Hw) : Hw := setWin (kcCur h) (kcOcc h - 1) (kcSpilled h + 1) ((kcAdvance g).setReg64 KCP_WSP a)
      (kcPlace h a 128 = .mem → (∀ b g, KcServed h 0 (writeAccs h a l) b g → Does (.wspill w) s (done (kcWriteBad b g))) ∧
        (KcStays h 0 (writeAccs h a l) → Does (.wspill w) s (kcAsked 0 (writeAccs h a l) h))) ∧
      (∀ o, kcPlace h a 128 = .reg o →
        Does (.wspill w) s (done ((List.range 16).foldl (fun h i => refuse 0x18 h) h)))) ∧
    (KcRuns s w .wfill → kcInTrap h = true → kcSpilled h ≠ 0 → kcOcc h ≠ 7 →
      let a := h.reg64 KCP_WSP
      let done (l : List Byte) (g : Hw) : Hw := setWin (kcCur h) (kcOcc h + 1) (kcSpilled h - 1) (((kcAdvance g).modKc (fun k =>
        ((frameRegs ((kcCur h + 8 - kcOcc h) % 8)).mapIdx (fun i p => (i, p))).foldl
          (fun k x => Kc.put x.2.1 x.2.2 (BitVec.ofNat 64 (leAt l (8 * x.1) 8)) k) k)).setReg64 KCP_WSP ((a + 128) % 2 ^ 64))
      (kcPlace h a 128 = .mem →
        (∀ b g, KcServed h 0 (readAccs h a 128) b g → b.bad = none → Does (.wfill w) s (done b.got g)) ∧
        (∀ b g, KcServed h 0 (readAccs h a 128) b g → b.bad ≠ none → Does (.wfill w) s (kcFault 4 (some a) g)) ∧
        (KcStays h 0 (readAccs h a 128) → Does (.wfill w) s (kcAsked 0 (readAccs h a 128) h))) ∧
      (∀ o, kcPlace h a 128 = .reg o → Does (.wfill w) s
        (done (leBytes (Config.freeNat h.free) 128) ((List.range 16).foldl (fun h i => refuse 0x18 h) h.draw)))) ∧
    (KcRuns s w .ktrap → kcInTrap h = false → kcFatal h = false → Does (.ktrap w) s
      (kcEnters 6 h (((h.setReg64 0xD00008 ((h.kc.pc + 4) % 2 ^ 64)).setFld KCP_TSTAT 16 5 6).setFld KCP_TSTAT 4 12 (imm12Of w)))) ∧
    (KcRuns s w .wfi → (∃ i, i < 4 ∧ h.reg (0xD00050 + 4 * i) ≠ 0#32) →
      (irqSource h = none → Does (.wfi w) s ((kcAdvance h).modKc (fun k => { k with wfi := true }))) ∧
      (∀ j, irqSource h = some j → pwrState h ≠ 2 → Does (.wfi w) s ((kcAdvance h).modKc (fun k => { k with wfi := false })))) ∧
    (KcRuns s w .wfi → (∀ i, i < 4 → h.reg (0xD00050 + 4 * i) = 0#32) → Does (.wfi w) s (kcFault 3 none h)) ∧
    (∀ r ∈ branchRows, KcRuns s w r.2.1 →
      (r.2.2 (kcGet h (rdOf w)) (kcGet h (rs1Of w)) = true →
        Does (r.1 .kc w) s (kcGoto (((h.kc.pc : Int) + 4 * imm14Of w) % (2 ^ 64 : Int)).toNat h)) ∧
      (r.2.2 (kcGet h (rdOf w)) (kcGet h (rs1Of w)) = false → Does (r.1 .kc w) s (kcAdvance h))) ∧
    (KcRuns s w .jal → Does (.jal .kc w) s (kcSet (rdOf w) (BitVec.ofNat 64 (h.kc.pc + 4))
      (kcGoto (((h.kc.pc : Int) + 4 * imm22Of w) % (2 ^ 64 : Int)).toNat h))) ∧
    (KcRuns s w .jalr → let t := (kcGet h (rs1Of w)).toNat
      Does (.jalr .kc w) s (kcSet (rdOf w) (BitVec.ofNat 64 (h.kc.pc + 4)) (kcGoto (t - t % 4) h)))) ∧
  (∀ (w : W32) (s : State), let h := kcFinds s; let a := kcEa h w
    (∀ r ∈ kcLoadRows, let k := r.2.2.1
      let ends (l : List Byte) (g : Hw) : Prop := Does (r.1 w) s (kcSet (rdOf w) (xLoad l r.2.2.2) (kcAdvance g))
      KcRuns s w r.2.1 →
        (a % k ≠ 0 → Does (r.1 w) s (kcFault 5 (some a) h)) ∧
        (a % k = 0 → kcPlace h a k = .none → Does (r.1 w) s (kcFault 4 (some a) h)) ∧
        (a % k = 0 → kcPlace h a k = .mem →
          (∀ b g, KcServed h 0 (readAccs h a k) b g → b.bad = none → ends b.got g) ∧
          (∀ b g, KcServed h 0 (readAccs h a k) b g → b.bad ≠ none → Does (r.1 w) s (kcFault 4 (some a) g)) ∧
          (KcStays h 0 (readAccs h a k) → Does (r.1 w) s (kcAsked 0 (readAccs h a k) h))) ∧
        (∀ o, a % k = 0 → kcPlace h a k = .reg o →
          (k = 4 → o % 4 = 0 →
            (∀ b g, KcServed h 0 [.rd a 4] b g → ends (leBytes (readRegister 0x18 o g).1.toNat 4) (readRegister 0x18 o g).2) ∧
            (KcStays h 0 [.rd a 4] → Does (r.1 w) s (kcAsked 0 [.rd a 4] h))) ∧
          (k ≠ 4 → ends (leBytes (Config.freeNat h.free) k) (refuse 0x18 h.draw)))) ∧
    (∀ r ∈ kcStoreRows, let k := r.2.2; let l := leBytes (kcGet h (rdOf w)).toNat k
      KcRuns s w r.2.1 →
        (a % k ≠ 0 → Does (r.1 w) s (kcFault 5 (some a) h)) ∧
        (a % k = 0 → kcPlace h a k = .none → Does (r.1 w) s (kcFault 4 (some a) h)) ∧
        (a % k = 0 → kcPlace h a k = .mem →
          (∀ b g, KcServed h 0 (writeAccs h a l) b g → Does (r.1 w) s (kcAdvance (kcWriteBad b g))) ∧
          (KcStays h 0 (writeAccs h a l) → Does (r.1 w) s (kcAsked 0 (writeAccs h a l) h))) ∧
        (∀ o, a % k = 0 → kcPlace h a k = .reg o →
          (k = 4 → o % 4 = 0 →
            (∀ b g, KcServed h 0 [.rd a 4] b g → Does (r.1 w) s (writeRegister .kc o (BitVec.ofNat 32 (leNat l)) (kcAdvance g))) ∧
            (KcStays h 0 [.rd a 4] → Does (r.1 w) s (kcAsked 0 [.rd a 4] h))) ∧
          (k ≠ 4 → Does (r.1 w) s (kcAdvance (refuse 0x18 h)))))) ∧
  (∀ (w : W32) (s : State), let g := kcComes s
    let t := kcFault 4 (some g.kc.pc) (countBad (wordOf (physOf g g.kc.pc)) g)
    kcReady s.hw = true → g.num g.kc.pc 4 = w.toNat → g.isBad g.kc.pc = true → ∀ r ∈ kcRows,
      (regionOf g g.kc.pc = .tcm → fwRuns t = true → Does (r.make w) s (enterArchiving
        (raise { cls := cSRAM_UNCORRECTABLE, sev := 3, unit := 0x18, q := .none, addr := g.kc.pc } t))) ∧
      (regionOf g g.kc.pc ≠ .tcm ∨ fwRuns t = false → Does (r.make w) s t)) ∧
  (∀ (u : Writer) (v : W32) (s : State),
    (∀ j, s.hw.kc.on = true → s.hw.kc.halted = false → s.hw.kc.wfi = false → kcIe s.hw = true → kcInTrap s.hw = false →
      kcBusy s.hw = false → kcFatal s.hw = false → irqSource s.hw = some j → Does .kcInterrupt s
        (kcEnters 0x10 s.hw (((s.begun.setReg64 0xD00008 s.hw.kc.pc).setFld KCP_TSTAT 16 5 0x10).setFld KCP_TSTAT 24 8 j))) ∧
    (kcIe s.hw = false ∨ kcInTrap s.hw = true ∨ kcBusy s.hw = true ∨ irqSource s.hw = none → s.hw.kc.wfi = false →
      Does .kcInterrupt s s.begun) ∧
    (nbit (s.hw.reg 0xD00030).toNat 0 = true → s.hw.reg64 0xD00028 = s.hw.frame → Does .kcTimerMatch s (irq 0x04 s.begun)) ∧
    (nbit (s.hw.reg 0xD00030).toNat 0 = false ∨ s.hw.reg64 0xD00028 ≠ s.hw.frame → Does .kcTimerMatch s s.begun) ∧
    (Reaches u s → fieldOf v 0 16 = 0xC864 → Does (.wdtKick u v) s (s.begun.modKc (fun k => { k with missed := false }))) ∧
    (Reaches u s → fieldOf v 0 16 ≠ 0xC864 → Does (.wdtKick u v) s (s.begun.bump 0xD00088 16 8)) ∧
    (s.hw.kc.on = true → pwrState s.hw ≠ 2 → offAccepted s.hw = false → kcFatal s.hw = false →
      let h1 := s.begun.bump 0xD00088 8 8
      (s.hw.kc.missed = false → Does .watchdogExpiry s (irq 0x07 ((h1.orReg 0xD00088 1).modKc (fun k => { k with missed := true })))) ∧
      (s.hw.kc.missed = true → Does .watchdogExpiry s (wdtFatal h1))) ∧
    (s.hw.kc.on = true → pwrState s.hw ≠ 2 → offAccepted s.hw = false → kcFatal s.hw = true →
      Does .watchdogExpiry s (kcHalt (s.begun.bump 0xD00088 8 8))) ∧
    (s.hw.kc.on = false ∨ pwrState s.hw = 2 ∨ offAccepted s.hw = true → Does .watchdogExpiry s s.begun)) ∧
  (∀ (cause : Nat) (a : Option Nat) (h : Hw),
    (kcFatal h = false → kcInTrap h = false →
      kcFault cause a h = kcEnters cause h ((kcSave h.kc.pc a h).setFld KCP_TSTAT 16 5 cause)) ∧
    (kcFatal h = true → kcFault cause a h = kcHalt h) ∧
    (kcFatal h = false → kcInTrap h = true → kcFault cause a h =
      (let h1 := raise { cls := cDOUBLE_TRAP, sev := 3, unit := 0x18, q := .none, syn := cause + h.fld KCP_TSTAT 16 5 * 0x100 } h
       kcJump 0x1F (enterArchiving
         ((((kcSave h.kc.pc a h1).setFld KCP_TSTAT 16 5 0x1F).orReg KCP_TSTAT 8).clrReg KCP_TSTAT 2)))))

/-- BCOPY and CSAVE start where their operands are right, with KCP_PROG active and COUNT 0, go on from COUNT where they were interrupted,
and perform elements until an access waits, an interrupt is to be taken or the issue ends; an element that succeeds advances COUNT, the last one ends the routine and
KC goes on; one that fails traps at the boundary before it; BCOPY copies 64 bytes an element, CSAVE stores a register's word (R17, R190,
R196, R417–R420). -/
def Obligations.MicroRoutinesGoElementByElement : Prop :=
  (∀ (w : W32) (steps : Nat) (s : State),
    let h := kcFinds s
    let idle := h.kc.micro = false ∧ nbit (h.reg KCP_PROG).toNat 31 = false
    let going (g : Hw) : Hw := g.modKc (fun k => { k with micro := true })
    let fits := kcO h 0 % 64 = 0 ∧ kcO h 1 % 64 = 0 ∧ kcO h 2 % 64 = 0 ∧ 64 ≤ kcO h 2 ∧ kcO h 2 ≤ 2 ^ 30
    let copy (g : Hw) : Hw := microRun 1 (kcO h 2 / 64) (fun k g => bcopyElement (kcO h 1 + 64 * k) (kcO h 0 + 64 * k) g) steps (going g)
    let save (g : Hw) : Hw := microRun 2 (kcO h 2) (fun k g => csaveElement (kcO h 1 + 4 * k) (kcO h 0 + 4 * k) g) steps (going g)
    (KcRuns s w .bcopy → (idle → fits → Does (.bcopy w steps) s (copy (setProg true 1 0 h))) ∧
      (h.kc.micro = true → Does (.bcopy w steps) s (copy h)) ∧
      (h.kc.micro = false → nbit (h.reg KCP_PROG).toNat 31 = true ∨ ¬fits → Does (.bcopy w steps) s (kcFault 3 none h))) ∧
    (KcRuns s w .csave → kcO h 0 % 4 = 0 → kcO h 1 % 4 = 0 →
      (idle → 1 ≤ kcO h 2 → kcO h 2 ≤ 4096 → Does (.csave w steps) s (save (setProg true 2 0 h))) ∧
      (h.kc.micro = true → Does (.csave w steps) s (save h))) ∧
    (KcRuns s w .csave → h.kc.micro = false → nbit (h.reg KCP_PROG).toNat 31 = true ∨ kcO h 2 = 0 ∨ 4096 < kcO h 2 →
      Does (.csave w steps) s (kcFault 3 none h)) ∧
    (KcRuns s w .csave → idle → 1 ≤ kcO h 2 → kcO h 2 ≤ 4096 → 0 < steps →
      (kcO h 1 % 4 ≠ 0 → Does (.csave w steps) s (kcFault 5 (some (kcO h 1)) (going (setProg true 2 0 h)))) ∧
      (kcO h 1 % 4 = 0 → kcO h 0 % 4 ≠ 0 → Does (.csave w steps) s (kcFault 5 (some (kcO h 0)) (going (setProg true 2 0 h)))))) ∧
  (∀ (r total k : Nat) (el : Nat → Hw → MicroEnd) (g x : Hw), let n := g.fld KCP_PROG 0 25
    (el n g = .done x →
      (total ≤ n + 1 → microRun r total el (k + 1) g = kcAdvance (setProg false r (n + 1) x)) ∧
      (n + 1 < total → let y := setProg true r (n + 1) x
        (kcIrqDue y = false → microRun r total el (k + 1) g = microRun r total el k y) ∧
        (kcIrqDue y = true → microRun r total el (k + 1) g = y))) ∧
    (∀ a, el n g = .fail a x → microRun r total el (k + 1) g = kcFault (if a % 4 = 0 then 4 else 5) (some a) x) ∧
    (el n g = .wait x → microRun r total el (k + 1) g = x) ∧
    microRun r total el 0 g = g) ∧
  (∀ (dst n : Nat) (l : List Byte) (b : BgReq) (g : Hw),
    (∀ o, kcPlace g dst l.length = .reg o → let todo := [BgAcc.rd dst l.length]
      (∀ x h, MicroServed g 1 l todo x h → microPut dst l g = microEnd dst l.length x h) ∧
      (MicroStays g 1 l todo → microPut dst l g = .wait (microAsked 1 l todo g))) ∧
    (kcPlace g dst l.length = .mem →
      (∀ x h, KcServed g 1 (writeAccs g dst l) x h → microPut dst l g = microEnd dst l.length x h) ∧
      (KcStays g 1 (writeAccs g dst l) → microPut dst l g = .wait (kcAsked 1 (writeAccs g dst l) g))) ∧
    (∀ o, kcPlace g dst n = .reg o → microEnd dst n b g = .done (writeBlock (n / 4) o (b.got.take n) g)) ∧
    (kcPlace g dst n = .mem → microEnd dst n b g = .done (kcWriteBad b g))) ∧
  (∀ (src dst : Nat) (g : Hw),
    (bgWaits g (.kc 1) = true → (∀ b h, KcServed g 1 [] b h → bcopyElement src dst g = microEnd dst 64 b h) ∧
      (KcStays g 1 [] → bcopyElement src dst g = .wait g)) ∧ (bgWaits g (.kc 1) = false →
    (kcPlace g src 64 = .none → bcopyElement src dst g = .fail src g) ∧
    (kcPlace g src 64 ≠ .none → kcPlace g dst 64 = .none → bcopyElement src dst g = .fail dst g) ∧
    (kcPlace g src 64 = .mem → kcPlace g dst 64 = .mem → let todo := readAccs g src 64 ++ copyAccs g dst 64
      (∀ b h, KcServed g 0 todo b h → b.bad = none → bcopyElement src dst g = .done h) ∧
      (∀ b h, KcServed g 0 todo b h → b.bad ≠ none → bcopyElement src dst g = .fail src h) ∧
      (KcStays g 0 todo → bcopyElement src dst g = .wait (kcAsked 0 todo g))) ∧
    (∀ o, kcPlace g src 64 = .mem → kcPlace g dst 64 = .reg o →
      (∀ b h, KcServed g 0 (readAccs g src 64) b h → b.bad = none → bcopyElement src dst g = microPut dst b.got h) ∧
      (∀ b h, KcServed g 0 (readAccs g src 64) b h → b.bad ≠ none → bcopyElement src dst g = .fail src h) ∧
      (KcStays g 0 (readAccs g src 64) → bcopyElement src dst g = .wait (kcAsked 0 (readAccs g src 64) g))) ∧
    (∀ o, kcPlace g src 64 = .reg o → kcPlace g dst 64 ≠ .none →
      (∀ b h, KcServed g 0 [.rd src 64] b h →
        bcopyElement src dst g = microPut dst (readBlock 16 o h).1 (readBlock 16 o h).2) ∧
      (KcStays g 0 [.rd src 64] → bcopyElement src dst g = .wait (kcAsked 0 [.rd src 64] g))))) ∧
  (∀ (ent dst : Nat) (g : Hw),
    (bgWaits g (.kc 1) = true → (∀ b h, KcServed g 1 [] b h → csaveElement ent dst g = microEnd dst 4 b h) ∧
      (KcStays g 1 [] → csaveElement ent dst g = .wait g)) ∧ (bgWaits g (.kc 1) = false →
    (bgWaits g (.kc 2) = true → (∀ b h, KcServed g 2 [] b h → csaveElement ent dst g = csaveGet dst (b.got.take 4) h) ∧
      (KcStays g 2 [] → csaveElement ent dst g = .wait g)) ∧ (bgWaits g (.kc 2) = false →
    (kcPlace g dst 4 = .none → csaveElement ent dst g = .fail dst g) ∧
    (kcPlace g dst 4 ≠ .none → kcPlace g ent 4 = .none → csaveElement ent dst g = .fail ent g) ∧
    (kcPlace g dst 4 ≠ .none → kcPlace g ent 4 = .mem →
      (∀ b h, KcServed g 0 (readAccs g ent 4) b h → b.bad = none → csaveElement ent dst g = csaveMove dst b.got h) ∧
      (∀ b h, KcServed g 0 (readAccs g ent 4) b h → b.bad ≠ none → csaveElement ent dst g = .fail ent h) ∧
      (KcStays g 0 (readAccs g ent 4) → csaveElement ent dst g = .wait (kcAsked 0 (readAccs g ent 4) g))) ∧
    (∀ o, kcPlace g dst 4 ≠ .none → kcPlace g ent 4 = .reg o →
      (∀ b h, KcServed g 0 [.rd ent 4] b h →
        csaveElement ent dst g = csaveMove dst (leBytes (readRegister 0x18 o h).1.toNat 4) (readRegister 0x18 o h).2) ∧
      (KcStays g 0 [.rd ent 4] → csaveElement ent dst g = .wait (kcAsked 0 [.rd ent 4] g))))) ∧
    (∀ (l : List Byte) (h : Hw), let a := 0x4000000000 + 4 * (leNat l % 2 ^ 23)
      (∀ o, kcPlace h a 4 = .reg o →
        (∀ b x, MicroServed h 2 l [.rd a 4] b x → csaveMove dst l h = csaveGet dst (b.got.take 4) x) ∧
        (MicroStays h 2 l [.rd a 4] → csaveMove dst l h = .wait (microAsked 2 l [.rd a 4] h)) ∧
        csaveGet dst l h = microPut dst (leBytes (readRegister 0x18 o h).1.toNat 4) (readRegister 0x18 o h).2) ∧
      (kcPlace h a 4 = .none → csaveMove dst l h = .fail a h)))

/-! ### Firmware's services -/

/-- Mailboxes carry one message each way, and what waited for one follows its acknowledgement; a message of a wrong type or length is
acknowledged and entered in the ledger; BUDGET, TEMP and SLOWHOLD set what the power loop uses; BAR_REL releases a barrier; EPOCH copies
an image and arms it, late below 534 frames; a host's AUTH checks a header, HASH_DONE asks SEC, whose verdict or silence releases KC or
records the failure; the update's STEP goes by OPEN, COMMIT, SWITCH, CONFIRM or back to the old image (R330, R421–R426, R430,
R433–R437, R514). -/
def Obligations.FirmwareServicesAnswer : Prop :=
  ∀ (m : Fin 3) (u : Writer) (s : State),
    let h := settle s.hw.now s.begun
    let b := mbox m.val
    (Reaches u s → outBusy s.hw m.val = true → Does (.mbSend m u) s (refuse u.unit s.begun)) ∧
    (Reaches u s → outBusy s.hw m.val = false → Does (.mbSend m u) s
      (emit (.mail m.val ((List.range (fieldOf (s.hw.reg b) 16 7)).flatMap (fun i => leBytes (s.hw.reg (b + 4 * i)).toNat 4)))
        ((s.begun.setFld (b + 0x204) 16 8 (fieldOf (s.hw.reg b) 8 8)).orReg (b + 0x204) 1))) ∧
    (Reaches u s → Does (.mbAck m u) s (s.begun.clrReg (b + 0x204) 2)) ∧
    (∀ ws, nbit (s.hw.reg (b + 0x204)).toNat 1 = true → Does (.svcSend m ws) s s.begun) ∧
    (∀ ws, nbit (s.hw.reg (b + 0x204)).toNat 1 = false →
      let h1 := ((ws.take 64).mapIdx (fun i w => (i, w))).foldl (fun h p => h.setReg (b + 0x100 + 4 * p.1) p.2) s.begun
      Does (.svcSend m ws) s (exitTrigger ((h1.setFld (b + 0x204) 8 8 (fieldOf (h1.reg (b + 0x100)) 8 8)).orReg (b + 0x204) 2))) ∧
    (let g := s.begun.clrReg (b + 0x204) 1
     let follow (g : Hw) : Hw := mailNext 2 (mailNext 1 (mailNext 0 g))
     (∀ t k l, m = 2 → s.hw.sync.schq = (t, k) :: l →
       Does (.svcAck m) s (follow (postMail 2 t [k] (g.modSync (fun s => { s with schq := l }))))) ∧
     (m ≠ 2 ∨ s.hw.sync.schq = [] → Does (.svcAck m) s (follow g))) ∧
    (∀ g : Hw, let mine (x : Nat × Nat × List Nat) : Bool := decide (x.1 = m.val)
      let hub := g.sync.schq ≠ [] ∨ (outBusy g 2 = true ∧ (g.fld (mbox 2) 0 8 = 0x91 ∨ g.fld (mbox 2) 0 8 = 0x94))
      (∀ x, g.fw.mailq.find? mine = some x → outBusy g m.val = false → (m ≠ 0 → ¬ hub) →
        mailNext m.val g = postMail m.val x.2.1 x.2.2 { g with fw := { g.fw with mailq := g.fw.mailq.erase x } }) ∧
      (g.fw.mailq.find? mine = none ∨ outBusy g m.val = true ∨ (m ≠ 0 ∧ hub) → mailNext m.val g = g)) ∧
    (fwRuns s.hw = true → nbit (s.hw.reg (mbox 1 + 0x204)).toNat 1 = true →
      inLength 1 (nbits (inWord s.hw 1 0) 0 8) ≠ some (nbits (inWord s.hw 1 0) 16 7) →
      ∀ i ∈ [Instr.budget, .temp, .slowhold], Does i s (ledger 0xAF (mbAck 1 s.begun))) ∧
    (fwRuns s.hw = true → MailWaits s.hw 1 1 → let v := nbits (inWord s.hw 1 1) 0 9
      (80 ≤ v ∧ v ≤ 320 → Does .budget s (mbAck 1 { s.begun with fw := { s.hw.fw with budget := some v, budgetAt := s.hw.frame } })) ∧
      (¬(80 ≤ v ∧ v ≤ 320) → Does .budget s (mbAck 1 s.begun))) ∧
    (fwRuns s.hw = true → MailWaits s.hw 1 2 → Does .temp s (mbAck 1 { s.begun with
      fw := { s.hw.fw with temp := some (nsigned (nbits (inWord s.hw 1 1) 0 16) 16), tempAt := s.hw.frame } })) ∧
    (fwRuns s.hw = true → MailWaits s.hw 1 3 → Does .slowhold s
      (mbAck 1 (s.begun.setFld 0x100004 1 1 (nbits (inWord s.hw 1 1) 0 1)))) ∧
    (MailWaits s.hw 2 0x11 → Does .mbBarRel s (mbAck 2 (barrierRelease (nbits (inWord s.hw 2 1) 0 6) s.begun))) ∧
    (fwRuns s.hw = true → MailWaits s.hw 2 0x10 → nbit (s.hw.reg 0xD0018C).toNat 0 = false →
      let f := inWord s.hw 2 2 + 2 ^ 32 * inWord s.hw 2 3
      let n := inWord s.hw 2 1
      let copied := copyEpoch (pairAddr (inWord s.hw 2 4) (inWord s.hw 2 5)) s.begun
      let arm (at_ to_ : Nat) : Hw := let h1 := copied.setReg64 0xD00180 at_; { h1.orReg 0xD0018C 1 with
        fw := { h1.fw with epochNum := n, epochTo := to_ } }
      (s.hw.frame + 534 ≤ f → Does .epoch s (mbAck 2 (fwMail 2 0x90 [n, 0] (arm f 0)))) ∧
      (f < s.hw.frame + 534 → Does .epoch s
        (mbAck 2 (ledger 0xA5 (fwMail 2 0x90 [n, 1] (arm (max f s.hw.frame) (max f s.hw.frame + 1))))))) ∧
    (nbit (s.hw.reg 0xD0018C).toNat 0 = true → Does .epoch s s.begun) ∧
    (Reaches u s → Does (.epochArm u) s (s.begun.orReg 0xD0018C 1)) ∧
    (Reaches u s → s.hw.rcd.phaseSeen = true → Does (.epochNow u) s (refuse u.unit s.begun)) ∧
    (Reaches u s → s.hw.rcd.phaseSeen = false → Does (.epochNow u) s (applyNext false s.begun)) ∧
    (fwRuns s.hw = true → Does .powerLoopTick s (hostPage (loopBudget (loopMeter (loopTemp h))))) ∧
    (fwRuns s.hw = false → Does .powerLoopTick s s.begun) ∧
    (∀ (g : Hw), (g.frame ≤ g.fw.budgetAt + msFrames → g.fw.budget = none → loopBudget g = g) ∧
      (g.fw.budgetAt + msFrames < g.frame → g.fw.budget = none → loopBudget g =
        fwMail 1 0x82 [safeBudget g] (setBudget (safeBudget g) 0x81 { g with fw := { g.fw with safe := true } })) ∧
      (∀ v, g.fw.budget = some v → loopBudget g = setBudget v 0x80 { g with fw := { g.fw with budget := none, safe := false } }) ∧
      (∀ t, g.fw.temp = some t → t < 85 * 16 → g.frame ≤ g.fw.tempAt + msFrames → loopTemp g = g.setFld 0x900000 0 1 1) ∧
      (∀ t, g.fw.temp = some t → 85 * 16 ≤ t ∨ g.fw.tempAt + msFrames < g.frame → loopTemp g = g.setFld 0x900000 0 1 0) ∧
      (g.fw.temp = none → loopTemp g = g.setFld 0x900000 0 1 0)) ∧
    (Reaches u s → cluState h = 3 → h.fld 0xD000C4 0 3 ≠ 1 → h.fld 0xD000C4 0 3 ≠ 2 →
      (headerOk h 0 = true → Does (.auth u) s (h.setReg 0xD000C4 1#32)) ∧
      (headerOk h 0 = false → Does (.auth u) s (bootFail 1 h))) ∧
    (Reaches u s → cluState h ≠ 3 ∨ h.fld 0xD000C4 0 3 = 1 ∨ h.fld 0xD000C4 0 3 = 2 →
      Does (.auth u) s (refuse u.unit h)) ∧
    (h.fld 0xD000C4 0 3 = 1 → Does .hashDone s (authRequest 0 (h.setReg 0xD000C4 2#32))) ∧
    (h.fld 0xD000C4 0 3 ≠ 1 → h.fld 0xD000D4 0 3 = 2 → Does .hashDone s (authRequest 1 (setStep 3 h))) ∧
    (MailWaits s.hw 0 0x20 → s.hw.fld 0xD000C4 0 3 = 2 →
      (nbit (inWord s.hw 0 1) 0 = true → Does .authResult s (mbAck 0 (kcRelease (s.begun.setReg 0xD000C4 3#32)))) ∧
      (nbit (inWord s.hw 0 1) 0 = false → Does .authResult s (mbAck 0 (bootFail 2 s.begun)))) ∧
    (MailWaits s.hw 0 0x20 → s.hw.fld 0xD000C4 0 3 ≠ 2 → s.hw.fld 0xD000D4 0 3 = 3 →
      (nbit (inWord s.hw 0 1) 0 = true → Does .authResult s (mbAck 0 (setStep 4 s.begun))) ∧
      (nbit (inWord s.hw 0 1) 0 = false → Does .authResult s (mbAck 0 (updFail 2 s.begun)))) ∧
    (s.hw.fld 0xD000C4 0 3 = 2 → Does .authTimeout s (bootFail 3 s.begun)) ∧
    (s.hw.fld 0xD000C4 0 3 ≠ 2 → s.hw.fld 0xD000D4 0 3 = 3 → Does .authTimeout s (updFail 3 s.begun)) ∧
    (u ≠ .kc → Reaches u s → let hs := irq 0x09 s.begun
      let g := settle hs.now hs
      (cluState hs = 4 ∨ cluState hs = 5 → updStep hs = 0 → fwRuns hs = true →
        Does (.updOpen u) s (setStep 1 (hs.orReg 0xD000D4 8))) ∧
      (cluState hs = 4 ∨ cluState hs = 5 → updStep hs = 0 → fwRuns hs = false → Does (.updOpen u) s hs) ∧
      (¬(cluState hs = 4 ∨ cluState hs = 5) ∨ updStep hs ≠ 0 → Does (.updOpen u) s (refuse u.unit hs)) ∧
      (updStep g = 1 → let g1 := g.clrReg 0xD000D4 8
        (headerOk g1 1 = true → Does (.updCommit u) s (setStep 2 g1)) ∧
        (headerOk g1 1 = false → Does (.updCommit u) s (updFail 1 g1))) ∧
      (updStep g ≠ 1 → Does (.updCommit u) s g) ∧
      (updStep hs < 4 → Does (.updAbandon u) s (setStep 0 (hs.clrReg 0xD000D4 8))) ∧
      (4 ≤ updStep hs → Does (.updAbandon u) s hs) ∧
      Does (.updSwitch u) s (refuse u.unit g)) ∧
    (updStep h = 4 → nbit (h.reg 0x300018).toNat 0 = false → nbit (h.reg KCP_PROG).toNat 31 = false → kcInTrap h = false →
      let h1 := swapSlots (h.store (h.reg64 0xD000D8) (handoffBytes h))
      let h2 := kcEnter (slotBase 0 + imgWord h1 0 0xC) (h.reg64 0xD000D8) (imgWord h 0 0x10) 0 h1
      Does (.updSwitch .kc) s (setStep 5 { h2 with fw := { h2.fw with slotVersion := imgWord h1 0 0x10 } })) ∧
    (updStep s.hw = 5 → Does (.updConfirm .kc) s (setStep 0 s.begun)) ∧
    (updStep h = 5 → Does (.updReject .kc) s (rollback 4 h) ∧ Does .updConfirmTimeout s (rollback 5 h)) ∧
    (updStep h ≠ 5 → Does .updConfirmTimeout s h)

/-! ### Start-up -/

/-- PORST_N rising samples the straps; lock starts TIM_FRAME and goes by the boot mode; the reader begins once the check bits of the SRAMs
are good and, for a shared flash, once it has its grant, whose absence is a cause; what the reader or CAT_CTL.LOAD brings is checked, and
applied or refused with a cause; training repairs and zeroes the bonded memory, or fails; the self-test writes its record (R22, R441,
R444, R447, R450–R461, R504, R521, R522). -/
def Obligations.TheClusterStartsUp : Prop :=
  ∀ (straps : W32) (u : Writer) (s : State),
    (s.hw.boot.porst = false → let h := (s.begun.setReg 8 (straps &&& 0x3F3F#32)).setReg 0xC (BitVec.ofNat 32 (0x3FFC0 + fieldOf straps 0 6))
      Does (.porstNRise straps) s { h with boot := { h.boot with porst := true, sampled := true } }) ∧
    (s.hw.boot.porst = true → Does (.porstNRise straps) s s.begun) ∧
    Does .porstNLow s (coldReset s.begun) ∧
    (s.hw.boot.porst = true → s.hw.clk.lock = false →
      let h1 : Hw := { s.begun with frame := 0, now := 0, clk := { s.hw.clk with lock := true } }
      let h2 := if strapSafe s.hw then clockRequest true (h1.orReg 0x100004 2) else h1
      (strapBoot s.hw = 3 → Does .pllLock s (catStep 8 (catCauseSet 8 h2))) ∧
      (strapBoot s.hw ≠ 3 → strapLayers s.hw = 0 ∨ strapLayers s.hw = 3 → Does .pllLock s (catFail 6 h2)) ∧
      (strapLayers s.hw = 1 ∨ strapLayers s.hw = 2 →
        (strapBoot s.hw = 2 → Does .pllLock s (catStep 7 (catCauseSet 9 h2))) ∧
        (strapBoot s.hw = 1 → Does .pllLock s (bypassCat h2)) ∧
        (strapBoot s.hw = 0 → strapCatsel s.hw = true → Does .pllLock s (catStep 1 { h2 with boot := { h2.boot with catReq := true } })) ∧
        (strapBoot s.hw = 0 → strapCatsel s.hw = false → Does .pllLock s h2))) ∧
    (s.hw.boot.porst = false ∨ s.hw.clk.lock = true → Does .pllLock s s.begun) ∧
    (s.hw.clk.lock = true → s.hw.boot.checkbits = false →
      let h : Hw := { s.begun with
        bad := s.hw.bad.filter isBmKey
        soft := s.hw.soft.filter isBmKey
        boot := { s.hw.boot with checkbits := true } }
      (s.hw.boot.catReq = true → s.hw.boot.catGnt = true → s.hw.fld 0xE00000 0 4 = 1 →
        Does .checkbitInitDone s (catStep 2 (catCauseSet 0 h))) ∧
      (s.hw.boot.catReq = true → s.hw.boot.catGnt = false ∨ s.hw.fld 0xE00000 0 4 ≠ 1 → Does .checkbitInitDone s h) ∧
      (s.hw.boot.catReq = false → cluState s.hw = 1 → strapBoot s.hw = 0 → strapCatsel s.hw = false → s.hw.fld 0xE00000 0 4 = 0 →
        s.hw.fld 0xE00000 8 8 = 0 → Does .checkbitInitDone s (catStep 2 h)) ∧
      (s.hw.boot.catReq = false → cluState s.hw ≠ 1 ∨ strapBoot s.hw ≠ 0 ∨ strapCatsel s.hw = true ∨ s.hw.fld 0xE00000 0 4 ≠ 0 ∨
        s.hw.fld 0xE00000 8 8 ≠ 0 → Does .checkbitInitDone s h)) ∧
    (s.hw.clk.lock = false ∨ s.hw.boot.checkbits = true → Does .checkbitInitDone s s.begun) ∧
    (let h := { s.begun with boot := { s.hw.boot with catGnt := true } }
     (s.hw.boot.checkbits = true → s.hw.boot.catReq = true → s.hw.fld 0xE00000 0 4 = 1 →
       Does .catGrant s (catStep 2 (catCauseSet 0 h))) ∧
     (s.hw.boot.checkbits = false ∨ (s.hw.boot.catReq = true ∧ s.hw.fld 0xE00000 0 4 ≠ 1) ∨
         (s.hw.boot.catReq = false ∧ s.hw.fld 0xE00000 0 4 ≠ 0) → Does .catGrant s h)) ∧
    (s.hw.boot.catReq = true → s.hw.boot.catGnt = false → s.hw.fld 0xE00000 0 4 = 1 → Does .catGrantTimeout s (catCauseSet 7 s.begun)) ∧
    (s.hw.boot.catReq = false ∨ s.hw.boot.catGnt = true ∨ s.hw.fld 0xE00000 0 4 ≠ 1 → Does .catGrantTimeout s s.begun) ∧
    (∀ sfdp dir rcd, cluState s.hw = 1 → strapBoot s.hw = 0 → s.hw.fld 0xE00000 0 4 = 2 → s.hw.fld 0xE00000 8 8 = 0 →
      let h : Hw := { s.begun with boot := { s.hw.boot with catReq := false, catGnt := false } }
      let mode := sfdpMode (strapSafe s.hw) (sfdp.take 256)
      (mode = none → Does (.catalogueReadDone sfdp dir rcd) s (catFail 1 h)) ∧
      (∀ m f, mode = some (m, f) → (strapSafe s.hw = true → m = 0) ∧
        let h1 := (h.setFld 0xE00000 16 2 m).setFld 0xE00000 18 1 (b2n f)
        (dirOffset s.hw dir f = none → Does (.catalogueReadDone sfdp dir rcd) s (catFail 2 (catStep 3 h1))) ∧
        (∀ o, dirOffset s.hw dir f = some o → Does (.catalogueReadDone sfdp dir rcd) s (takeRecord rcd (catStep 5 h1))))) ∧
    (∀ sfdp dir rcd, cluState s.hw ≠ 1 ∨ strapBoot s.hw ≠ 0 ∨ s.hw.fld 0xE00000 0 4 ≠ 2 ∨ s.hw.fld 0xE00000 8 8 ≠ 0 →
      Does (.catalogueReadDone sfdp dir rcd) s s.begun) ∧
    (∀ (r : List Byte) (h : Hw), recordCause h r ≠ 0 → takeRecord r h = catFail (recordCause h r) h) ∧
    (∀ (r : List Byte) (h : Hw), recordCause h r = 0 → takeRecord r h =
      applyCat (nbits (leAt r 8 4) 0 18) (leAt r 0x10 2) (leAt r 0x14 1) (nbits (leAt r 0x18 4) 0 9) (recCmap r)
        (((List.range (recLen r / 4)).foldl (fun h k => h.setReg (0xE08000 + 4 * k) (BitVec.ofNat 32 (leAt r (4 * k) 4))) h).setReg
          0xE00008 (BitVec.ofNat 32 (recLen r)))) ∧
    (Reaches u s → let h := settle s.hw.now s.begun
      (strapBoot h ≠ 2 → Does (.catLoad u) s (refuse u.unit h)) ∧
      (strapBoot h = 2 → cluState h = 1 → h.fld 0xE00000 0 4 = 7 →
        Does (.catLoad u) s (takeRecord (h.bytes 0x2000000000 (recLen (h.bytes 0x2000000000 8))) h)) ∧
      (strapBoot h = 2 → cluState h ≠ 1 ∨ h.fld 0xE00000 0 4 ≠ 7 → Does (.catLoad u) s h)) ∧
    (cluState s.hw = 2 →
      (∀ g, Does (.trainingDone (some g)) s (trainFail (g % 128) s.begun)) ∧
      Does (.trainingDone none) s (setState 3 (({ s.begun with
        mem := s.hw.mem.filter (fun p => !isBmKey p.1)
        bad := s.hw.bad.filter (fun k => !isBmKey k)
        soft := s.hw.soft.filter (fun k => !isBmKey k)
        active := repairTable s.hw
        shadow := repairTable s.hw
        rcd := { s.hw.rcd with ringOn := true } } : Hw).setReg 0x900020 1#32))) ∧
    (cluState s.hw ≠ 2 → ∀ r, Does (.trainingDone r) s s.begun) ∧
    (∀ head ents, s.hw.clk.lock = true → strapBoot s.hw = 3 → cluState s.hw = 1 →
      let n := min 2048 (leAt head 0x18 4)
      let b := leBytes 0x42495354 4 ++ leBytes (leAt head 0 4 % 32 ||| 1) 4 ++ bytesAt head 4 20 ++ leBytes n 4 ++ List.replicate 28 0
      let rcd := b ++ leBytes (crc32 (b ++ bytesAt ents 0 (4 * n))) 4
      let h := s.begun.store 0x2000000000 (rcd ++ bytesAt ents 0 (4 * n))
      Does (.bistDone head ents) s { h with tap := { h.tap with bist := rcd } }) ∧
    (∀ head ents, s.hw.clk.lock = false ∨ strapBoot s.hw ≠ 3 ∨ cluState s.hw ≠ 1 → Does (.bistDone head ents) s s.begun)

/-! ### Faults, cluster states, resets and power states -/

/-- KC raises the record that FLT_RAISE0–10 hold, or is refused; the head of the recorder's queue asks for a slot before every other
request, and once its ring write has been served it is copied and acknowledged, and firmware acts on it; the supply monitor and
ARCHIVE_LIMIT end what they end; KC moves the cluster between the states that R463 allows (R18, R402, R426, R429, R462, R463, R482–R484,
R487, R490–R496, R509). -/
def Obligations.FaultRecordsAndClusterStates : Prop :=
  ∀ (u : Writer) (v : W32) (s : State),
    (let r := raisedRec s.hw
     (r.cls ≠ 0 → canAccept s.hw r = true → Does (.fltRaise .kc) s (raise r s.begun)) ∧
     (r.cls = 0 ∨ canAccept s.hw r = false → Does (.fltRaise .kc) s (refuse 0x18 s.begun)) ∧
     (u ≠ .kc → Reaches u s → Does (.fltRaise u) s (refuse u.unit s.begun))) ∧
    (∀ e l, s.hw.rcd.queue = e :: l → s.hw.rcd.ringOn = true →
      let n := (s.hw.reg FLT_WIDX).toNat
      let b := recBytes n e
      let copy (h : Hw) : Hw :=
        (List.range 16).foldl (fun h k => h.setReg (0xB00040 + 4 * k) (BitVec.ofNat 32 (leAt b (4 * k) 4))) h
      let fatal := if nbits (leAt b 0 4) 8 2 = 3 then b else s.hw.rcd.fatal
      let done (h : Hw) : Hw := firmwareRecord b (irq 0x05 ((({ copy h with
        rcd := { (copy h).rcd with queue := l, fatal := fatal } } : Hw)).setReg FLT_WIDX (BitVec.ofNat 32 (n + 1))))
      let asks (h : Hw) : Hw :=
        bgAdd { bgNew h 0 [.wr (reservedBase h + 0x800000 + 64 * ((h.reg FLT_WIDX).toNat % 16384)) b] .ring with got := b } h
      let ring := s.hw.bg.find? (fun b => decide (b.what = .ring))
      (s.hw.boot.pwrfail = true → Does .recordRingWrite s (done (bgDrop .ring s.begun))) ∧
      (s.hw.boot.pwrfail = false →
        (ring = none → Does .recordRingWrite s (asks s.begun)) ∧
        (∀ x, ring = some x → x.got = b → x.todo = [] → Does .recordRingWrite s (done (bgDrop .ring s.begun))) ∧
        (∀ x, ring = some x → x.got = b → x.todo ≠ [] → Does .recordRingWrite s s.begun) ∧
        (∀ x, ring = some x → x.got ≠ b → Does .recordRingWrite s (asks (bgDrop .ring s.begun))))) ∧
    (s.hw.rcd.queue = [] ∨ s.hw.rcd.ringOn = false → Does .recordRingWrite s s.begun) ∧
    (cluState s.hw = 8 → s.hw.reg64 0xB00308 + (s.hw.reg 0xB00310).toNat ≤ s.hw.frame → Does .archiveLimitExpiry s (kcHalt s.begun)) ∧
    (cluState s.hw ≠ 8 ∨ s.hw.frame < s.hw.reg64 0xB00308 + (s.hw.reg 0xB00310).toNat → Does .archiveLimitExpiry s s.begun) ∧
    (s.hw.boot.pwrfail = false → let h := emit (.pin 1 true) { s.begun with boot := { s.hw.boot with pwrfail := true } }
      (cluState s.hw = 2 → Does .bmSupplyTrip s (trainFail 0x7F h)) ∧
      (cluState s.hw ≠ 2 → let h2 := raise { cls := cBM_UNCORRECTABLE, sev := 3, unit := 0xF0, q := .none, syn := 0xF00 } h
        Does .bmSupplyTrip s (enterArchiving h2))) ∧
    (s.hw.boot.pwrfail = true → Does .bmSupplyTrip s s.begun) ∧
    let kept (g : Hw) : Hw := handover s.begun g
    (u ≠ .kc ∨ stateMay (cluState s.hw) (fieldOf v 0 4) = false → Reaches u s →
      Does (.cluStateSet u v) s (kept (refuse u.unit s.begun))) ∧
    (stateMay (cluState s.hw) (fieldOf v 0 4) = true →
      (s.hw.kc.on = false ∨ s.hw.kc.halted = true → Does (.cluStateSet .kc v) s s.begun) ∧
      (s.hw.kc.on = true → s.hw.kc.halted = false →
        (fieldOf v 0 4 = 8 → Does (.cluStateSet .kc v) s (kept (enterArchiving s.begun))) ∧
        (fieldOf v 0 4 = 9 → Does (.cluStateSet .kc v) s (kept (setState 9 (archiveRoutine (ledger 0xF0 s.begun))))) ∧
        (cluState s.hw = 3 → fieldOf v 0 4 = 4 → let h := if s.hw.fw.firstReady then s.begun else catalogueNext s.begun
          Does (.cluStateSet .kc v) s (kept (firstReady (setState 4 h)))) ∧
        (cluState s.hw ≠ 3 → fieldOf v 0 4 < 8 → Does (.cluStateSet .kc v) s (kept (setState (fieldOf v 0 4) s.begun))))) ∧
    (∀ h : Hw, h.fw.firstReady = false → let g := joinAll (adminResident h)
      firstReady h = fwMail 2 0x93 [g.cid] { g with fw := { g.fw with firstReady := true } })

/-- A cold reset asks for its key; a warm reset drains the buffers and queues first and is forced after 2 µs; a forced one acts at once;
both are refused where R466 and R469 say so; a core that rests is reset once its buffers and queue are empty. A power request is refused
by the first reason of R470 or waits for its boundary, where it takes effect, but for a request that lapses before; IDLE and SHELVED end with an exit, after which a
warm reset that waited drains (R210, R211, R213, R314, R464–R475). -/
def Obligations.ResetsAndPowerStates : Prop :=
  ∀ (n : Fin 8) (u : Writer) (v : W32) (s : State),
    let st := cluState s.hw
    let idleTe (h : Hw) : Prop := ∀ k, k < 64 → ∀ f ∈ (h.te k).flights, f.phase ≠ 0
    (Reaches u s → fieldOf v 8 8 = 0x5A → Does (.coldReset u v) s (coldReset s.begun)) ∧
    (Reaches u s → fieldOf v 8 8 ≠ 0x5A → Does (.coldReset u v) s (refuse u.unit s.begun)) ∧
    (Reaches u s → st = 1 ∨ st = 2 ∨ st = 8 ∨ fencedSince s.hw = true → Does (.warmReset u) s (refuse u.unit s.begun)) ∧
    (Reaches u s → st ≠ 1 → st ≠ 2 → st ≠ 8 → fencedSince s.hw = false →
      (pwrState s.hw ≠ 0 → Does (.warmReset u) s (exitStart { s.begun with boot := { s.hw.boot with warmAfter := true } })) ∧
      (pwrState s.hw = 0 → s.hw.boot.drain = none → Does (.warmReset u) s (drainStart s.begun)) ∧
      (pwrState s.hw = 0 → s.hw.boot.drain ≠ none → Does (.warmReset u) s s.begun)) ∧
    (∀ t, s.hw.boot.drain = some t →
      let all (_ : Nat) : Bool := true
      let e := drainEnd all s.begun
      let h := sendsDue (settle e (s.begun.at e))
      (e ≤ t + drainLimit s.hw → sendsWait all h = false → idleTe s.hw → Does .warmResetEffect s (hotReset false h)) ∧
      (t + drainLimit s.hw < e ∨ sendsWait all h = true ∨ (∃ k f, k < 64 ∧ f ∈ (s.hw.te k).flights ∧ f.phase = 0) →
        Does .warmResetEffect s s.begun) ∧
      Does .warmResetTimeout s (hotReset true s.begun)) ∧
    (s.hw.boot.drain = none → Does .warmResetEffect s s.begun ∧ Does .warmResetTimeout s s.begun) ∧
    (Reaches u s → st = 1 ∨ st = 2 ∨ fencedSince s.hw = true → Does (.forcedReset u) s (refuse u.unit s.begun)) ∧
    (Reaches u s → st ≠ 1 → st ≠ 2 → fencedSince s.hw = false → Does (.forcedReset u) s (hotReset true s.begun)) ∧
    (∀ (f : Bool) (h : Hw), let r := hotReset f h
      r.beats = [] ∧ r.bg = [] ∧ (∃ t, r.sync = { syncFresh with time := t }) ∧ r.kc = kcFresh ∧ r.hold = holdFresh ∧
        r.cars = Vector.replicate 64 carFresh ∧ r.tes = Vector.replicate 64 teFresh ∧ r.fw.cmds = [] ∧ r.fw.phase = none ∧
        r.rcd.ringOn = true) ∧
    (Reaches u s → coreOn s.hw n.val = true → atRest (s.hw.core n) = true → (s.hw.core n).range = none →
      (nbit (s.hw.reg 0x10000C).toNat (16 + n.val) = false → Does (.coreReset n u) s
        { s.begun.orReg 0x10000C (2 ^ (16 + n.val)) with boot := { s.hw.boot with coreReq := s.hw.boot.coreReq ++ [(n.val, s.hw.now)] } }) ∧
      (nbit (s.hw.reg 0x10000C).toNat (16 + n.val) = true → Does (.coreReset n u) s s.begun)) ∧
    (Reaches u s → coreOn s.hw n.val = false ∨ atRest (s.hw.core n) = false ∨ (s.hw.core n).range ≠ none →
      Does (.coreReset n u) s (refuse u.unit s.begun)) ∧
    (let own (m : Nat) : Bool := m == n.val
     let e := drainEnd own s.begun
     let h := sendsDue (settle e (s.begun.at e))
     let lim := coreReqAt s.hw n.val + drainLimit s.hw
     let reset (h : Hw) : Hw := let h1 := (coreReset n h).clrReg 0x10000C (2 ^ (16 + n.val))
       { h1 with boot := { h1.boot with coreReq := h1.boot.coreReq.filter (fun x => decide (x.1 ≠ n.val)) } }
     let left := e ≤ lim ∧ sendsWait own h = false
     (nbit (s.hw.reg 0x10000C).toNat (16 + n.val) = true →
       (left → Does (.coreResetDone n) s (reset h)) ∧
       (¬ left → lim ≤ s.hw.now → Does (.coreResetDone n) s (reset (countLost n (settle s.hw.now s.begun)))) ∧
       (¬ left → s.hw.now < lim → Does (.coreResetDone n) s s.begun)) ∧
     (nbit (s.hw.reg 0x10000C).toNat (16 + n.val) = false → Does (.coreResetDone n) s s.begun)) ∧
    (∀ k, (k = 1 ∨ k = 2 ∨ k = 3) → Reaches u s →
      let cmd : Instr := if k = 1 then .pwrReqIdle u else if k = 2 then .pwrReqShelved u else .pwrReqOff u
      let h := settle s.hw.now (s.begun.setFld 0x200030 0 2 k)
      let busy := nbit (h.reg 0x200034).toNat 2 = true ∨ nbit (h.reg 0x200034).toNat 3 = true ∨ h.boot.drain ≠ none ∨ pwrState h ≠ 0
      (pwrRefuse h k ≠ 0 → Does cmd s (pwrNo u (pwrRefuse h k) h)) ∧
      (pwrRefuse h k = 0 → busy → Does cmd s (pwrNo u 6 h)) ∧
      (pwrRefuse h k = 0 → ¬busy → Does cmd s ({ h with boot := { h.boot with pwrReq := some k } }.setFld 0x200034 2 1 1))) ∧
    (Reaches u s → let h := s.begun.setFld 0x200030 0 2 0
      (pwrState h = 0 ∨ h.boot.drain ≠ none → Does (.pwrReqActive u) s (pwrNo u 6 h)) ∧
      (pwrState h ≠ 0 → h.boot.drain = none → Does (.pwrReqActive u) s (exitStart h))) ∧
    (∀ k, s.hw.boot.pwrReq = some k →
      let done (h : Hw) : Hw := { h with boot := { h.boot with pwrReq := none } }.setFld 0x200034 2 1 0
      let why := pwrRefuse s.begun k
      (k = 3 → Does .powerStateEnter s (done (s.begun.orReg 0x200034 8))) ∧
      (k ≠ 3 → why ≠ 0 → Does .powerStateEnter s (done (s.begun.setFld 0x200034 8 8 why))) ∧
      (why = 0 →
        (k = 1 → Does .powerStateEnter s (done (s.begun.setFld 0x200034 0 2 1))) ∧
        (k = 2 → s.hw.kc.on = true → s.hw.kc.halted = false → s.hw.kc.wfi = false → Does .powerStateEnter s s.begun) ∧
        (k = 2 → s.hw.kc.on = false ∨ s.hw.kc.halted = true ∨ s.hw.kc.wfi = true → Does .powerStateEnter s
          (done (((List.finRange 8).foldl (fun h i => coreReset i h) s.begun).setFld 0x200034 0 2 2))))) ∧
    (s.hw.boot.pwrReq = none → Does .powerStateEnter s s.begun) ∧
    (pwrState s.hw = 1 → s.hw.boot.exitReq.isSome = true → Does .idleExit s (exitEnd s.begun)) ∧
    (pwrState s.hw = 2 → s.hw.boot.exitReq.isSome = true → s.hw.frame % 520 = 0 →
      Does .shelvedExit s (exitEnd (s.begun.modKc (fun k => { k with wfi := false })))) ∧
    (s.hw.boot.exitReq = none → Does .idleExit s s.begun ∧ Does .shelvedExit s s.begun) ∧
    (∀ h : Hw, let h1 := { h with boot := { h.boot with exitReq := none } }.setReg 0x200034 (h.reg 0x200034 &&& 0xFF00#32)
      let h2 := poolRequest h1
      (h.boot.warmAfter = false → exitEnd h = h2) ∧
      (h.boot.warmAfter = true → exitEnd h = warmEffect (drainStart { h2 with boot := { h2.boot with warmAfter := false } })))

/-! ### Debug, test ports and the register space -/

/-- ARM is refused while ARMED or late; DISARM clears; the snapshot takes every pc at its frame (R500, R501). The TAP's instructions
select their registers; the wrapper's are loaded through the TAP exactly while it holds WRAPPER, and EXTEST and INTEST isolate the
macro, whose state is then a free value (R518–R520; log entry 15). A write of the register space of 32 aligned bits goes to its register;
another one is refused; in an unpopulated block it ends as R190 says, and an address of memory names no register (R6, R190). -/
def Obligations.DebugTestPortsAndRegisterWrites : Prop :=
  ∀ (u : Writer) (s : State), let t := s.hw.tap
    (Reaches u s → snapArmed s.hw = true ∨ s.hw.reg64 0xC00000 ≤ s.hw.frame → Does (.snapArm u) s (refuse u.unit s.begun)) ∧
    (Reaches u s → snapArmed s.hw = false → s.hw.frame < s.hw.reg64 0xC00000 → Does (.snapArm u) s (s.begun.orReg DBG_SNAP_CTL 2)) ∧
    (Reaches u s → Does (.snapDisarm u) s (s.begun.clrReg DBG_SNAP_CTL 2)) ∧
    (snapArmed s.hw = true → s.hw.reg64 0xC00000 = s.hw.frame → Does .dbgSnapshot s
      ((((List.finRange 64).foldl (fun h c => h.setReg (0xC00100 + 4 * c.val)
        (BitVec.ofNat 32 (let e := s.hw.cars.get c; if e.st = .wait then (e.pc + 32) % 0x40000 else e.pc)))
        ((List.finRange 8).foldl (fun h n => h.setReg64 (0xC00040 + 8 * n.val) (if coreOn s.hw n.val then (s.hw.core n).pc else 0))
          s.begun)).clrReg DBG_SNAP_CTL 2).orReg DBG_SNAP_CTL 4)) ∧
    (snapArmed s.hw = false ∨ s.hw.reg64 0xC00000 ≠ s.hw.frame → Does .dbgSnapshot s s.begun) ∧
    (∀ mfr : BitVec 11, Does (.idcode mfr) s { s.begun with
      tap := { t with ir := 1, mfr := mfr.toNat, dr := 0xB * 2 ^ 28 + 0xC864 * 2 ^ 12 + mfr.toNat * 2 + 1 } }) ∧
    (∀ x, Does (.samplePreload (some x)) s { s.begun with tap := { t with ir := 2, boundary := x, dr := x } }) ∧
    (let x := Config.freeNat s.hw.free
     Does (.samplePreload none) s { s.begun.draw with tap := { t with ir := 2, boundary := x, dr := x } }) ∧
    Does .wrapper s { s.begun with tap := { t with ir := 8 } } ∧
    Does .bistResult s { s.begun with tap := { t with ir := 9, dr := leNat t.bist } } ∧
    Does .bypass s { s.begun with tap := { t with ir := 15, dr := 0 } } ∧
    (let free (t : Tap) : Hw := { Config.freeHw s.hw.free with free := s.hw.free + 1, tap := { t with isolated := true } }
     Does .extest s (free { t with ir := 0, dr := t.boundary }) ∧
     (∀ via : Bool, (via = true ↔ t.ir = 8) →
       Does (.wsBypass via) s { s.begun with tap := { t with wir := 0 } } ∧ Does (.wsExtest via) s (free { t with wir := 1 }) ∧
       Does (.wsIntestScan via) s (free { t with wir := 2 }) ∧ Does (.wsIntestRing via) s (free { t with wir := 3 })) ∧
     (∀ via : Bool, ¬(via = true ↔ t.ir = 8) → ∀ i ∈ [Instr.wsBypass via, .wsExtest via, .wsIntestScan via, .wsIntestRing via],
       Does i s s.begun)) ∧
    (∀ (a : BitVec 41) (width : Nat) (v : W32) (off : Nat), Reaches u s → regionOf s.hw a.toNat = .regs off →
      (width = 4 → off % 4 = 0 → Does (.registerWrite u a width v) s (writeRegister u off v s.begun)) ∧
      (width ≠ 4 ∨ off % 4 ≠ 0 → Does (.registerWrite u a width v) s (refuse u.unit s.begun))) ∧
    (∀ (a : BitVec 41) (width : Nat) (v : W32), Reaches u s → regionOf s.hw a.toNat = .unpopulated →
      (u ≠ .kc → Does (.registerWrite u a width v) s
        (raise { cls := cACCESS_RANGE, sev := 0, unit := u.unit, q := .none, addr := a.toNat } s.begun)) ∧
      (u = .kc → s.hw.kc.on = true → s.hw.kc.halted = false →
        Does (.registerWrite u a width v) s (kcFault 4 (some a.toNat) s.begun))) ∧
    (∀ (a : BitVec 41) (width : Nat) (v : W32), Reaches u s → regionOf s.hw a.toNat ≠ .unpopulated →
      (∀ off, regionOf s.hw a.toNat ≠ .regs off) → Does (.registerWrite u a width v) s s.begun)

/-! ### Register pairs and access codes -/

/-- Register g0 reads as zero and predicate p0 as all ones, in every state; a write to either is discarded, and an instruction of a core
whose destination is one of them completes with every register of the file as it was (R78, R79). -/
def Obligations.ConstantRegistersDiscardWrites : Prop :=
  (∀ c : Core, c.gr 0 = 0 ∧ c.pr 0 = BitVec.allOnes 64 ∧ (∀ x, c.setG 0 x = c ∧ c.setP 0 x = c)) ∧
    (∀ r ∈ valueRows, ∀ (n : Fin 8) (w : W32) (s : State), let h := issued s n w; let c := h.core n; let cyc := issueCyc c w
      Issues s n w r.mn → Quiet s h → ReadsLanded c cyc (r.reads w) → rdOf w = 0 →
      ∃ t, exec (r.make n w) s = .next t ∧ (t.hw.core n).g = c.g ∧ (t.hw.core n).pc = nextPc c) ∧
    (∀ r ∈ vecRows, r.file = 2 → ∀ (n : Fin 8) (w : W32) (s : State), let h := issued s n w; let c := h.core n; let cyc := issueCyc c w
      Registers.wf h → Issues s n w r.mn → ReadsLanded c cyc (r.reads w) → rdOf w = 0 → Quiet s (chargeVec n c.pc cyc (r.lat w) h) →
      ∃ t, exec (r.make n w) s = .next t ∧ (t.hw.core n).p = c.p ∧ (t.hw.core n).pc = nextPc c)

/-- The low word of an RW pair waits in the writer's latch and changes no register; its high word takes it along, and goes alone where
none waits (R8); where the pair may not change, either word is refused, and with the high word the latch is empty, the model's choice (log entry 93). A
write sets RW bits, clears W1C bits written as 1, but for a flag that an operation sets in that very cycle, and leaves the others (R12,
R75, R311). A read of a pair's low word latches the high word for its requester (R7); a read clears RC fields (R12), but
TEN_TRK.MAX, which goes on from the present occupancy (R317). -/
def Obligations.RegisterPairsAndAccessCodes : Prop :=
  ∀ (unit off : Nat) (lo hi : W32) (h : Hw),
    ((shapeOf off).pos = 1 → (shapeOf off).rw ≠ 0 → (shapeOf (off + 4)).pos = 2 → (shapeOf (off + 4)).rw ≠ 0 → Tables.wf h →
      let g := pairWrite unit off lo true h
      (∀ p, g.reg p = h.reg p) ∧ g.mem = h.mem ∧ g.cores = h.cores ∧ pairWrite unit off lo false h = refuse unit h ∧
      (∀ p, (pairWrite unit (off + 4) hi true g).reg p = (plainWrite (off + 4) hi (plainWrite off lo h)).reg p) ∧
      (h.wlatch = [] → (pairWrite unit (off + 4) hi true h).reg (off + 4) = (plainWrite (off + 4) hi h).reg (off + 4) ∧
        (pairWrite unit (off + 4) hi true h).reg off = h.reg off) ∧
      pairWrite unit (off + 4) hi false g = refuse unit
        { g with wlatch := tabPut (fun _ => none) (latchKey unit off) none g.wlatch }) ∧
    ((shapeOf off).rw = 0 ∨ (shapeOf off).pos = 0 → pairWrite unit off lo true h = plainWrite off lo h ∧
      pairWrite unit off lo false h = refuse unit h) ∧
    (Tables.wf h → ∀ i, i < 32 →
      ((plainWrite off lo h).reg off).getLsbD i =
        (if nbit (setNow off h ||| irqNow off h) i then true
         else if nbit (shapeOf off).w1c i && lo.getLsbD i then false
         else if nbit ((shapeOf off).rw + (shapeOf off).wo) i then lo.getLsbD i else (h.reg off).getLsbD i)) ∧
    (∀ p, p ≠ off → (plainWrite off lo h).reg p = h.reg p) ∧
    (let g := regSettle off h
     ((shapeOf off).pos = 0 ∨ (shapeOf off).plain = true → (readRegister unit off h).1 = regValue g off) ∧
     ((shapeOf off).pos = 1 → (shapeOf off).plain = false → (shapeOf (off + 4)).pos = 2 → (shapeOf (off + 4)).plain = false →
       (readRegister unit off h).1 = regValue g off ∧
         (∀ x : Hw, (regSettle (off + 4) x).rlatch = (readRegister unit off h).2.rlatch →
           (readRegister unit (off + 4) x).1 = regValue g (off + 4))) ∧
     (Tables.wf g → off ≠ 0x601008 → ∀ i, i < 32 → nbit (shapeOf off).rc i = true →
       ((readRegister unit off h).2.reg off).getLsbD i = false))
end

