-- ==== Sys2Proof/Laws/Tables.lean ====
section
/-!
SUPPORT. What the operations on sparse tables do: reading after writing, and that every one of them keeps the canonical form.
-/
namespace Sys2Proof.Machine

section
variable {α : Type} [DecidableEq α] (d : Nat → α)

/-- Every key of a canonical table lies above its lower bound. -/
theorem tabWfFrom_mono {lo lo' : Option Nat} {l : List (Nat × α)} (h : tabWfFrom d lo l = true)
    (hl : ∀ b, lo' = some b → ∃ c, lo = some c ∧ b ≤ c) : tabWfFrom d lo' l = true := by
  cases l with
  | nil => rfl
  | cons p l =>
    obtain ⟨k, v⟩ := p
    cases lo' with
    | none =>
      simp only [tabWfFrom, Bool.and_eq_true] at h ⊢
      exact ⟨⟨trivial, h.1.2⟩, h.2⟩
    | some b =>
      obtain ⟨c, rfl, hc⟩ := hl b rfl
      simp only [tabWfFrom, Bool.and_eq_true, decide_eq_true_eq] at h ⊢
      exact ⟨⟨by omega, h.1.2⟩, h.2⟩

/-- A canonical table lists no key at or below its lower bound. -/
theorem tabGet_below {c : Nat} {l : List (Nat × α)} (h : tabWfFrom d (some c) l = true) {a : Nat} (ha : a ≤ c) :
    tabGet d l a = d a := by
  induction l generalizing c with
  | nil => rfl
  | cons p l ih =>
    obtain ⟨k, v⟩ := p
    simp only [tabWfFrom, Bool.and_eq_true, decide_eq_true_eq] at h
    simp only [tabGet]
    rw [if_neg (by omega)]
    exact ih h.2 (by omega)

/-- Writing one key leaves every other key's value, in any table. -/
theorem tabGet_tabPut_ne {a b : Nat} (h : b ≠ a) (v : α) (l : List (Nat × α)) : tabGet d (tabPut d a v l) b = tabGet d l b := by
  induction l with
  | nil =>
    simp only [tabPut]
    split
    · rfl
    · simp [tabGet, h]
  | cons p l ih =>
    obtain ⟨k, w⟩ := p
    simp only [tabPut]
    split
    · split
      · rfl
      · simp [tabGet, h]
    · split
      · next hk => subst hk; split <;> simp [tabGet, h]
      · simp only [tabGet, ih]

/-- A key reads as what was last written to it, in a canonical table. -/
theorem tabGet_tabPut_self {lo : Option Nat} {a : Nat} {l : List (Nat × α)} (h : tabWfFrom d lo l = true) (v : α) :
    tabGet d (tabPut d a v l) a = v := by
  induction l generalizing lo with
  | nil =>
    simp only [tabPut]
    split
    · next hv => simp [tabGet, hv]
    · simp [tabGet]
  | cons p l ih =>
    obtain ⟨k, w⟩ := p
    simp only [tabWfFrom, Bool.and_eq_true] at h
    simp only [tabPut]
    split
    · next hk =>
      split
      · next hv =>
        simp only [tabGet]
        rw [if_neg (by omega), tabGet_below d h.2 (by omega), hv]
      · simp [tabGet]
    · split
      · next hk =>
        subst hk
        split
        · next hv => rw [tabGet_below d h.2 (by omega), hv]
        · simp [tabGet]
      · next h1 h2 =>
        simp only [tabGet]
        rw [if_neg h2]
        exact ih h.2

/-- A key above a lower bound passes the bound's check. -/
theorem tabWfFrom_cons {lo : Option Nat} {a : Nat} {v : α} {l : List (Nat × α)} (ha : ∀ b, lo = some b → b < a) (hv : ¬v = d a)
    (hl : tabWfFrom d (some a) l = true) : tabWfFrom d lo ((a, v) :: l) = true := by
  cases lo with
  | none => simp [tabWfFrom, hv, hl]
  | some b => simp [tabWfFrom, hv, hl, ha b rfl]

/-- Writing keeps the canonical form. -/
theorem tabWfFrom_tabPut {lo : Option Nat} {a : Nat} {l : List (Nat × α)} (h : tabWfFrom d lo l = true)
    (ha : ∀ b, lo = some b → b < a) (v : α) : tabWfFrom d lo (tabPut d a v l) = true := by
  induction l generalizing lo with
  | nil =>
    simp only [tabPut]
    split
    · rfl
    · next hv => exact tabWfFrom_cons d ha hv rfl
  | cons p l ih =>
    obtain ⟨k, w⟩ := p
    have h' := h
    simp only [tabWfFrom, Bool.and_eq_true, decide_eq_true_eq] at h
    simp only [tabPut]
    split
    · next hk =>
      split
      · exact h'
      · next hv =>
        refine tabWfFrom_cons d ha hv ?_
        simp only [tabWfFrom, Bool.and_eq_true, decide_eq_true_eq]
        exact ⟨⟨hk, h.1.2⟩, h.2⟩
    · split
      · next hk =>
        subst hk
        split
        · exact tabWfFrom_mono d h.2 (fun b hb => ⟨a, rfl, Nat.le_of_lt (ha b hb)⟩)
        · next hv =>
          exact tabWfFrom_cons d ha hv h.2
      · next h1 h2 =>
        simp only [tabWfFrom, Bool.and_eq_true, decide_eq_true_eq]
        refine ⟨h.1, ih h.2 (fun b hb => ?_)⟩
        cases hb
        omega

/-- Writing keeps the canonical form of a whole table. -/
theorem tabWf_tabPut {a : Nat} {l : List (Nat × α)} (h : tabWf d l = true) (v : α) : tabWf d (tabPut d a v l) = true :=
  tabWfFrom_tabPut d h (fun _ hb => nomatch hb) v

/-- Reading what was written, in a canonical table. -/
theorem tabGet_tabPut {a b : Nat} {l : List (Nat × α)} (h : tabWf d l = true) (v : α) :
    tabGet d (tabPut d a v l) b = if b = a then v else tabGet d l b := by
  split
  · next hb => subst hb; exact tabGet_tabPut_self d h v
  · next hb => exact tabGet_tabPut_ne d hb v l

/-- The rebuilt table is canonical. -/
theorem tabWf_rebuild (l : List (Nat × α)) : tabWf d (l.foldr (fun p t => tabPut d p.1 p.2 t) []) = true := by
  induction l with
  | nil => rfl
  | cons p l ih => exact tabWf_tabPut d ih p.2

/-- `canonTab` answers a canonical table. -/
theorem tabWf_canonTab (l : List (Nat × α)) : tabWf d (canonTab d l) = true := by
  simp only [canonTab]
  split
  · assumption
  · exact tabWf_rebuild d l

/-- The rebuilt table has the values of the table. -/
theorem tabGet_rebuild (l : List (Nat × α)) (a : Nat) :
    tabGet d (l.foldr (fun p t => tabPut d p.1 p.2 t) []) a = tabGet d l a := by
  induction l with
  | nil => rfl
  | cons p l ih =>
    simp only [List.foldr, tabGet, tabGet_tabPut d (tabWf_rebuild d l) p.2, ih]

/-- `canonTab` changes no value. -/
@[simp] theorem tabGet_canonTab (l : List (Nat × α)) (a : Nat) : tabGet d (canonTab d l) a = tabGet d l a := by
  simp only [canonTab]
  split
  · rfl
  · exact tabGet_rebuild d l a

/-- A canonical table is its own canonical form. -/
theorem canonTab_of_wf {l : List (Nat × α)} (h : tabWf d l = true) : canonTab d l = l := by simp [canonTab, h]

end

/-- Every sparse table is canonical after `canonTables`. -/
theorem tables_wf_canonTables (hw : Hw) : Tables.wf (canonTables hw) :=
  ⟨tabWf_canonTab _ _, tabWf_canonTab _ _, tabWf_canonTab _ _, tabWf_canonTab _ _, tabWf_canonTab _ _⟩

/-- Every command leaves the sparse tables canonical. -/
theorem tables_wf_finish (a b : Hw) : Tables.wf (finish a b) := tables_wf_canonTables _

end Sys2Proof.Machine
end

