-- ==== Sys2Proof/Laws/State.lean ====
section
/-!
SUPPORT. One lemma for each field of the state under each named update that leaves it as it is, and for the field an update writes.
-/
namespace Sys2Proof.Machine

section
variable (hw : Hw)

/-! ### Hw.at -/

@[simp] theorem Hw.at_frame (t : Nat) : (hw.at t).frame = hw.frame := rfl
@[simp] theorem Hw.at_free (t : Nat) : (hw.at t).free = hw.free := rfl
@[simp] theorem Hw.at_nid (t : Nat) : (hw.at t).nid = hw.nid := rfl
@[simp] theorem Hw.at_regs (t : Nat) : (hw.at t).regs = hw.regs := rfl
@[simp] theorem Hw.at_rlatch (t : Nat) : (hw.at t).rlatch = hw.rlatch := rfl
@[simp] theorem Hw.at_wlatch (t : Nat) : (hw.at t).wlatch = hw.wlatch := rfl
@[simp] theorem Hw.at_mem (t : Nat) : (hw.at t).mem = hw.mem := rfl
@[simp] theorem Hw.at_bad (t : Nat) : (hw.at t).bad = hw.bad := rfl
@[simp] theorem Hw.at_soft (t : Nat) : (hw.at t).soft = hw.soft := rfl
@[simp] theorem Hw.at_beats (t : Nat) : (hw.at t).beats = hw.beats := rfl
@[simp] theorem Hw.at_got (t : Nat) : (hw.at t).got = hw.got := rfl
@[simp] theorem Hw.at_rcd (t : Nat) : (hw.at t).rcd = hw.rcd := rfl
@[simp] theorem Hw.at_clk (t : Nat) : (hw.at t).clk = hw.clk := rfl
@[simp] theorem Hw.at_coreEn (t : Nat) : (hw.at t).coreEn = hw.coreEn := rfl
@[simp] theorem Hw.at_tcmSwap (t : Nat) : (hw.at t).tcmSwap = hw.tcmSwap := rfl
@[simp] theorem Hw.at_active (t : Nat) : (hw.at t).active = hw.active := rfl
@[simp] theorem Hw.at_shadow (t : Nat) : (hw.at t).shadow = hw.shadow := rfl
@[simp] theorem Hw.at_bmc (t : Nat) : (hw.at t).bmc = hw.bmc := rfl
@[simp] theorem Hw.at_hold (t : Nat) : (hw.at t).hold = hw.hold := rfl
@[simp] theorem Hw.at_handoff (t : Nat) : (hw.at t).handoff = hw.handoff := rfl
@[simp] theorem Hw.at_chkOff (t : Nat) : (hw.at t).chkOff = hw.chkOff := rfl
@[simp] theorem Hw.at_chkBoth (t : Nat) : (hw.at t).chkBoth = hw.chkBoth := rfl
@[simp] theorem Hw.at_chkErr (t : Nat) : (hw.at t).chkErr = hw.chkErr := rfl
@[simp] theorem Hw.at_cores (t : Nat) : (hw.at t).cores = hw.cores := rfl
@[simp] theorem Hw.at_cars (t : Nat) : (hw.at t).cars = hw.cars := rfl
@[simp] theorem Hw.at_tes (t : Nat) : (hw.at t).tes = hw.tes := rfl
@[simp] theorem Hw.at_tenDone (t : Nat) : (hw.at t).tenDone = hw.tenDone := rfl
@[simp] theorem Hw.at_bg (t : Nat) : (hw.at t).bg = hw.bg := rfl
@[simp] theorem Hw.at_sync (t : Nat) : (hw.at t).sync = hw.sync := rfl
@[simp] theorem Hw.at_net (t : Nat) : (hw.at t).net = hw.net := rfl
@[simp] theorem Hw.at_kc (t : Nat) : (hw.at t).kc = hw.kc := rfl
@[simp] theorem Hw.at_fw (t : Nat) : (hw.at t).fw = hw.fw := rfl
@[simp] theorem Hw.at_boot (t : Nat) : (hw.at t).boot = hw.boot := rfl
@[simp] theorem Hw.at_tap (t : Nat) : (hw.at t).tap = hw.tap := rfl
@[simp] theorem Hw.at_tok (t : Nat) : (hw.at t).tok = hw.tok := rfl
@[simp] theorem Hw.at_out (t : Nat) : (hw.at t).out = hw.out := rfl

/-! ### Hw.draw -/

@[simp] theorem Hw.draw_frame : (hw.draw).frame = hw.frame := rfl
@[simp] theorem Hw.draw_now : (hw.draw).now = hw.now := rfl
@[simp] theorem Hw.draw_nid : (hw.draw).nid = hw.nid := rfl
@[simp] theorem Hw.draw_regs : (hw.draw).regs = hw.regs := rfl
@[simp] theorem Hw.draw_rlatch : (hw.draw).rlatch = hw.rlatch := rfl
@[simp] theorem Hw.draw_wlatch : (hw.draw).wlatch = hw.wlatch := rfl
@[simp] theorem Hw.draw_mem : (hw.draw).mem = hw.mem := rfl
@[simp] theorem Hw.draw_bad : (hw.draw).bad = hw.bad := rfl
@[simp] theorem Hw.draw_soft : (hw.draw).soft = hw.soft := rfl
@[simp] theorem Hw.draw_beats : (hw.draw).beats = hw.beats := rfl
@[simp] theorem Hw.draw_got : (hw.draw).got = hw.got := rfl
@[simp] theorem Hw.draw_rcd : (hw.draw).rcd = hw.rcd := rfl
@[simp] theorem Hw.draw_clk : (hw.draw).clk = hw.clk := rfl
@[simp] theorem Hw.draw_coreEn : (hw.draw).coreEn = hw.coreEn := rfl
@[simp] theorem Hw.draw_tcmSwap : (hw.draw).tcmSwap = hw.tcmSwap := rfl
@[simp] theorem Hw.draw_active : (hw.draw).active = hw.active := rfl
@[simp] theorem Hw.draw_shadow : (hw.draw).shadow = hw.shadow := rfl
@[simp] theorem Hw.draw_bmc : (hw.draw).bmc = hw.bmc := rfl
@[simp] theorem Hw.draw_hold : (hw.draw).hold = hw.hold := rfl
@[simp] theorem Hw.draw_handoff : (hw.draw).handoff = hw.handoff := rfl
@[simp] theorem Hw.draw_chkOff : (hw.draw).chkOff = hw.chkOff := rfl
@[simp] theorem Hw.draw_chkBoth : (hw.draw).chkBoth = hw.chkBoth := rfl
@[simp] theorem Hw.draw_chkErr : (hw.draw).chkErr = hw.chkErr := rfl
@[simp] theorem Hw.draw_cores : (hw.draw).cores = hw.cores := rfl
@[simp] theorem Hw.draw_cars : (hw.draw).cars = hw.cars := rfl
@[simp] theorem Hw.draw_tes : (hw.draw).tes = hw.tes := rfl
@[simp] theorem Hw.draw_tenDone : (hw.draw).tenDone = hw.tenDone := rfl
@[simp] theorem Hw.draw_bg : (hw.draw).bg = hw.bg := rfl
@[simp] theorem Hw.draw_sync : (hw.draw).sync = hw.sync := rfl
@[simp] theorem Hw.draw_net : (hw.draw).net = hw.net := rfl
@[simp] theorem Hw.draw_kc : (hw.draw).kc = hw.kc := rfl
@[simp] theorem Hw.draw_fw : (hw.draw).fw = hw.fw := rfl
@[simp] theorem Hw.draw_boot : (hw.draw).boot = hw.boot := rfl
@[simp] theorem Hw.draw_tap : (hw.draw).tap = hw.tap := rfl
@[simp] theorem Hw.draw_tok : (hw.draw).tok = hw.tok := rfl
@[simp] theorem Hw.draw_out : (hw.draw).out = hw.out := rfl

/-! ### Hw.newId -/

@[simp] theorem Hw.newId_frame : (hw.newId).frame = hw.frame := rfl
@[simp] theorem Hw.newId_now : (hw.newId).now = hw.now := rfl
@[simp] theorem Hw.newId_free : (hw.newId).free = hw.free := rfl
@[simp] theorem Hw.newId_regs : (hw.newId).regs = hw.regs := rfl
@[simp] theorem Hw.newId_rlatch : (hw.newId).rlatch = hw.rlatch := rfl
@[simp] theorem Hw.newId_wlatch : (hw.newId).wlatch = hw.wlatch := rfl
@[simp] theorem Hw.newId_mem : (hw.newId).mem = hw.mem := rfl
@[simp] theorem Hw.newId_bad : (hw.newId).bad = hw.bad := rfl
@[simp] theorem Hw.newId_soft : (hw.newId).soft = hw.soft := rfl
@[simp] theorem Hw.newId_beats : (hw.newId).beats = hw.beats := rfl
@[simp] theorem Hw.newId_got : (hw.newId).got = hw.got := rfl
@[simp] theorem Hw.newId_rcd : (hw.newId).rcd = hw.rcd := rfl
@[simp] theorem Hw.newId_clk : (hw.newId).clk = hw.clk := rfl
@[simp] theorem Hw.newId_coreEn : (hw.newId).coreEn = hw.coreEn := rfl
@[simp] theorem Hw.newId_tcmSwap : (hw.newId).tcmSwap = hw.tcmSwap := rfl
@[simp] theorem Hw.newId_active : (hw.newId).active = hw.active := rfl
@[simp] theorem Hw.newId_shadow : (hw.newId).shadow = hw.shadow := rfl
@[simp] theorem Hw.newId_bmc : (hw.newId).bmc = hw.bmc := rfl
@[simp] theorem Hw.newId_hold : (hw.newId).hold = hw.hold := rfl
@[simp] theorem Hw.newId_handoff : (hw.newId).handoff = hw.handoff := rfl
@[simp] theorem Hw.newId_chkOff : (hw.newId).chkOff = hw.chkOff := rfl
@[simp] theorem Hw.newId_chkBoth : (hw.newId).chkBoth = hw.chkBoth := rfl
@[simp] theorem Hw.newId_chkErr : (hw.newId).chkErr = hw.chkErr := rfl
@[simp] theorem Hw.newId_cores : (hw.newId).cores = hw.cores := rfl
@[simp] theorem Hw.newId_cars : (hw.newId).cars = hw.cars := rfl
@[simp] theorem Hw.newId_tes : (hw.newId).tes = hw.tes := rfl
@[simp] theorem Hw.newId_tenDone : (hw.newId).tenDone = hw.tenDone := rfl
@[simp] theorem Hw.newId_bg : (hw.newId).bg = hw.bg := rfl
@[simp] theorem Hw.newId_sync : (hw.newId).sync = hw.sync := rfl
@[simp] theorem Hw.newId_net : (hw.newId).net = hw.net := rfl
@[simp] theorem Hw.newId_kc : (hw.newId).kc = hw.kc := rfl
@[simp] theorem Hw.newId_fw : (hw.newId).fw = hw.fw := rfl
@[simp] theorem Hw.newId_boot : (hw.newId).boot = hw.boot := rfl
@[simp] theorem Hw.newId_tap : (hw.newId).tap = hw.tap := rfl
@[simp] theorem Hw.newId_tok : (hw.newId).tok = hw.tok := rfl
@[simp] theorem Hw.newId_out : (hw.newId).out = hw.out := rfl

/-! ### Hw.setReg -/

@[simp] theorem Hw.setReg_frame (o : Nat) (v : W32) : (hw.setReg o v).frame = hw.frame := rfl
@[simp] theorem Hw.setReg_now (o : Nat) (v : W32) : (hw.setReg o v).now = hw.now := rfl
@[simp] theorem Hw.setReg_free (o : Nat) (v : W32) : (hw.setReg o v).free = hw.free := rfl
@[simp] theorem Hw.setReg_nid (o : Nat) (v : W32) : (hw.setReg o v).nid = hw.nid := rfl
@[simp] theorem Hw.setReg_rlatch (o : Nat) (v : W32) : (hw.setReg o v).rlatch = hw.rlatch := rfl
@[simp] theorem Hw.setReg_wlatch (o : Nat) (v : W32) : (hw.setReg o v).wlatch = hw.wlatch := rfl
@[simp] theorem Hw.setReg_mem (o : Nat) (v : W32) : (hw.setReg o v).mem = hw.mem := rfl
@[simp] theorem Hw.setReg_bad (o : Nat) (v : W32) : (hw.setReg o v).bad = hw.bad := rfl
@[simp] theorem Hw.setReg_soft (o : Nat) (v : W32) : (hw.setReg o v).soft = hw.soft := rfl
@[simp] theorem Hw.setReg_beats (o : Nat) (v : W32) : (hw.setReg o v).beats = hw.beats := rfl
@[simp] theorem Hw.setReg_got (o : Nat) (v : W32) : (hw.setReg o v).got = hw.got := rfl
@[simp] theorem Hw.setReg_rcd (o : Nat) (v : W32) : (hw.setReg o v).rcd = hw.rcd := rfl
@[simp] theorem Hw.setReg_clk (o : Nat) (v : W32) : (hw.setReg o v).clk = hw.clk := rfl
@[simp] theorem Hw.setReg_coreEn (o : Nat) (v : W32) : (hw.setReg o v).coreEn = hw.coreEn := rfl
@[simp] theorem Hw.setReg_tcmSwap (o : Nat) (v : W32) : (hw.setReg o v).tcmSwap = hw.tcmSwap := rfl
@[simp] theorem Hw.setReg_active (o : Nat) (v : W32) : (hw.setReg o v).active = hw.active := rfl
@[simp] theorem Hw.setReg_shadow (o : Nat) (v : W32) : (hw.setReg o v).shadow = hw.shadow := rfl
@[simp] theorem Hw.setReg_bmc (o : Nat) (v : W32) : (hw.setReg o v).bmc = hw.bmc := rfl
@[simp] theorem Hw.setReg_hold (o : Nat) (v : W32) : (hw.setReg o v).hold = hw.hold := rfl
@[simp] theorem Hw.setReg_handoff (o : Nat) (v : W32) : (hw.setReg o v).handoff = hw.handoff := rfl
@[simp] theorem Hw.setReg_chkOff (o : Nat) (v : W32) : (hw.setReg o v).chkOff = hw.chkOff := rfl
@[simp] theorem Hw.setReg_chkBoth (o : Nat) (v : W32) : (hw.setReg o v).chkBoth = hw.chkBoth := rfl
@[simp] theorem Hw.setReg_chkErr (o : Nat) (v : W32) : (hw.setReg o v).chkErr = hw.chkErr := rfl
@[simp] theorem Hw.setReg_cores (o : Nat) (v : W32) : (hw.setReg o v).cores = hw.cores := rfl
@[simp] theorem Hw.setReg_cars (o : Nat) (v : W32) : (hw.setReg o v).cars = hw.cars := rfl
@[simp] theorem Hw.setReg_tes (o : Nat) (v : W32) : (hw.setReg o v).tes = hw.tes := rfl
@[simp] theorem Hw.setReg_tenDone (o : Nat) (v : W32) : (hw.setReg o v).tenDone = hw.tenDone := rfl
@[simp] theorem Hw.setReg_bg (o : Nat) (v : W32) : (hw.setReg o v).bg = hw.bg := rfl
@[simp] theorem Hw.setReg_sync (o : Nat) (v : W32) : (hw.setReg o v).sync = hw.sync := rfl
@[simp] theorem Hw.setReg_net (o : Nat) (v : W32) : (hw.setReg o v).net = hw.net := rfl
@[simp] theorem Hw.setReg_kc (o : Nat) (v : W32) : (hw.setReg o v).kc = hw.kc := rfl
@[simp] theorem Hw.setReg_fw (o : Nat) (v : W32) : (hw.setReg o v).fw = hw.fw := rfl
@[simp] theorem Hw.setReg_boot (o : Nat) (v : W32) : (hw.setReg o v).boot = hw.boot := rfl
@[simp] theorem Hw.setReg_tap (o : Nat) (v : W32) : (hw.setReg o v).tap = hw.tap := rfl
@[simp] theorem Hw.setReg_tok (o : Nat) (v : W32) : (hw.setReg o v).tok = hw.tok := rfl
@[simp] theorem Hw.setReg_out (o : Nat) (v : W32) : (hw.setReg o v).out = hw.out := rfl

/-! ### Hw.setReg64 -/

@[simp] theorem Hw.setReg64_frame (o n : Nat) : (hw.setReg64 o n).frame = hw.frame := rfl
@[simp] theorem Hw.setReg64_now (o n : Nat) : (hw.setReg64 o n).now = hw.now := rfl
@[simp] theorem Hw.setReg64_free (o n : Nat) : (hw.setReg64 o n).free = hw.free := rfl
@[simp] theorem Hw.setReg64_nid (o n : Nat) : (hw.setReg64 o n).nid = hw.nid := rfl
@[simp] theorem Hw.setReg64_rlatch (o n : Nat) : (hw.setReg64 o n).rlatch = hw.rlatch := rfl
@[simp] theorem Hw.setReg64_wlatch (o n : Nat) : (hw.setReg64 o n).wlatch = hw.wlatch := rfl
@[simp] theorem Hw.setReg64_mem (o n : Nat) : (hw.setReg64 o n).mem = hw.mem := rfl
@[simp] theorem Hw.setReg64_bad (o n : Nat) : (hw.setReg64 o n).bad = hw.bad := rfl
@[simp] theorem Hw.setReg64_soft (o n : Nat) : (hw.setReg64 o n).soft = hw.soft := rfl
@[simp] theorem Hw.setReg64_beats (o n : Nat) : (hw.setReg64 o n).beats = hw.beats := rfl
@[simp] theorem Hw.setReg64_got (o n : Nat) : (hw.setReg64 o n).got = hw.got := rfl
@[simp] theorem Hw.setReg64_rcd (o n : Nat) : (hw.setReg64 o n).rcd = hw.rcd := rfl
@[simp] theorem Hw.setReg64_clk (o n : Nat) : (hw.setReg64 o n).clk = hw.clk := rfl
@[simp] theorem Hw.setReg64_coreEn (o n : Nat) : (hw.setReg64 o n).coreEn = hw.coreEn := rfl
@[simp] theorem Hw.setReg64_tcmSwap (o n : Nat) : (hw.setReg64 o n).tcmSwap = hw.tcmSwap := rfl
@[simp] theorem Hw.setReg64_active (o n : Nat) : (hw.setReg64 o n).active = hw.active := rfl
@[simp] theorem Hw.setReg64_shadow (o n : Nat) : (hw.setReg64 o n).shadow = hw.shadow := rfl
@[simp] theorem Hw.setReg64_bmc (o n : Nat) : (hw.setReg64 o n).bmc = hw.bmc := rfl
@[simp] theorem Hw.setReg64_hold (o n : Nat) : (hw.setReg64 o n).hold = hw.hold := rfl
@[simp] theorem Hw.setReg64_handoff (o n : Nat) : (hw.setReg64 o n).handoff = hw.handoff := rfl
@[simp] theorem Hw.setReg64_chkOff (o n : Nat) : (hw.setReg64 o n).chkOff = hw.chkOff := rfl
@[simp] theorem Hw.setReg64_chkBoth (o n : Nat) : (hw.setReg64 o n).chkBoth = hw.chkBoth := rfl
@[simp] theorem Hw.setReg64_chkErr (o n : Nat) : (hw.setReg64 o n).chkErr = hw.chkErr := rfl
@[simp] theorem Hw.setReg64_cores (o n : Nat) : (hw.setReg64 o n).cores = hw.cores := rfl
@[simp] theorem Hw.setReg64_cars (o n : Nat) : (hw.setReg64 o n).cars = hw.cars := rfl
@[simp] theorem Hw.setReg64_tes (o n : Nat) : (hw.setReg64 o n).tes = hw.tes := rfl
@[simp] theorem Hw.setReg64_tenDone (o n : Nat) : (hw.setReg64 o n).tenDone = hw.tenDone := rfl
@[simp] theorem Hw.setReg64_bg (o n : Nat) : (hw.setReg64 o n).bg = hw.bg := rfl
@[simp] theorem Hw.setReg64_sync (o n : Nat) : (hw.setReg64 o n).sync = hw.sync := rfl
@[simp] theorem Hw.setReg64_net (o n : Nat) : (hw.setReg64 o n).net = hw.net := rfl
@[simp] theorem Hw.setReg64_kc (o n : Nat) : (hw.setReg64 o n).kc = hw.kc := rfl
@[simp] theorem Hw.setReg64_fw (o n : Nat) : (hw.setReg64 o n).fw = hw.fw := rfl
@[simp] theorem Hw.setReg64_boot (o n : Nat) : (hw.setReg64 o n).boot = hw.boot := rfl
@[simp] theorem Hw.setReg64_tap (o n : Nat) : (hw.setReg64 o n).tap = hw.tap := rfl
@[simp] theorem Hw.setReg64_tok (o n : Nat) : (hw.setReg64 o n).tok = hw.tok := rfl
@[simp] theorem Hw.setReg64_out (o n : Nat) : (hw.setReg64 o n).out = hw.out := rfl

/-! ### Hw.setFld -/

@[simp] theorem Hw.setFld_frame (o lo w x : Nat) : (hw.setFld o lo w x).frame = hw.frame := rfl
@[simp] theorem Hw.setFld_now (o lo w x : Nat) : (hw.setFld o lo w x).now = hw.now := rfl
@[simp] theorem Hw.setFld_free (o lo w x : Nat) : (hw.setFld o lo w x).free = hw.free := rfl
@[simp] theorem Hw.setFld_nid (o lo w x : Nat) : (hw.setFld o lo w x).nid = hw.nid := rfl
@[simp] theorem Hw.setFld_rlatch (o lo w x : Nat) : (hw.setFld o lo w x).rlatch = hw.rlatch := rfl
@[simp] theorem Hw.setFld_wlatch (o lo w x : Nat) : (hw.setFld o lo w x).wlatch = hw.wlatch := rfl
@[simp] theorem Hw.setFld_mem (o lo w x : Nat) : (hw.setFld o lo w x).mem = hw.mem := rfl
@[simp] theorem Hw.setFld_bad (o lo w x : Nat) : (hw.setFld o lo w x).bad = hw.bad := rfl
@[simp] theorem Hw.setFld_soft (o lo w x : Nat) : (hw.setFld o lo w x).soft = hw.soft := rfl
@[simp] theorem Hw.setFld_beats (o lo w x : Nat) : (hw.setFld o lo w x).beats = hw.beats := rfl
@[simp] theorem Hw.setFld_got (o lo w x : Nat) : (hw.setFld o lo w x).got = hw.got := rfl
@[simp] theorem Hw.setFld_rcd (o lo w x : Nat) : (hw.setFld o lo w x).rcd = hw.rcd := rfl
@[simp] theorem Hw.setFld_clk (o lo w x : Nat) : (hw.setFld o lo w x).clk = hw.clk := rfl
@[simp] theorem Hw.setFld_coreEn (o lo w x : Nat) : (hw.setFld o lo w x).coreEn = hw.coreEn := rfl
@[simp] theorem Hw.setFld_tcmSwap (o lo w x : Nat) : (hw.setFld o lo w x).tcmSwap = hw.tcmSwap := rfl
@[simp] theorem Hw.setFld_active (o lo w x : Nat) : (hw.setFld o lo w x).active = hw.active := rfl
@[simp] theorem Hw.setFld_shadow (o lo w x : Nat) : (hw.setFld o lo w x).shadow = hw.shadow := rfl
@[simp] theorem Hw.setFld_bmc (o lo w x : Nat) : (hw.setFld o lo w x).bmc = hw.bmc := rfl
@[simp] theorem Hw.setFld_hold (o lo w x : Nat) : (hw.setFld o lo w x).hold = hw.hold := rfl
@[simp] theorem Hw.setFld_handoff (o lo w x : Nat) : (hw.setFld o lo w x).handoff = hw.handoff := rfl
@[simp] theorem Hw.setFld_chkOff (o lo w x : Nat) : (hw.setFld o lo w x).chkOff = hw.chkOff := rfl
@[simp] theorem Hw.setFld_chkBoth (o lo w x : Nat) : (hw.setFld o lo w x).chkBoth = hw.chkBoth := rfl
@[simp] theorem Hw.setFld_chkErr (o lo w x : Nat) : (hw.setFld o lo w x).chkErr = hw.chkErr := rfl
@[simp] theorem Hw.setFld_cores (o lo w x : Nat) : (hw.setFld o lo w x).cores = hw.cores := rfl
@[simp] theorem Hw.setFld_cars (o lo w x : Nat) : (hw.setFld o lo w x).cars = hw.cars := rfl
@[simp] theorem Hw.setFld_tes (o lo w x : Nat) : (hw.setFld o lo w x).tes = hw.tes := rfl
@[simp] theorem Hw.setFld_tenDone (o lo w x : Nat) : (hw.setFld o lo w x).tenDone = hw.tenDone := rfl
@[simp] theorem Hw.setFld_bg (o lo w x : Nat) : (hw.setFld o lo w x).bg = hw.bg := rfl
@[simp] theorem Hw.setFld_sync (o lo w x : Nat) : (hw.setFld o lo w x).sync = hw.sync := rfl
@[simp] theorem Hw.setFld_net (o lo w x : Nat) : (hw.setFld o lo w x).net = hw.net := rfl
@[simp] theorem Hw.setFld_kc (o lo w x : Nat) : (hw.setFld o lo w x).kc = hw.kc := rfl
@[simp] theorem Hw.setFld_fw (o lo w x : Nat) : (hw.setFld o lo w x).fw = hw.fw := rfl
@[simp] theorem Hw.setFld_boot (o lo w x : Nat) : (hw.setFld o lo w x).boot = hw.boot := rfl
@[simp] theorem Hw.setFld_tap (o lo w x : Nat) : (hw.setFld o lo w x).tap = hw.tap := rfl
@[simp] theorem Hw.setFld_tok (o lo w x : Nat) : (hw.setFld o lo w x).tok = hw.tok := rfl
@[simp] theorem Hw.setFld_out (o lo w x : Nat) : (hw.setFld o lo w x).out = hw.out := rfl

/-! ### Hw.orReg -/

@[simp] theorem Hw.orReg_frame (o m : Nat) : (hw.orReg o m).frame = hw.frame := rfl
@[simp] theorem Hw.orReg_now (o m : Nat) : (hw.orReg o m).now = hw.now := rfl
@[simp] theorem Hw.orReg_free (o m : Nat) : (hw.orReg o m).free = hw.free := rfl
@[simp] theorem Hw.orReg_nid (o m : Nat) : (hw.orReg o m).nid = hw.nid := rfl
@[simp] theorem Hw.orReg_rlatch (o m : Nat) : (hw.orReg o m).rlatch = hw.rlatch := rfl
@[simp] theorem Hw.orReg_wlatch (o m : Nat) : (hw.orReg o m).wlatch = hw.wlatch := rfl
@[simp] theorem Hw.orReg_mem (o m : Nat) : (hw.orReg o m).mem = hw.mem := rfl
@[simp] theorem Hw.orReg_bad (o m : Nat) : (hw.orReg o m).bad = hw.bad := rfl
@[simp] theorem Hw.orReg_soft (o m : Nat) : (hw.orReg o m).soft = hw.soft := rfl
@[simp] theorem Hw.orReg_beats (o m : Nat) : (hw.orReg o m).beats = hw.beats := rfl
@[simp] theorem Hw.orReg_got (o m : Nat) : (hw.orReg o m).got = hw.got := rfl
@[simp] theorem Hw.orReg_rcd (o m : Nat) : (hw.orReg o m).rcd = hw.rcd := rfl
@[simp] theorem Hw.orReg_clk (o m : Nat) : (hw.orReg o m).clk = hw.clk := rfl
@[simp] theorem Hw.orReg_coreEn (o m : Nat) : (hw.orReg o m).coreEn = hw.coreEn := rfl
@[simp] theorem Hw.orReg_tcmSwap (o m : Nat) : (hw.orReg o m).tcmSwap = hw.tcmSwap := rfl
@[simp] theorem Hw.orReg_active (o m : Nat) : (hw.orReg o m).active = hw.active := rfl
@[simp] theorem Hw.orReg_shadow (o m : Nat) : (hw.orReg o m).shadow = hw.shadow := rfl
@[simp] theorem Hw.orReg_bmc (o m : Nat) : (hw.orReg o m).bmc = hw.bmc := rfl
@[simp] theorem Hw.orReg_hold (o m : Nat) : (hw.orReg o m).hold = hw.hold := rfl
@[simp] theorem Hw.orReg_handoff (o m : Nat) : (hw.orReg o m).handoff = hw.handoff := rfl
@[simp] theorem Hw.orReg_chkOff (o m : Nat) : (hw.orReg o m).chkOff = hw.chkOff := rfl
@[simp] theorem Hw.orReg_chkBoth (o m : Nat) : (hw.orReg o m).chkBoth = hw.chkBoth := rfl
@[simp] theorem Hw.orReg_chkErr (o m : Nat) : (hw.orReg o m).chkErr = hw.chkErr := rfl
@[simp] theorem Hw.orReg_cores (o m : Nat) : (hw.orReg o m).cores = hw.cores := rfl
@[simp] theorem Hw.orReg_cars (o m : Nat) : (hw.orReg o m).cars = hw.cars := rfl
@[simp] theorem Hw.orReg_tes (o m : Nat) : (hw.orReg o m).tes = hw.tes := rfl
@[simp] theorem Hw.orReg_tenDone (o m : Nat) : (hw.orReg o m).tenDone = hw.tenDone := rfl
@[simp] theorem Hw.orReg_bg (o m : Nat) : (hw.orReg o m).bg = hw.bg := rfl
@[simp] theorem Hw.orReg_sync (o m : Nat) : (hw.orReg o m).sync = hw.sync := rfl
@[simp] theorem Hw.orReg_net (o m : Nat) : (hw.orReg o m).net = hw.net := rfl
@[simp] theorem Hw.orReg_kc (o m : Nat) : (hw.orReg o m).kc = hw.kc := rfl
@[simp] theorem Hw.orReg_fw (o m : Nat) : (hw.orReg o m).fw = hw.fw := rfl
@[simp] theorem Hw.orReg_boot (o m : Nat) : (hw.orReg o m).boot = hw.boot := rfl
@[simp] theorem Hw.orReg_tap (o m : Nat) : (hw.orReg o m).tap = hw.tap := rfl
@[simp] theorem Hw.orReg_tok (o m : Nat) : (hw.orReg o m).tok = hw.tok := rfl
@[simp] theorem Hw.orReg_out (o m : Nat) : (hw.orReg o m).out = hw.out := rfl

/-! ### Hw.clrReg -/

@[simp] theorem Hw.clrReg_frame (o m : Nat) : (hw.clrReg o m).frame = hw.frame := rfl
@[simp] theorem Hw.clrReg_now (o m : Nat) : (hw.clrReg o m).now = hw.now := rfl
@[simp] theorem Hw.clrReg_free (o m : Nat) : (hw.clrReg o m).free = hw.free := rfl
@[simp] theorem Hw.clrReg_nid (o m : Nat) : (hw.clrReg o m).nid = hw.nid := rfl
@[simp] theorem Hw.clrReg_rlatch (o m : Nat) : (hw.clrReg o m).rlatch = hw.rlatch := rfl
@[simp] theorem Hw.clrReg_wlatch (o m : Nat) : (hw.clrReg o m).wlatch = hw.wlatch := rfl
@[simp] theorem Hw.clrReg_mem (o m : Nat) : (hw.clrReg o m).mem = hw.mem := rfl
@[simp] theorem Hw.clrReg_bad (o m : Nat) : (hw.clrReg o m).bad = hw.bad := rfl
@[simp] theorem Hw.clrReg_soft (o m : Nat) : (hw.clrReg o m).soft = hw.soft := rfl
@[simp] theorem Hw.clrReg_beats (o m : Nat) : (hw.clrReg o m).beats = hw.beats := rfl
@[simp] theorem Hw.clrReg_got (o m : Nat) : (hw.clrReg o m).got = hw.got := rfl
@[simp] theorem Hw.clrReg_rcd (o m : Nat) : (hw.clrReg o m).rcd = hw.rcd := rfl
@[simp] theorem Hw.clrReg_clk (o m : Nat) : (hw.clrReg o m).clk = hw.clk := rfl
@[simp] theorem Hw.clrReg_coreEn (o m : Nat) : (hw.clrReg o m).coreEn = hw.coreEn := rfl
@[simp] theorem Hw.clrReg_tcmSwap (o m : Nat) : (hw.clrReg o m).tcmSwap = hw.tcmSwap := rfl
@[simp] theorem Hw.clrReg_active (o m : Nat) : (hw.clrReg o m).active = hw.active := rfl
@[simp] theorem Hw.clrReg_shadow (o m : Nat) : (hw.clrReg o m).shadow = hw.shadow := rfl
@[simp] theorem Hw.clrReg_bmc (o m : Nat) : (hw.clrReg o m).bmc = hw.bmc := rfl
@[simp] theorem Hw.clrReg_hold (o m : Nat) : (hw.clrReg o m).hold = hw.hold := rfl
@[simp] theorem Hw.clrReg_handoff (o m : Nat) : (hw.clrReg o m).handoff = hw.handoff := rfl
@[simp] theorem Hw.clrReg_chkOff (o m : Nat) : (hw.clrReg o m).chkOff = hw.chkOff := rfl
@[simp] theorem Hw.clrReg_chkBoth (o m : Nat) : (hw.clrReg o m).chkBoth = hw.chkBoth := rfl
@[simp] theorem Hw.clrReg_chkErr (o m : Nat) : (hw.clrReg o m).chkErr = hw.chkErr := rfl
@[simp] theorem Hw.clrReg_cores (o m : Nat) : (hw.clrReg o m).cores = hw.cores := rfl
@[simp] theorem Hw.clrReg_cars (o m : Nat) : (hw.clrReg o m).cars = hw.cars := rfl
@[simp] theorem Hw.clrReg_tes (o m : Nat) : (hw.clrReg o m).tes = hw.tes := rfl
@[simp] theorem Hw.clrReg_tenDone (o m : Nat) : (hw.clrReg o m).tenDone = hw.tenDone := rfl
@[simp] theorem Hw.clrReg_bg (o m : Nat) : (hw.clrReg o m).bg = hw.bg := rfl
@[simp] theorem Hw.clrReg_sync (o m : Nat) : (hw.clrReg o m).sync = hw.sync := rfl
@[simp] theorem Hw.clrReg_net (o m : Nat) : (hw.clrReg o m).net = hw.net := rfl
@[simp] theorem Hw.clrReg_kc (o m : Nat) : (hw.clrReg o m).kc = hw.kc := rfl
@[simp] theorem Hw.clrReg_fw (o m : Nat) : (hw.clrReg o m).fw = hw.fw := rfl
@[simp] theorem Hw.clrReg_boot (o m : Nat) : (hw.clrReg o m).boot = hw.boot := rfl
@[simp] theorem Hw.clrReg_tap (o m : Nat) : (hw.clrReg o m).tap = hw.tap := rfl
@[simp] theorem Hw.clrReg_tok (o m : Nat) : (hw.clrReg o m).tok = hw.tok := rfl
@[simp] theorem Hw.clrReg_out (o m : Nat) : (hw.clrReg o m).out = hw.out := rfl

/-! ### Hw.bump -/

@[simp] theorem Hw.bump_frame (o lo w : Nat) : (hw.bump o lo w).frame = hw.frame := rfl
@[simp] theorem Hw.bump_now (o lo w : Nat) : (hw.bump o lo w).now = hw.now := rfl
@[simp] theorem Hw.bump_free (o lo w : Nat) : (hw.bump o lo w).free = hw.free := rfl
@[simp] theorem Hw.bump_nid (o lo w : Nat) : (hw.bump o lo w).nid = hw.nid := rfl
@[simp] theorem Hw.bump_rlatch (o lo w : Nat) : (hw.bump o lo w).rlatch = hw.rlatch := rfl
@[simp] theorem Hw.bump_wlatch (o lo w : Nat) : (hw.bump o lo w).wlatch = hw.wlatch := rfl
@[simp] theorem Hw.bump_mem (o lo w : Nat) : (hw.bump o lo w).mem = hw.mem := rfl
@[simp] theorem Hw.bump_bad (o lo w : Nat) : (hw.bump o lo w).bad = hw.bad := rfl
@[simp] theorem Hw.bump_soft (o lo w : Nat) : (hw.bump o lo w).soft = hw.soft := rfl
@[simp] theorem Hw.bump_beats (o lo w : Nat) : (hw.bump o lo w).beats = hw.beats := rfl
@[simp] theorem Hw.bump_got (o lo w : Nat) : (hw.bump o lo w).got = hw.got := rfl
@[simp] theorem Hw.bump_rcd (o lo w : Nat) : (hw.bump o lo w).rcd = hw.rcd := rfl
@[simp] theorem Hw.bump_clk (o lo w : Nat) : (hw.bump o lo w).clk = hw.clk := rfl
@[simp] theorem Hw.bump_coreEn (o lo w : Nat) : (hw.bump o lo w).coreEn = hw.coreEn := rfl
@[simp] theorem Hw.bump_tcmSwap (o lo w : Nat) : (hw.bump o lo w).tcmSwap = hw.tcmSwap := rfl
@[simp] theorem Hw.bump_active (o lo w : Nat) : (hw.bump o lo w).active = hw.active := rfl
@[simp] theorem Hw.bump_shadow (o lo w : Nat) : (hw.bump o lo w).shadow = hw.shadow := rfl
@[simp] theorem Hw.bump_bmc (o lo w : Nat) : (hw.bump o lo w).bmc = hw.bmc := rfl
@[simp] theorem Hw.bump_hold (o lo w : Nat) : (hw.bump o lo w).hold = hw.hold := rfl
@[simp] theorem Hw.bump_handoff (o lo w : Nat) : (hw.bump o lo w).handoff = hw.handoff := rfl
@[simp] theorem Hw.bump_chkOff (o lo w : Nat) : (hw.bump o lo w).chkOff = hw.chkOff := rfl
@[simp] theorem Hw.bump_chkBoth (o lo w : Nat) : (hw.bump o lo w).chkBoth = hw.chkBoth := rfl
@[simp] theorem Hw.bump_chkErr (o lo w : Nat) : (hw.bump o lo w).chkErr = hw.chkErr := rfl
@[simp] theorem Hw.bump_cores (o lo w : Nat) : (hw.bump o lo w).cores = hw.cores := rfl
@[simp] theorem Hw.bump_cars (o lo w : Nat) : (hw.bump o lo w).cars = hw.cars := rfl
@[simp] theorem Hw.bump_tes (o lo w : Nat) : (hw.bump o lo w).tes = hw.tes := rfl
@[simp] theorem Hw.bump_tenDone (o lo w : Nat) : (hw.bump o lo w).tenDone = hw.tenDone := rfl
@[simp] theorem Hw.bump_bg (o lo w : Nat) : (hw.bump o lo w).bg = hw.bg := rfl
@[simp] theorem Hw.bump_sync (o lo w : Nat) : (hw.bump o lo w).sync = hw.sync := rfl
@[simp] theorem Hw.bump_net (o lo w : Nat) : (hw.bump o lo w).net = hw.net := rfl
@[simp] theorem Hw.bump_kc (o lo w : Nat) : (hw.bump o lo w).kc = hw.kc := rfl
@[simp] theorem Hw.bump_fw (o lo w : Nat) : (hw.bump o lo w).fw = hw.fw := rfl
@[simp] theorem Hw.bump_boot (o lo w : Nat) : (hw.bump o lo w).boot = hw.boot := rfl
@[simp] theorem Hw.bump_tap (o lo w : Nat) : (hw.bump o lo w).tap = hw.tap := rfl
@[simp] theorem Hw.bump_tok (o lo w : Nat) : (hw.bump o lo w).tok = hw.tok := rfl
@[simp] theorem Hw.bump_out (o lo w : Nat) : (hw.bump o lo w).out = hw.out := rfl

/-! ### Hw.setCore -/

@[simp] theorem Hw.setCore_frame (n : Fin 8) (c : Core) : (hw.setCore n c).frame = hw.frame := rfl
@[simp] theorem Hw.setCore_now (n : Fin 8) (c : Core) : (hw.setCore n c).now = hw.now := rfl
@[simp] theorem Hw.setCore_free (n : Fin 8) (c : Core) : (hw.setCore n c).free = hw.free := rfl
@[simp] theorem Hw.setCore_nid (n : Fin 8) (c : Core) : (hw.setCore n c).nid = hw.nid := rfl
@[simp] theorem Hw.setCore_regs (n : Fin 8) (c : Core) : (hw.setCore n c).regs = hw.regs := rfl
@[simp] theorem Hw.setCore_rlatch (n : Fin 8) (c : Core) : (hw.setCore n c).rlatch = hw.rlatch := rfl
@[simp] theorem Hw.setCore_wlatch (n : Fin 8) (c : Core) : (hw.setCore n c).wlatch = hw.wlatch := rfl
@[simp] theorem Hw.setCore_mem (n : Fin 8) (c : Core) : (hw.setCore n c).mem = hw.mem := rfl
@[simp] theorem Hw.setCore_bad (n : Fin 8) (c : Core) : (hw.setCore n c).bad = hw.bad := rfl
@[simp] theorem Hw.setCore_soft (n : Fin 8) (c : Core) : (hw.setCore n c).soft = hw.soft := rfl
@[simp] theorem Hw.setCore_beats (n : Fin 8) (c : Core) : (hw.setCore n c).beats = hw.beats := rfl
@[simp] theorem Hw.setCore_got (n : Fin 8) (c : Core) : (hw.setCore n c).got = hw.got := rfl
@[simp] theorem Hw.setCore_rcd (n : Fin 8) (c : Core) : (hw.setCore n c).rcd = hw.rcd := rfl
@[simp] theorem Hw.setCore_clk (n : Fin 8) (c : Core) : (hw.setCore n c).clk = hw.clk := rfl
@[simp] theorem Hw.setCore_coreEn (n : Fin 8) (c : Core) : (hw.setCore n c).coreEn = hw.coreEn := rfl
@[simp] theorem Hw.setCore_tcmSwap (n : Fin 8) (c : Core) : (hw.setCore n c).tcmSwap = hw.tcmSwap := rfl
@[simp] theorem Hw.setCore_active (n : Fin 8) (c : Core) : (hw.setCore n c).active = hw.active := rfl
@[simp] theorem Hw.setCore_shadow (n : Fin 8) (c : Core) : (hw.setCore n c).shadow = hw.shadow := rfl
@[simp] theorem Hw.setCore_bmc (n : Fin 8) (c : Core) : (hw.setCore n c).bmc = hw.bmc := rfl
@[simp] theorem Hw.setCore_hold (n : Fin 8) (c : Core) : (hw.setCore n c).hold = hw.hold := rfl
@[simp] theorem Hw.setCore_handoff (n : Fin 8) (c : Core) : (hw.setCore n c).handoff = hw.handoff := rfl
@[simp] theorem Hw.setCore_chkOff (n : Fin 8) (c : Core) : (hw.setCore n c).chkOff = hw.chkOff := rfl
@[simp] theorem Hw.setCore_chkBoth (n : Fin 8) (c : Core) : (hw.setCore n c).chkBoth = hw.chkBoth := rfl
@[simp] theorem Hw.setCore_chkErr (n : Fin 8) (c : Core) : (hw.setCore n c).chkErr = hw.chkErr := rfl
@[simp] theorem Hw.setCore_cars (n : Fin 8) (c : Core) : (hw.setCore n c).cars = hw.cars := rfl
@[simp] theorem Hw.setCore_tes (n : Fin 8) (c : Core) : (hw.setCore n c).tes = hw.tes := rfl
@[simp] theorem Hw.setCore_tenDone (n : Fin 8) (c : Core) : (hw.setCore n c).tenDone = hw.tenDone := rfl
@[simp] theorem Hw.setCore_bg (n : Fin 8) (c : Core) : (hw.setCore n c).bg = hw.bg := rfl
@[simp] theorem Hw.setCore_sync (n : Fin 8) (c : Core) : (hw.setCore n c).sync = hw.sync := rfl
@[simp] theorem Hw.setCore_net (n : Fin 8) (c : Core) : (hw.setCore n c).net = hw.net := rfl
@[simp] theorem Hw.setCore_kc (n : Fin 8) (c : Core) : (hw.setCore n c).kc = hw.kc := rfl
@[simp] theorem Hw.setCore_fw (n : Fin 8) (c : Core) : (hw.setCore n c).fw = hw.fw := rfl
@[simp] theorem Hw.setCore_boot (n : Fin 8) (c : Core) : (hw.setCore n c).boot = hw.boot := rfl
@[simp] theorem Hw.setCore_tap (n : Fin 8) (c : Core) : (hw.setCore n c).tap = hw.tap := rfl
@[simp] theorem Hw.setCore_tok (n : Fin 8) (c : Core) : (hw.setCore n c).tok = hw.tok := rfl
@[simp] theorem Hw.setCore_out (n : Fin 8) (c : Core) : (hw.setCore n c).out = hw.out := rfl

/-! ### Hw.modCore -/

@[simp] theorem Hw.modCore_frame (n : Fin 8) (f : Core → Core) : (hw.modCore n f).frame = hw.frame := rfl
@[simp] theorem Hw.modCore_now (n : Fin 8) (f : Core → Core) : (hw.modCore n f).now = hw.now := rfl
@[simp] theorem Hw.modCore_free (n : Fin 8) (f : Core → Core) : (hw.modCore n f).free = hw.free := rfl
@[simp] theorem Hw.modCore_nid (n : Fin 8) (f : Core → Core) : (hw.modCore n f).nid = hw.nid := rfl
@[simp] theorem Hw.modCore_regs (n : Fin 8) (f : Core → Core) : (hw.modCore n f).regs = hw.regs := rfl
@[simp] theorem Hw.modCore_rlatch (n : Fin 8) (f : Core → Core) : (hw.modCore n f).rlatch = hw.rlatch := rfl
@[simp] theorem Hw.modCore_wlatch (n : Fin 8) (f : Core → Core) : (hw.modCore n f).wlatch = hw.wlatch := rfl
@[simp] theorem Hw.modCore_mem (n : Fin 8) (f : Core → Core) : (hw.modCore n f).mem = hw.mem := rfl
@[simp] theorem Hw.modCore_bad (n : Fin 8) (f : Core → Core) : (hw.modCore n f).bad = hw.bad := rfl
@[simp] theorem Hw.modCore_soft (n : Fin 8) (f : Core → Core) : (hw.modCore n f).soft = hw.soft := rfl
@[simp] theorem Hw.modCore_beats (n : Fin 8) (f : Core → Core) : (hw.modCore n f).beats = hw.beats := rfl
@[simp] theorem Hw.modCore_got (n : Fin 8) (f : Core → Core) : (hw.modCore n f).got = hw.got := rfl
@[simp] theorem Hw.modCore_rcd (n : Fin 8) (f : Core → Core) : (hw.modCore n f).rcd = hw.rcd := rfl
@[simp] theorem Hw.modCore_clk (n : Fin 8) (f : Core → Core) : (hw.modCore n f).clk = hw.clk := rfl
@[simp] theorem Hw.modCore_coreEn (n : Fin 8) (f : Core → Core) : (hw.modCore n f).coreEn = hw.coreEn := rfl
@[simp] theorem Hw.modCore_tcmSwap (n : Fin 8) (f : Core → Core) : (hw.modCore n f).tcmSwap = hw.tcmSwap := rfl
@[simp] theorem Hw.modCore_active (n : Fin 8) (f : Core → Core) : (hw.modCore n f).active = hw.active := rfl
@[simp] theorem Hw.modCore_shadow (n : Fin 8) (f : Core → Core) : (hw.modCore n f).shadow = hw.shadow := rfl
@[simp] theorem Hw.modCore_bmc (n : Fin 8) (f : Core → Core) : (hw.modCore n f).bmc = hw.bmc := rfl
@[simp] theorem Hw.modCore_hold (n : Fin 8) (f : Core → Core) : (hw.modCore n f).hold = hw.hold := rfl
@[simp] theorem Hw.modCore_handoff (n : Fin 8) (f : Core → Core) : (hw.modCore n f).handoff = hw.handoff := rfl
@[simp] theorem Hw.modCore_chkOff (n : Fin 8) (f : Core → Core) : (hw.modCore n f).chkOff = hw.chkOff := rfl
@[simp] theorem Hw.modCore_chkBoth (n : Fin 8) (f : Core → Core) : (hw.modCore n f).chkBoth = hw.chkBoth := rfl
@[simp] theorem Hw.modCore_chkErr (n : Fin 8) (f : Core → Core) : (hw.modCore n f).chkErr = hw.chkErr := rfl
@[simp] theorem Hw.modCore_cars (n : Fin 8) (f : Core → Core) : (hw.modCore n f).cars = hw.cars := rfl
@[simp] theorem Hw.modCore_tes (n : Fin 8) (f : Core → Core) : (hw.modCore n f).tes = hw.tes := rfl
@[simp] theorem Hw.modCore_tenDone (n : Fin 8) (f : Core → Core) : (hw.modCore n f).tenDone = hw.tenDone := rfl
@[simp] theorem Hw.modCore_bg (n : Fin 8) (f : Core → Core) : (hw.modCore n f).bg = hw.bg := rfl
@[simp] theorem Hw.modCore_sync (n : Fin 8) (f : Core → Core) : (hw.modCore n f).sync = hw.sync := rfl
@[simp] theorem Hw.modCore_net (n : Fin 8) (f : Core → Core) : (hw.modCore n f).net = hw.net := rfl
@[simp] theorem Hw.modCore_kc (n : Fin 8) (f : Core → Core) : (hw.modCore n f).kc = hw.kc := rfl
@[simp] theorem Hw.modCore_fw (n : Fin 8) (f : Core → Core) : (hw.modCore n f).fw = hw.fw := rfl
@[simp] theorem Hw.modCore_boot (n : Fin 8) (f : Core → Core) : (hw.modCore n f).boot = hw.boot := rfl
@[simp] theorem Hw.modCore_tap (n : Fin 8) (f : Core → Core) : (hw.modCore n f).tap = hw.tap := rfl
@[simp] theorem Hw.modCore_tok (n : Fin 8) (f : Core → Core) : (hw.modCore n f).tok = hw.tok := rfl
@[simp] theorem Hw.modCore_out (n : Fin 8) (f : Core → Core) : (hw.modCore n f).out = hw.out := rfl

/-! ### Hw.modCar -/

@[simp] theorem Hw.modCar_frame (c : Nat) (f : Car → Car) : (hw.modCar c f).frame = hw.frame := rfl
@[simp] theorem Hw.modCar_now (c : Nat) (f : Car → Car) : (hw.modCar c f).now = hw.now := rfl
@[simp] theorem Hw.modCar_free (c : Nat) (f : Car → Car) : (hw.modCar c f).free = hw.free := rfl
@[simp] theorem Hw.modCar_nid (c : Nat) (f : Car → Car) : (hw.modCar c f).nid = hw.nid := rfl
@[simp] theorem Hw.modCar_regs (c : Nat) (f : Car → Car) : (hw.modCar c f).regs = hw.regs := rfl
@[simp] theorem Hw.modCar_rlatch (c : Nat) (f : Car → Car) : (hw.modCar c f).rlatch = hw.rlatch := rfl
@[simp] theorem Hw.modCar_wlatch (c : Nat) (f : Car → Car) : (hw.modCar c f).wlatch = hw.wlatch := rfl
@[simp] theorem Hw.modCar_mem (c : Nat) (f : Car → Car) : (hw.modCar c f).mem = hw.mem := rfl
@[simp] theorem Hw.modCar_bad (c : Nat) (f : Car → Car) : (hw.modCar c f).bad = hw.bad := rfl
@[simp] theorem Hw.modCar_soft (c : Nat) (f : Car → Car) : (hw.modCar c f).soft = hw.soft := rfl
@[simp] theorem Hw.modCar_beats (c : Nat) (f : Car → Car) : (hw.modCar c f).beats = hw.beats := rfl
@[simp] theorem Hw.modCar_got (c : Nat) (f : Car → Car) : (hw.modCar c f).got = hw.got := rfl
@[simp] theorem Hw.modCar_rcd (c : Nat) (f : Car → Car) : (hw.modCar c f).rcd = hw.rcd := rfl
@[simp] theorem Hw.modCar_clk (c : Nat) (f : Car → Car) : (hw.modCar c f).clk = hw.clk := rfl
@[simp] theorem Hw.modCar_coreEn (c : Nat) (f : Car → Car) : (hw.modCar c f).coreEn = hw.coreEn := rfl
@[simp] theorem Hw.modCar_tcmSwap (c : Nat) (f : Car → Car) : (hw.modCar c f).tcmSwap = hw.tcmSwap := rfl
@[simp] theorem Hw.modCar_active (c : Nat) (f : Car → Car) : (hw.modCar c f).active = hw.active := rfl
@[simp] theorem Hw.modCar_shadow (c : Nat) (f : Car → Car) : (hw.modCar c f).shadow = hw.shadow := rfl
@[simp] theorem Hw.modCar_bmc (c : Nat) (f : Car → Car) : (hw.modCar c f).bmc = hw.bmc := rfl
@[simp] theorem Hw.modCar_hold (c : Nat) (f : Car → Car) : (hw.modCar c f).hold = hw.hold := rfl
@[simp] theorem Hw.modCar_handoff (c : Nat) (f : Car → Car) : (hw.modCar c f).handoff = hw.handoff := rfl
@[simp] theorem Hw.modCar_chkOff (c : Nat) (f : Car → Car) : (hw.modCar c f).chkOff = hw.chkOff := rfl
@[simp] theorem Hw.modCar_chkBoth (c : Nat) (f : Car → Car) : (hw.modCar c f).chkBoth = hw.chkBoth := rfl
@[simp] theorem Hw.modCar_chkErr (c : Nat) (f : Car → Car) : (hw.modCar c f).chkErr = hw.chkErr := rfl
@[simp] theorem Hw.modCar_cores (c : Nat) (f : Car → Car) : (hw.modCar c f).cores = hw.cores := rfl
@[simp] theorem Hw.modCar_tes (c : Nat) (f : Car → Car) : (hw.modCar c f).tes = hw.tes := rfl
@[simp] theorem Hw.modCar_tenDone (c : Nat) (f : Car → Car) : (hw.modCar c f).tenDone = hw.tenDone := rfl
@[simp] theorem Hw.modCar_bg (c : Nat) (f : Car → Car) : (hw.modCar c f).bg = hw.bg := rfl
@[simp] theorem Hw.modCar_sync (c : Nat) (f : Car → Car) : (hw.modCar c f).sync = hw.sync := rfl
@[simp] theorem Hw.modCar_net (c : Nat) (f : Car → Car) : (hw.modCar c f).net = hw.net := rfl
@[simp] theorem Hw.modCar_kc (c : Nat) (f : Car → Car) : (hw.modCar c f).kc = hw.kc := rfl
@[simp] theorem Hw.modCar_fw (c : Nat) (f : Car → Car) : (hw.modCar c f).fw = hw.fw := rfl
@[simp] theorem Hw.modCar_boot (c : Nat) (f : Car → Car) : (hw.modCar c f).boot = hw.boot := rfl
@[simp] theorem Hw.modCar_tap (c : Nat) (f : Car → Car) : (hw.modCar c f).tap = hw.tap := rfl
@[simp] theorem Hw.modCar_tok (c : Nat) (f : Car → Car) : (hw.modCar c f).tok = hw.tok := rfl
@[simp] theorem Hw.modCar_out (c : Nat) (f : Car → Car) : (hw.modCar c f).out = hw.out := rfl

/-! ### Hw.modTe -/

@[simp] theorem Hw.modTe_frame (k : Nat) (f : TeCh → TeCh) : (hw.modTe k f).frame = hw.frame := rfl
@[simp] theorem Hw.modTe_now (k : Nat) (f : TeCh → TeCh) : (hw.modTe k f).now = hw.now := rfl
@[simp] theorem Hw.modTe_free (k : Nat) (f : TeCh → TeCh) : (hw.modTe k f).free = hw.free := rfl
@[simp] theorem Hw.modTe_nid (k : Nat) (f : TeCh → TeCh) : (hw.modTe k f).nid = hw.nid := rfl
@[simp] theorem Hw.modTe_regs (k : Nat) (f : TeCh → TeCh) : (hw.modTe k f).regs = hw.regs := rfl
@[simp] theorem Hw.modTe_rlatch (k : Nat) (f : TeCh → TeCh) : (hw.modTe k f).rlatch = hw.rlatch := rfl
@[simp] theorem Hw.modTe_wlatch (k : Nat) (f : TeCh → TeCh) : (hw.modTe k f).wlatch = hw.wlatch := rfl
@[simp] theorem Hw.modTe_mem (k : Nat) (f : TeCh → TeCh) : (hw.modTe k f).mem = hw.mem := rfl
@[simp] theorem Hw.modTe_bad (k : Nat) (f : TeCh → TeCh) : (hw.modTe k f).bad = hw.bad := rfl
@[simp] theorem Hw.modTe_soft (k : Nat) (f : TeCh → TeCh) : (hw.modTe k f).soft = hw.soft := rfl
@[simp] theorem Hw.modTe_beats (k : Nat) (f : TeCh → TeCh) : (hw.modTe k f).beats = hw.beats := rfl
@[simp] theorem Hw.modTe_got (k : Nat) (f : TeCh → TeCh) : (hw.modTe k f).got = hw.got := rfl
@[simp] theorem Hw.modTe_rcd (k : Nat) (f : TeCh → TeCh) : (hw.modTe k f).rcd = hw.rcd := rfl
@[simp] theorem Hw.modTe_clk (k : Nat) (f : TeCh → TeCh) : (hw.modTe k f).clk = hw.clk := rfl
@[simp] theorem Hw.modTe_coreEn (k : Nat) (f : TeCh → TeCh) : (hw.modTe k f).coreEn = hw.coreEn := rfl
@[simp] theorem Hw.modTe_tcmSwap (k : Nat) (f : TeCh → TeCh) : (hw.modTe k f).tcmSwap = hw.tcmSwap := rfl
@[simp] theorem Hw.modTe_active (k : Nat) (f : TeCh → TeCh) : (hw.modTe k f).active = hw.active := rfl
@[simp] theorem Hw.modTe_shadow (k : Nat) (f : TeCh → TeCh) : (hw.modTe k f).shadow = hw.shadow := rfl
@[simp] theorem Hw.modTe_bmc (k : Nat) (f : TeCh → TeCh) : (hw.modTe k f).bmc = hw.bmc := rfl
@[simp] theorem Hw.modTe_hold (k : Nat) (f : TeCh → TeCh) : (hw.modTe k f).hold = hw.hold := rfl
@[simp] theorem Hw.modTe_handoff (k : Nat) (f : TeCh → TeCh) : (hw.modTe k f).handoff = hw.handoff := rfl
@[simp] theorem Hw.modTe_chkOff (k : Nat) (f : TeCh → TeCh) : (hw.modTe k f).chkOff = hw.chkOff := rfl
@[simp] theorem Hw.modTe_chkBoth (k : Nat) (f : TeCh → TeCh) : (hw.modTe k f).chkBoth = hw.chkBoth := rfl
@[simp] theorem Hw.modTe_chkErr (k : Nat) (f : TeCh → TeCh) : (hw.modTe k f).chkErr = hw.chkErr := rfl
@[simp] theorem Hw.modTe_cores (k : Nat) (f : TeCh → TeCh) : (hw.modTe k f).cores = hw.cores := rfl
@[simp] theorem Hw.modTe_cars (k : Nat) (f : TeCh → TeCh) : (hw.modTe k f).cars = hw.cars := rfl
@[simp] theorem Hw.modTe_tenDone (k : Nat) (f : TeCh → TeCh) : (hw.modTe k f).tenDone = hw.tenDone := rfl
@[simp] theorem Hw.modTe_bg (k : Nat) (f : TeCh → TeCh) : (hw.modTe k f).bg = hw.bg := rfl
@[simp] theorem Hw.modTe_sync (k : Nat) (f : TeCh → TeCh) : (hw.modTe k f).sync = hw.sync := rfl
@[simp] theorem Hw.modTe_net (k : Nat) (f : TeCh → TeCh) : (hw.modTe k f).net = hw.net := rfl
@[simp] theorem Hw.modTe_kc (k : Nat) (f : TeCh → TeCh) : (hw.modTe k f).kc = hw.kc := rfl
@[simp] theorem Hw.modTe_fw (k : Nat) (f : TeCh → TeCh) : (hw.modTe k f).fw = hw.fw := rfl
@[simp] theorem Hw.modTe_boot (k : Nat) (f : TeCh → TeCh) : (hw.modTe k f).boot = hw.boot := rfl
@[simp] theorem Hw.modTe_tap (k : Nat) (f : TeCh → TeCh) : (hw.modTe k f).tap = hw.tap := rfl
@[simp] theorem Hw.modTe_tok (k : Nat) (f : TeCh → TeCh) : (hw.modTe k f).tok = hw.tok := rfl
@[simp] theorem Hw.modTe_out (k : Nat) (f : TeCh → TeCh) : (hw.modTe k f).out = hw.out := rfl

/-! ### Hw.modSync -/

@[simp] theorem Hw.modSync_frame (f : Sync → Sync) : (hw.modSync f).frame = hw.frame := rfl
@[simp] theorem Hw.modSync_now (f : Sync → Sync) : (hw.modSync f).now = hw.now := rfl
@[simp] theorem Hw.modSync_free (f : Sync → Sync) : (hw.modSync f).free = hw.free := rfl
@[simp] theorem Hw.modSync_nid (f : Sync → Sync) : (hw.modSync f).nid = hw.nid := rfl
@[simp] theorem Hw.modSync_regs (f : Sync → Sync) : (hw.modSync f).regs = hw.regs := rfl
@[simp] theorem Hw.modSync_rlatch (f : Sync → Sync) : (hw.modSync f).rlatch = hw.rlatch := rfl
@[simp] theorem Hw.modSync_wlatch (f : Sync → Sync) : (hw.modSync f).wlatch = hw.wlatch := rfl
@[simp] theorem Hw.modSync_mem (f : Sync → Sync) : (hw.modSync f).mem = hw.mem := rfl
@[simp] theorem Hw.modSync_bad (f : Sync → Sync) : (hw.modSync f).bad = hw.bad := rfl
@[simp] theorem Hw.modSync_soft (f : Sync → Sync) : (hw.modSync f).soft = hw.soft := rfl
@[simp] theorem Hw.modSync_beats (f : Sync → Sync) : (hw.modSync f).beats = hw.beats := rfl
@[simp] theorem Hw.modSync_got (f : Sync → Sync) : (hw.modSync f).got = hw.got := rfl
@[simp] theorem Hw.modSync_rcd (f : Sync → Sync) : (hw.modSync f).rcd = hw.rcd := rfl
@[simp] theorem Hw.modSync_clk (f : Sync → Sync) : (hw.modSync f).clk = hw.clk := rfl
@[simp] theorem Hw.modSync_coreEn (f : Sync → Sync) : (hw.modSync f).coreEn = hw.coreEn := rfl
@[simp] theorem Hw.modSync_tcmSwap (f : Sync → Sync) : (hw.modSync f).tcmSwap = hw.tcmSwap := rfl
@[simp] theorem Hw.modSync_active (f : Sync → Sync) : (hw.modSync f).active = hw.active := rfl
@[simp] theorem Hw.modSync_shadow (f : Sync → Sync) : (hw.modSync f).shadow = hw.shadow := rfl
@[simp] theorem Hw.modSync_bmc (f : Sync → Sync) : (hw.modSync f).bmc = hw.bmc := rfl
@[simp] theorem Hw.modSync_hold (f : Sync → Sync) : (hw.modSync f).hold = hw.hold := rfl
@[simp] theorem Hw.modSync_handoff (f : Sync → Sync) : (hw.modSync f).handoff = hw.handoff := rfl
@[simp] theorem Hw.modSync_chkOff (f : Sync → Sync) : (hw.modSync f).chkOff = hw.chkOff := rfl
@[simp] theorem Hw.modSync_chkBoth (f : Sync → Sync) : (hw.modSync f).chkBoth = hw.chkBoth := rfl
@[simp] theorem Hw.modSync_chkErr (f : Sync → Sync) : (hw.modSync f).chkErr = hw.chkErr := rfl
@[simp] theorem Hw.modSync_cores (f : Sync → Sync) : (hw.modSync f).cores = hw.cores := rfl
@[simp] theorem Hw.modSync_cars (f : Sync → Sync) : (hw.modSync f).cars = hw.cars := rfl
@[simp] theorem Hw.modSync_tes (f : Sync → Sync) : (hw.modSync f).tes = hw.tes := rfl
@[simp] theorem Hw.modSync_tenDone (f : Sync → Sync) : (hw.modSync f).tenDone = hw.tenDone := rfl
@[simp] theorem Hw.modSync_bg (f : Sync → Sync) : (hw.modSync f).bg = hw.bg := rfl
@[simp] theorem Hw.modSync_net (f : Sync → Sync) : (hw.modSync f).net = hw.net := rfl
@[simp] theorem Hw.modSync_kc (f : Sync → Sync) : (hw.modSync f).kc = hw.kc := rfl
@[simp] theorem Hw.modSync_fw (f : Sync → Sync) : (hw.modSync f).fw = hw.fw := rfl
@[simp] theorem Hw.modSync_boot (f : Sync → Sync) : (hw.modSync f).boot = hw.boot := rfl
@[simp] theorem Hw.modSync_tap (f : Sync → Sync) : (hw.modSync f).tap = hw.tap := rfl
@[simp] theorem Hw.modSync_tok (f : Sync → Sync) : (hw.modSync f).tok = hw.tok := rfl
@[simp] theorem Hw.modSync_out (f : Sync → Sync) : (hw.modSync f).out = hw.out := rfl

/-! ### Hw.modNet -/

@[simp] theorem Hw.modNet_frame (f : Net → Net) : (hw.modNet f).frame = hw.frame := rfl
@[simp] theorem Hw.modNet_now (f : Net → Net) : (hw.modNet f).now = hw.now := rfl
@[simp] theorem Hw.modNet_free (f : Net → Net) : (hw.modNet f).free = hw.free := rfl
@[simp] theorem Hw.modNet_nid (f : Net → Net) : (hw.modNet f).nid = hw.nid := rfl
@[simp] theorem Hw.modNet_regs (f : Net → Net) : (hw.modNet f).regs = hw.regs := rfl
@[simp] theorem Hw.modNet_rlatch (f : Net → Net) : (hw.modNet f).rlatch = hw.rlatch := rfl
@[simp] theorem Hw.modNet_wlatch (f : Net → Net) : (hw.modNet f).wlatch = hw.wlatch := rfl
@[simp] theorem Hw.modNet_mem (f : Net → Net) : (hw.modNet f).mem = hw.mem := rfl
@[simp] theorem Hw.modNet_bad (f : Net → Net) : (hw.modNet f).bad = hw.bad := rfl
@[simp] theorem Hw.modNet_soft (f : Net → Net) : (hw.modNet f).soft = hw.soft := rfl
@[simp] theorem Hw.modNet_beats (f : Net → Net) : (hw.modNet f).beats = hw.beats := rfl
@[simp] theorem Hw.modNet_got (f : Net → Net) : (hw.modNet f).got = hw.got := rfl
@[simp] theorem Hw.modNet_rcd (f : Net → Net) : (hw.modNet f).rcd = hw.rcd := rfl
@[simp] theorem Hw.modNet_clk (f : Net → Net) : (hw.modNet f).clk = hw.clk := rfl
@[simp] theorem Hw.modNet_coreEn (f : Net → Net) : (hw.modNet f).coreEn = hw.coreEn := rfl
@[simp] theorem Hw.modNet_tcmSwap (f : Net → Net) : (hw.modNet f).tcmSwap = hw.tcmSwap := rfl
@[simp] theorem Hw.modNet_active (f : Net → Net) : (hw.modNet f).active = hw.active := rfl
@[simp] theorem Hw.modNet_shadow (f : Net → Net) : (hw.modNet f).shadow = hw.shadow := rfl
@[simp] theorem Hw.modNet_bmc (f : Net → Net) : (hw.modNet f).bmc = hw.bmc := rfl
@[simp] theorem Hw.modNet_hold (f : Net → Net) : (hw.modNet f).hold = hw.hold := rfl
@[simp] theorem Hw.modNet_handoff (f : Net → Net) : (hw.modNet f).handoff = hw.handoff := rfl
@[simp] theorem Hw.modNet_chkOff (f : Net → Net) : (hw.modNet f).chkOff = hw.chkOff := rfl
@[simp] theorem Hw.modNet_chkBoth (f : Net → Net) : (hw.modNet f).chkBoth = hw.chkBoth := rfl
@[simp] theorem Hw.modNet_chkErr (f : Net → Net) : (hw.modNet f).chkErr = hw.chkErr := rfl
@[simp] theorem Hw.modNet_cores (f : Net → Net) : (hw.modNet f).cores = hw.cores := rfl
@[simp] theorem Hw.modNet_cars (f : Net → Net) : (hw.modNet f).cars = hw.cars := rfl
@[simp] theorem Hw.modNet_tes (f : Net → Net) : (hw.modNet f).tes = hw.tes := rfl
@[simp] theorem Hw.modNet_tenDone (f : Net → Net) : (hw.modNet f).tenDone = hw.tenDone := rfl
@[simp] theorem Hw.modNet_bg (f : Net → Net) : (hw.modNet f).bg = hw.bg := rfl
@[simp] theorem Hw.modNet_sync (f : Net → Net) : (hw.modNet f).sync = hw.sync := rfl
@[simp] theorem Hw.modNet_kc (f : Net → Net) : (hw.modNet f).kc = hw.kc := rfl
@[simp] theorem Hw.modNet_fw (f : Net → Net) : (hw.modNet f).fw = hw.fw := rfl
@[simp] theorem Hw.modNet_boot (f : Net → Net) : (hw.modNet f).boot = hw.boot := rfl
@[simp] theorem Hw.modNet_tap (f : Net → Net) : (hw.modNet f).tap = hw.tap := rfl
@[simp] theorem Hw.modNet_tok (f : Net → Net) : (hw.modNet f).tok = hw.tok := rfl
@[simp] theorem Hw.modNet_out (f : Net → Net) : (hw.modNet f).out = hw.out := rfl

/-! ### Hw.modKc -/

@[simp] theorem Hw.modKc_frame (f : Kc → Kc) : (hw.modKc f).frame = hw.frame := rfl
@[simp] theorem Hw.modKc_now (f : Kc → Kc) : (hw.modKc f).now = hw.now := rfl
@[simp] theorem Hw.modKc_free (f : Kc → Kc) : (hw.modKc f).free = hw.free := rfl
@[simp] theorem Hw.modKc_nid (f : Kc → Kc) : (hw.modKc f).nid = hw.nid := rfl
@[simp] theorem Hw.modKc_regs (f : Kc → Kc) : (hw.modKc f).regs = hw.regs := rfl
@[simp] theorem Hw.modKc_rlatch (f : Kc → Kc) : (hw.modKc f).rlatch = hw.rlatch := rfl
@[simp] theorem Hw.modKc_wlatch (f : Kc → Kc) : (hw.modKc f).wlatch = hw.wlatch := rfl
@[simp] theorem Hw.modKc_mem (f : Kc → Kc) : (hw.modKc f).mem = hw.mem := rfl
@[simp] theorem Hw.modKc_bad (f : Kc → Kc) : (hw.modKc f).bad = hw.bad := rfl
@[simp] theorem Hw.modKc_soft (f : Kc → Kc) : (hw.modKc f).soft = hw.soft := rfl
@[simp] theorem Hw.modKc_beats (f : Kc → Kc) : (hw.modKc f).beats = hw.beats := rfl
@[simp] theorem Hw.modKc_got (f : Kc → Kc) : (hw.modKc f).got = hw.got := rfl
@[simp] theorem Hw.modKc_rcd (f : Kc → Kc) : (hw.modKc f).rcd = hw.rcd := rfl
@[simp] theorem Hw.modKc_clk (f : Kc → Kc) : (hw.modKc f).clk = hw.clk := rfl
@[simp] theorem Hw.modKc_coreEn (f : Kc → Kc) : (hw.modKc f).coreEn = hw.coreEn := rfl
@[simp] theorem Hw.modKc_tcmSwap (f : Kc → Kc) : (hw.modKc f).tcmSwap = hw.tcmSwap := rfl
@[simp] theorem Hw.modKc_active (f : Kc → Kc) : (hw.modKc f).active = hw.active := rfl
@[simp] theorem Hw.modKc_shadow (f : Kc → Kc) : (hw.modKc f).shadow = hw.shadow := rfl
@[simp] theorem Hw.modKc_bmc (f : Kc → Kc) : (hw.modKc f).bmc = hw.bmc := rfl
@[simp] theorem Hw.modKc_hold (f : Kc → Kc) : (hw.modKc f).hold = hw.hold := rfl
@[simp] theorem Hw.modKc_handoff (f : Kc → Kc) : (hw.modKc f).handoff = hw.handoff := rfl
@[simp] theorem Hw.modKc_chkOff (f : Kc → Kc) : (hw.modKc f).chkOff = hw.chkOff := rfl
@[simp] theorem Hw.modKc_chkBoth (f : Kc → Kc) : (hw.modKc f).chkBoth = hw.chkBoth := rfl
@[simp] theorem Hw.modKc_chkErr (f : Kc → Kc) : (hw.modKc f).chkErr = hw.chkErr := rfl
@[simp] theorem Hw.modKc_cores (f : Kc → Kc) : (hw.modKc f).cores = hw.cores := rfl
@[simp] theorem Hw.modKc_cars (f : Kc → Kc) : (hw.modKc f).cars = hw.cars := rfl
@[simp] theorem Hw.modKc_tes (f : Kc → Kc) : (hw.modKc f).tes = hw.tes := rfl
@[simp] theorem Hw.modKc_tenDone (f : Kc → Kc) : (hw.modKc f).tenDone = hw.tenDone := rfl
@[simp] theorem Hw.modKc_bg (f : Kc → Kc) : (hw.modKc f).bg = hw.bg := rfl
@[simp] theorem Hw.modKc_sync (f : Kc → Kc) : (hw.modKc f).sync = hw.sync := rfl
@[simp] theorem Hw.modKc_net (f : Kc → Kc) : (hw.modKc f).net = hw.net := rfl
@[simp] theorem Hw.modKc_fw (f : Kc → Kc) : (hw.modKc f).fw = hw.fw := rfl
@[simp] theorem Hw.modKc_boot (f : Kc → Kc) : (hw.modKc f).boot = hw.boot := rfl
@[simp] theorem Hw.modKc_tap (f : Kc → Kc) : (hw.modKc f).tap = hw.tap := rfl
@[simp] theorem Hw.modKc_tok (f : Kc → Kc) : (hw.modKc f).tok = hw.tok := rfl
@[simp] theorem Hw.modKc_out (f : Kc → Kc) : (hw.modKc f).out = hw.out := rfl

/-! ### The fields that the updates write -/

@[simp] theorem Hw.at_now (t : Nat) : (hw.at t).now = max hw.now t := rfl
@[simp] theorem Hw.draw_free : hw.draw.free = hw.free + 1 := rfl
@[simp] theorem Hw.newId_nid : hw.newId.nid = hw.nid + 1 := rfl
@[simp] theorem Hw.modSync_sync (f : Sync → Sync) : (hw.modSync f).sync = f hw.sync := rfl
@[simp] theorem Hw.modNet_net (f : Net → Net) : (hw.modNet f).net = f hw.net := rfl
@[simp] theorem Hw.modKc_kc (f : Kc → Kc) : (hw.modKc f).kc = f hw.kc := rfl

/-- Core `n` after an update of core `n`. -/
@[simp] theorem Hw.setCore_core (n : Fin 8) (c : Core) : (hw.setCore n c).core n = c := by
  show (hw.cores.set n.val c n.isLt)[n.val] = c
  simp

/-- Another core after an update of core `n`. -/
theorem Hw.setCore_core_ne {n m : Fin 8} (h : m ≠ n) (c : Core) : (hw.setCore n c).core m = hw.core m := by
  have : n.val ≠ m.val := fun e => h (Fin.ext e.symm)
  show (hw.cores.set n.val c n.isLt)[m.val] = hw.cores[m.val]
  exact Vector.getElem_set_ne _ _ this

@[simp] theorem Hw.modCore_core (n : Fin 8) (f : Core → Core) : (hw.modCore n f).core n = f (hw.core n) := Hw.setCore_core hw n _

theorem Hw.modCore_core_ne {n m : Fin 8} (h : m ≠ n) (f : Core → Core) : (hw.modCore n f).core m = hw.core m :=
  Hw.setCore_core_ne hw h _

@[simp] theorem Hw.setReg_core (o : Nat) (v : W32) (n : Fin 8) : (hw.setReg o v).core n = hw.core n := rfl
@[simp] theorem Hw.setReg64_core (o x : Nat) (n : Fin 8) : (hw.setReg64 o x).core n = hw.core n := rfl
@[simp] theorem Hw.setFld_core (o lo w x : Nat) (n : Fin 8) : (hw.setFld o lo w x).core n = hw.core n := rfl
@[simp] theorem Hw.orReg_core (o m : Nat) (n : Fin 8) : (hw.orReg o m).core n = hw.core n := rfl
@[simp] theorem Hw.clrReg_core (o m : Nat) (n : Fin 8) : (hw.clrReg o m).core n = hw.core n := rfl
@[simp] theorem Hw.bump_core (o lo w : Nat) (n : Fin 8) : (hw.bump o lo w).core n = hw.core n := rfl
@[simp] theorem Hw.at_core (t : Nat) (n : Fin 8) : (hw.at t).core n = hw.core n := rfl
@[simp] theorem Hw.newId_core (n : Fin 8) : hw.newId.core n = hw.core n := rfl
@[simp] theorem Hw.draw_core (n : Fin 8) : hw.draw.core n = hw.core n := rfl

/-! ### Stored registers -/

/-- A register as it was last set. -/
theorem Hw.setReg_reg (h : Registers.wf hw) (o : Nat) (v : W32) : (hw.setReg o v).reg o = v :=
  tabGet_tabPut_self regReset h v

/-- Another register. -/
theorem Hw.setReg_reg_ne {o p : Nat} (h : p ≠ o) (v : W32) : (hw.setReg o v).reg p = hw.reg p :=
  tabGet_tabPut_ne regReset h v hw.regs

/-- Setting a register keeps the canonical form. -/
theorem Hw.setReg_wf (h : Registers.wf hw) (o : Nat) (v : W32) : Registers.wf (hw.setReg o v) := tabWf_tabPut regReset h v

/-- The register's value does not depend on fields other than `regs`. -/
theorem Hw.reg_congr {a b : Hw} (h : a.regs = b.regs) (o : Nat) : a.reg o = b.reg o := by simp [Hw.reg, h]

/-- Setting a field of a register leaves every other register. -/
theorem Hw.setFld_reg_ne {o p : Nat} (h : p ≠ o) (lo w x : Nat) : (hw.setFld o lo w x).reg p = hw.reg p := Hw.setReg_reg_ne hw h _
theorem Hw.orReg_reg_ne {o p : Nat} (h : p ≠ o) (m : Nat) : (hw.orReg o m).reg p = hw.reg p := Hw.setReg_reg_ne hw h _
theorem Hw.clrReg_reg_ne {o p : Nat} (h : p ≠ o) (m : Nat) : (hw.clrReg o m).reg p = hw.reg p := Hw.setReg_reg_ne hw h _
theorem Hw.setFld_reg (h : Registers.wf hw) (o lo w x : Nat) : (hw.setFld o lo w x).reg o = setField (hw.reg o) lo w x := Hw.setReg_reg hw h _ _
theorem Hw.orReg_reg (h : Registers.wf hw) (o m : Nat) : (hw.orReg o m).reg o = hw.reg o ||| BitVec.ofNat 32 m := Hw.setReg_reg hw h _ _
theorem Hw.clrReg_reg (h : Registers.wf hw) (o m : Nat) : (hw.clrReg o m).reg o = hw.reg o &&& ~~~(BitVec.ofNat 32 m) := Hw.setReg_reg hw h _ _
theorem Hw.setFld_wf (h : Registers.wf hw) (o lo w x : Nat) : Registers.wf (hw.setFld o lo w x) := Hw.setReg_wf hw h _ _
theorem Hw.orReg_wf (h : Registers.wf hw) (o m : Nat) : Registers.wf (hw.orReg o m) := Hw.setReg_wf hw h _ _
theorem Hw.clrReg_wf (h : Registers.wf hw) (o m : Nat) : Registers.wf (hw.clrReg o m) := Hw.setReg_wf hw h _ _

/-! ### A core's own registers (R78, R79) -/

variable (c : Core)

/-- g0 reads as zero whatever is written to it (R78). -/
@[simp] theorem Core.gr_zero : c.gr 0 = 0 := rfl

/-- p0 reads as all ones whatever is written to it (R79). -/
@[simp] theorem Core.pr_zero : c.pr 0 = BitVec.allOnes 64 := rfl

theorem Core.setG_zero (x : W64) : c.setG 0 x = c := rfl
theorem Core.setP_zero (x : W64) : c.setP 0 x = c := rfl

/-- A g register as it was last set; g0 stays zero. -/
theorem Core.setG_gr {i j : Nat} (hi : i < 32) (x : W64) : (c.setG i x).gr j = if j = i ∧ i ≠ 0 then x else c.gr j := by
  by_cases h0 : i = 0
  · simp [Core.setG, h0]
  · simp only [Core.setG, h0, if_false, Core.gr]
    by_cases hj0 : j = 0
    · subst hj0; simp [Ne.symm h0]
    · simp only [hj0, if_false]
      by_cases hji : j = i
      · subst hji; simp [Vector.getD, hi, h0]
      · simp only [hji, false_and, if_false]
        simp only [Vector.getD, Vector.setIfInBounds, Array.getD_eq_getD_getElem?, Array.getElem?_setIfInBounds]
        rw [if_neg (Ne.symm hji)]

end

end Sys2Proof.Machine
end

