-- ==== Sys2Proof/Laws/Issue.lean ====
section
/-!
SUPPORT. What each check of an issuing core answers when it has nothing to object to: one lemma per check, to cite in place of
unfolding it.
-/
namespace Sys2Proof.Machine

theorem Hw.core_eq {hw : Hw} {cs : Vector Core 8} (h : hw.cores = cs) (n : Fin 8) : hw.core n = cs.get n := by rw [Hw.core, h]

/-- The last of two changes of one core counts. -/
@[simp] theorem Hw.setCore_setCore (hw : Hw) (n : Fin 8) (c d : Core) : (hw.setCore n c).setCore n d = hw.setCore n d := by
  simp [Hw.setCore]

/-- A core that issues the word goes on with its cycle and its pc (R84, R89, R90, R205). -/
theorem withIssue_of_issues {s : State} {n : Fin 8} {w : W32} {m : Mn} (h : Issues s n w m) (k : Nat → Nat → Hw → Hw) :
    withIssue n m w s.begun k = k (issueCyc ((found s n w).core n) w) ((found s n w).core n).pc (issued s n w) := by
  obtain ⟨h1, h2, h3, h4, h5, h6, h7⟩ := h
  have h5' : (((found s n w).core n).ibad.any (fun a => decide (a = ((found s n w).core n).pc / 8))) = false := by
    rw [Bool.eq_false_iff]
    intro e
    rw [List.any_eq_true] at e
    obtain ⟨a, ha, hb⟩ := e
    exact h5 a ha (of_decide_eq_true hb)
  have e : rowsTo n (issueCyc (s.begun.core n) w - 1) (settleBefore (issueCyc (s.begun.core n) w) s.begun) = found s n w := rfl
  simp only [withIssue, e, h1, h2, h3, h4, h5', h6, h7, Bool.not_true, Bool.false_eq_true, if_false, ne_eq, not_true_eq_false, if_true]
  rfl

/-- Two copies that agree that a value has landed say nothing (R276). -/
theorem resolveCopies_agree (unit kind pc fa fb : Nat) (ba bb : Bool) (hw : Hw) :
    resolveCopies unit kind pc false false fa fb ba bb hw = (false, hw) := by
  unfold resolveCopies
  dsimp only
  repeat' split
  all_goals simp_all

/-- A checker whose copies both find the value landed says nothing (R85, R276). -/
theorem checkLand_landed {unit kind pc cyc : Nat} {l : Land} (h : l.a ≤ cyc ∧ l.b ≤ cyc) (hw : Hw) :
    checkLand unit kind pc cyc l hw = (false, hw) := by
  have ha : decide (cyc < l.a) = false := by simp; omega
  have hb : decide (cyc < l.b) = false := by simp; omega
  rw [checkLand, ha, hb, resolveCopies_agree]

/-- With no error in a checker copy, a fetch of resident code is good (R276). -/
theorem checkKnown_good {hw : Hw} (h : hw.chkErr = []) (unit kind pc frm : Nat) (late : Bool) :
    checkKnown unit kind pc frm late hw = (late, hw) := by simp [checkKnown, h]

/-- Registers that have all landed are read without a word (R85). -/
theorem withReads_of_landed {n : Fin 8} {pc cyc : Nat} {rs : List (Nat × Nat)} {hw : Hw} (h : ReadsLanded (hw.core n) cyc rs)
    (k : Hw → Hw) : withReads n pc cyc rs hw k = k hw := by
  induction rs with
  | nil => rfl
  | cons r l ih =>
    rw [withReads]
    rcases h r List.mem_cons_self with h1 | h1
    · simp only [h1, if_true]
      exact ih (fun r hr => h r (List.mem_cons_of_mem _ hr))
    · simp only [checkLand_landed h1]
      split
      · exact ih (fun r hr => h r (List.mem_cons_of_mem _ hr))
      · exact ih (fun r hr => h r (List.mem_cons_of_mem _ hr))

/-- A register that may be written has its landing entered (R86, R87). -/
theorem withWrite_of_free {n : Fin 8} {pc cyc lat : Nat} {r : Nat × Nat} {hw : Hw} (h : WriteFree (hw.core n) cyc r lat)
    (k : Hw → Hw) : withWrite n pc cyc (some r) lat hw k = k (enterLanding n cyc lat r hw) := by
  rw [withWrite, enterLanding]
  rcases h with h | h
  · simp [h]
  · split
    · rfl
    · rw [if_neg (by omega)]

/-- An aligned address in reach is taken (R98, R99, R190). -/
theorem withAddr_of_ok {n : Fin 8} {pc al : Nat} {ea : W64} {hw : Hw} (h : AddressOk hw n al ea) (k : Nat → Hw) :
    withAddr n pc al ea hw k = k ea.toNat := by
  obtain ⟨h1, h2, h3⟩ := h
  simp [withAddr, h1, h3]
  omega

/-- A free read port is taken (R120). -/
theorem withReadPort_of_free {n : Fin 8} {pc cyc : Nat} {hw : Hw} (h : (hw.core n).rdPort ≤ cyc) (k : Hw → Hw) :
    withReadPort n pc cyc hw k = k hw := by
  rw [withReadPort, if_neg (by omega)]

/-- Beats that break no rule are taken (R193, R219, R227). -/
theorem withBeats_of_ok {n : Fin 8} {pc cyc : Nat} {new : List Beat} {hw : Hw} (h : beatsBad hw new = none) (k : Hw → Hw) :
    withBeats n pc cyc new hw k = k hw := by rw [withBeats, h]

/-- A write port that is free is occupied (R120). -/
theorem withWritePort_of_free {n : Fin 8} {pc cyc start len : Nat} {hw : Hw} (h : portFree (hw.core n).wrPort start len = true)
    (k : Hw → Hw) : withWritePort n pc cyc start len hw k =
      k (hw.modCore n (fun c => { c with wrPort := (start, start + len) :: c.wrPort.filter (fun p => decide (cyc < p.2)) })) := by
  rw [withWritePort, if_pos h]

/-- A semaphore that exists and is allocated is taken (R319, R320). -/
theorem withSem_of_on {n : Fin 8} {w : W32} {pc : Nat} {hw : Hw} (h1 : refOf (hw.core n) w < 4096)
    (h2 : semOn hw (refOf (hw.core n) w) = true) (k : Nat → Hw) : withSem n w pc hw k = k (refOf (hw.core n) w) := by
  simp [withSem, refSem, h1, h2]

end Sys2Proof.Machine
end

