-- ==== Sys2Proof/Laws/Does.lean ====
section
/-!
SUPPORT. How a statement that names a command's whole effect (`Does`) follows from the function that the command calls.
-/
namespace Sys2Proof.Machine

/-- A command does what its effect function gives on the hardware as the command finds it. -/
theorem does_of {i : Instr} {s : State} {f : Hw → Hw} {b : Hw} (h : exec i s = run f s) (hf : f s.begun = b) : Does i s b := by
  subst hf; exact h

@[simp] theorem begun_core (s : State) (n : Fin 8) : s.begun.core n = s.hw.core n := rfl
@[simp] theorem begun_reg (s : State) (p : Nat) : s.begun.reg p = s.hw.reg p := rfl
@[simp] theorem begun_reg64 (s : State) (p : Nat) : s.begun.reg64 p = s.hw.reg64 p := rfl
@[simp] theorem begun_fld (s : State) (p i k : Nat) : s.begun.fld p i k = s.hw.fld p i k := rfl
@[simp] theorem begun_now (s : State) : s.begun.now = s.hw.now := rfl
@[simp] theorem begun_frame (s : State) : s.begun.frame = s.hw.frame := rfl
@[simp] theorem begun_sync (s : State) : s.begun.sync = s.hw.sync := rfl
@[simp] theorem begun_hold (s : State) : s.begun.hold = s.hw.hold := rfl
@[simp] theorem begun_clk (s : State) : s.begun.clk = s.hw.clk := rfl
@[simp] theorem begun_kc (s : State) : s.begun.kc = s.hw.kc := rfl
@[simp] theorem begun_net (s : State) : s.begun.net = s.hw.net := rfl
@[simp] theorem begun_rcd (s : State) : s.begun.rcd = s.hw.rcd := rfl
@[simp] theorem begun_boot (s : State) : s.begun.boot = s.hw.boot := rfl
@[simp] theorem begun_fw (s : State) : s.begun.fw = s.hw.fw := rfl
@[simp] theorem begun_bmc (s : State) : s.begun.bmc = s.hw.bmc := rfl
@[simp] theorem begun_tap (s : State) : s.begun.tap = s.hw.tap := rfl
@[simp] theorem begun_cars (s : State) : s.begun.cars = s.hw.cars := rfl
@[simp] theorem begun_tes (s : State) : s.begun.tes = s.hw.tes := rfl
@[simp] theorem begun_beats (s : State) : s.begun.beats = s.hw.beats := rfl
@[simp] theorem begun_bg (s : State) : s.begun.bg = s.hw.bg := rfl

/-- Two cores that differ at most in the class of their last fault. -/
def SameCore (c d : Core) : Prop := ({ c with lastClass := d.lastClass } : Core) = d

theorem raise_cores (r : FaultRec) (hw : Hw) : (raise r hw).cores = hw.cores := by
  unfold raise
  dsimp only
  repeat' split
  all_goals rfl

theorem sameCore_of_cores {a b : Hw} (h : a.cores = b.cores) (m : Fin 8) : SameCore (a.core m) (b.core m) := by
  rw [Hw.core, Hw.core, h]; rfl

/-- A record that a unit raises changes at most the class of a core's last fault. -/
theorem raiseBy_core (r : FaultRec) (hw : Hw) (m : Fin 8) : SameCore ((raiseBy r hw).core m) (hw.core m) := by
  unfold raiseBy
  split
  · next h =>
    unfold SameCore
    by_cases e : m = ⟨r.unit, h⟩
    · subst e
      rw [Hw.modCore_core]
      simp only [Hw.core, raise_cores]
    · rw [Hw.modCore_core_ne _ e]
      simp only [Hw.core, raise_cores]
  · split
    · exact sameCore_of_cores (raise_cores r hw) m
    · exact sameCore_of_cores (raise_cores r hw) m

/-- What two checker copies find changes of a core at most the class of its last fault (R276). -/
theorem resolveCopies_core (unit kind pc : Nat) (va vb : Bool) (fa fb : Nat) (ba bb : Bool) (hw : Hw) (m : Fin 8) :
    SameCore ((resolveCopies unit kind pc va vb fa fb ba bb hw).2.core m) (hw.core m) := by
  unfold resolveCopies
  dsimp only
  repeat' split
  · rfl
  · rfl
  · rfl
  all_goals
    simp only [Hw.core, showPort, Hw.setFld_cores, Hw.orReg_cores, Hw.bump_cores]
    exact raiseBy_core _ hw m

theorem checkKnown_core (unit kind pc frm : Nat) (late : Bool) (hw : Hw) (m : Fin 8) :
    SameCore ((checkKnown unit kind pc frm late hw).2.core m) (hw.core m) := by
  unfold checkKnown
  split
  · rfl
  · exact resolveCopies_core _ _ _ _ _ _ _ _ _ hw m

/-- A core that issues is as it was found, but for the class of its last fault. -/
theorem issued_core (s : State) (n : Fin 8) (w : W32) (m : Fin 8) : SameCore ((issued s n w).core m) ((found s n w).core m) := by
  have h := checkKnown_core n.val 6 ((found s n w).core n).pc (frameOf (issueCyc ((found s n w).core n) w)) false
    ((found s n w).at (issueCyc ((found s n w).core n) w)) m
  simp only [issued]
  split
  · exact h
  · exact h

theorem issued_pc (s : State) (n : Fin 8) (w : W32) : ((issued s n w).core n).pc = ((found s n w).core n).pc := by
  have h := issued_core s n w n
  unfold SameCore at h
  rw [← h]

theorem issued_cyc (s : State) (n : Fin 8) (w : W32) :
    issueCyc ((issued s n w).core n) w = issueCyc ((found s n w).core n) w := by
  have h := issued_core s n w n
  unfold SameCore at h
  rw [← h]; rfl

/-- A core that issues a word without operands. -/
theorem issue_only {s : State} {n : Fin 8} {w : W32} {m : Mn} (h : Issues s n w m) (k : Nat → Nat → Hw → Hw) :
    withIssue n m w s.begun k = k (issueCyc ((issued s n w).core n) w) ((issued s n w).core n).pc (issued s n w) := by
  rw [withIssue_of_issues h, issued_cyc, issued_pc]

/-- A core that issues, with its operands landed. -/
theorem issue_reads {s : State} {n : Fin 8} {w : W32} {m : Mn} {rs : List (Nat × Nat)} (h : Issues s n w m)
    (h2 : ReadsLanded ((issued s n w).core n) (issueCyc ((issued s n w).core n) w) rs) (k : Nat → Nat → Hw → Hw) :
    withIssue n m w s.begun (fun cyc pc hw => withReads n pc cyc rs hw (k cyc pc)) =
      k (issueCyc ((issued s n w).core n) w) ((issued s n w).core n).pc (issued s n w) := by
  rw [issue_only h, withReads_of_landed h2]

/-- An access that reaches the cluster takes place. -/
theorem byWriter_of_reaches {u : Writer} {s : State} (h : Reaches u s) (f : Hw → Hw) : byWriter u f s.begun = f s.begun := by
  have : reaches u s.begun = true := by
    unfold reaches
    rcases h with h | ⟨h, g | g⟩
    · simp [h]
    · have h' : s.begun.clk.lock = true := h
      have g' : s.begun.net.fenced = false := g
      rw [h', g']; simp
    · have h' : s.begun.clk.lock = true := h
      have g' : 8 ≤ cluState s.begun := g
      rw [h', decide_eq_true g']; simp
  simp [byWriter, this]

/-- A command of a writer does what its function gives. -/
theorem does_by {i : Instr} {s : State} {u : Writer} {f : Hw → Hw} {b : Hw} (h : exec i s = run (byWriter u f) s) (hr : Reaches u s)
    (hf : f s.begun = b) : Does i s b := does_of h ((byWriter_of_reaches hr f).trans hf)

/-- Entering a landing changes one core's table of landings. -/
theorem enterLanding_cases (n : Fin 8) (cyc lat : Nat) (r : Nat × Nat) (hw : Hw) :
    ∃ c, enterLanding n cyc lat r hw = { hw with cores := c } := by
  rw [enterLanding]
  split
  · exact ⟨hw.cores, rfl⟩
  · exact ⟨_, rfl⟩

end Sys2Proof.Machine
end

