-- ==== Sys2Proof/Laws/Finish.lean ====
section
/-!
SUPPORT. What the ending of every command (`finish`) can do: with the meter quiet and no ledger point passed, it changes only the
pending bits of KC's interrupts, KC's WFI, and what stands on the pins; the tables only take their canonical form.
-/
namespace Sys2Proof.Machine

/-- Time has not moved, or the meter has nothing to say of the cycles that are over. -/
def MeterQuiet (a b : Hw) : Prop := b.now ≤ a.now ∨ MeterFits b

theorem meterNotice_quiet {a b : Hw} (h : MeterQuiet a b) : meterNotice a b = b := by
  rw [meterNotice]
  split
  · rcases h with h | h
    · omega
    · have h' : meterFirst b (b.now - 1) = none := h
      rw [meterTo, h']
  · rfl

/-- A change of core `n` that keeps its charges keeps all charges. -/
theorem map_charges_setCore (hw : Hw) (n : Fin 8) (c : Core) (h : c.charges = (hw.core n).charges) :
    (hw.setCore n c).cores.map (fun c => c.charges) = hw.cores.map (fun c => c.charges) := by
  apply Vector.ext
  intro i hi
  simp only [Hw.setCore, Vector.getElem_map, Vector.getElem_set]
  split
  · next e => subst e; exact h
  · rfl

/-- Interrupts change only the stored registers. -/
theorem foldl_irq (l : List Nat) (hw : Hw) : ∃ r, l.foldl (fun h i => irq i h) hw = { hw with regs := r } := by
  induction l generalizing hw with
  | nil => exact ⟨hw.regs, rfl⟩
  | cons i l ih =>
    obtain ⟨r, hr⟩ := ih (irq i hw)
    exact ⟨r, by rw [List.foldl_cons, hr]; rfl⟩

/-- Interrupts change only KCP_IRQ_PEND. -/
theorem foldl_irq_reg (l : List Nat) (hw : Hw) {o : Nat} (h : ∀ i ∈ l, o ≠ 0xD00040 + 4 * (i / 32)) :
    (l.foldl (fun h i => irq i h) hw).reg o = hw.reg o := by
  induction l generalizing hw with
  | nil => rfl
  | cons i l ih =>
    rw [List.foldl_cons, ih _ (fun j hj => h j (List.mem_cons_of_mem _ hj))]
    exact Hw.setReg_reg_ne _ (h i List.mem_cons_self) _

/-- Every source of a notice is below 0x20. -/
theorem noticeSources_lt {a b : Hw} {i : Nat} (h : i ∈ noticeSources a b) : i < 32 := by
  simp only [noticeSources, List.mem_append, List.mem_map, List.mem_filter] at h
  rcases h with ((((h | h) | h) | h) | h) | h
  · split at h <;> simp_all
  · split at h <;> simp_all
  · split at h <;> simp_all
  · obtain ⟨n, -, rfl⟩ := h; have := n.isLt; omega
  · split at h <;> simp_all
  · split at h <;> simp_all

/-- A request for a power state that holds stays as it is. -/
theorem powerLapse_holds {b : Hw} (h : powerHolds b = true) : powerLapse b = b := by
  rw [powerLapse, h]
  split <;> rfl

/-- No rebuild has ended. -/
theorem no_retire {a b : Hw} (h : b.bmc.busy = true ∨ a.bmc.busy = false) : (a.bmc.busy && !b.bmc.busy) = false := by
  rcases h with h | h <;> simp [h]

/-- What `finish` leaves to do where the meter is quiet, no ledger point is passed, no request lapses and no rebuild has ended. -/
theorem finish_quiet {a b : Hw} (h1 : MeterQuiet a b) (h2 : noticePoints a b = []) (h3 : powerHolds b = true)
    (h4 : b.bmc.busy = true ∨ a.bmc.busy = false) :
    ∃ r w o, finish a b = canonTables { b with regs := r, kc := { b.kc with wfi := w }, out := o } ∧
      (∀ p, p ≠ 0xD00040 → tabGet regReset r p = b.reg p) := by
  have hn : ∃ r, noticeChange a b = { b with regs := r } ∧ (∀ p, p ≠ 0xD00040 → tabGet regReset r p = b.reg p) := by
    simp only [noticeChange, h2, List.foldl_nil, no_retire h4, Bool.false_eq_true, if_false]
    split
    · exact ⟨b.regs, rfl, fun _ _ => rfl⟩
    · obtain ⟨r, hr⟩ := foldl_irq (noticeSources a b) b
      refine ⟨r, hr, fun p hp => ?_⟩
      have := foldl_irq_reg (noticeSources a b) b (o := p) (fun i hi => by have := noticeSources_lt hi; omega)
      rw [hr] at this
      exact this
  obtain ⟨r, hr, hp⟩ := hn
  have hk : ∃ w, kcWake ({ b with regs := r } : Hw) = { b with regs := r, kc := { b.kc with wfi := w } } := by
    simp only [kcWake]
    split
    · exact ⟨false, rfl⟩
    · exact ⟨b.kc.wfi, rfl⟩
  obtain ⟨w, hw⟩ := hk
  have ho : ∃ o, muteOff ({ b with regs := r, kc := { b.kc with wfi := w } } : Hw)
      = { b with regs := r, kc := { b.kc with wfi := w }, out := o } := by
    simp only [muteOff]
    split
    · exact ⟨_, rfl⟩
    · exact ⟨b.out, rfl⟩
  obtain ⟨o, ho⟩ := ho
  exact ⟨r, w, o, by rw [finish, meterNotice_quiet h1, powerLapse_holds h3, hr, hw, ho], hp⟩

section
variable {a b : Hw} (h1 : MeterQuiet a b) (h2 : noticePoints a b = []) (h3 : powerHolds b = true)
  (h4 : b.bmc.busy = true ∨ a.bmc.busy = false)
include h1 h2 h3 h4

theorem finish_frame : (finish a b).frame = b.frame := by
  obtain ⟨r, w, o, h, -⟩ := finish_quiet h1 h2 h3 h4; rw [h]; rfl
theorem finish_now : (finish a b).now = b.now := by
  obtain ⟨r, w, o, h, -⟩ := finish_quiet h1 h2 h3 h4; rw [h]; rfl
theorem finish_free : (finish a b).free = b.free := by
  obtain ⟨r, w, o, h, -⟩ := finish_quiet h1 h2 h3 h4; rw [h]; rfl
theorem finish_nid : (finish a b).nid = b.nid := by
  obtain ⟨r, w, o, h, -⟩ := finish_quiet h1 h2 h3 h4; rw [h]; rfl
theorem finish_rlatch : (finish a b).rlatch = b.rlatch := by
  obtain ⟨r, w, o, h, -⟩ := finish_quiet h1 h2 h3 h4; rw [h]; rfl
theorem finish_wlatch : (finish a b).wlatch = b.wlatch := by
  obtain ⟨r, w, o, h, -⟩ := finish_quiet h1 h2 h3 h4; rw [h]; rfl
theorem finish_bad : (finish a b).bad = b.bad := by
  obtain ⟨r, w, o, h, -⟩ := finish_quiet h1 h2 h3 h4; rw [h]; rfl
theorem finish_soft : (finish a b).soft = b.soft := by
  obtain ⟨r, w, o, h, -⟩ := finish_quiet h1 h2 h3 h4; rw [h]; rfl
theorem finish_beats : (finish a b).beats = b.beats := by
  obtain ⟨r, w, o, h, -⟩ := finish_quiet h1 h2 h3 h4; rw [h]; rfl
theorem finish_got : (finish a b).got = b.got := by
  obtain ⟨r, w, o, h, -⟩ := finish_quiet h1 h2 h3 h4; rw [h]; rfl
theorem finish_rcd : (finish a b).rcd = b.rcd := by
  obtain ⟨r, w, o, h, -⟩ := finish_quiet h1 h2 h3 h4; rw [h]; rfl
theorem finish_clk : (finish a b).clk = b.clk := by
  obtain ⟨r, w, o, h, -⟩ := finish_quiet h1 h2 h3 h4; rw [h]; rfl
theorem finish_coreEn : (finish a b).coreEn = b.coreEn := by
  obtain ⟨r, w, o, h, -⟩ := finish_quiet h1 h2 h3 h4; rw [h]; rfl
theorem finish_tcmSwap : (finish a b).tcmSwap = b.tcmSwap := by
  obtain ⟨r, w, o, h, -⟩ := finish_quiet h1 h2 h3 h4; rw [h]; rfl
theorem finish_bmc : (finish a b).bmc = b.bmc := by
  obtain ⟨r, w, o, h, -⟩ := finish_quiet h1 h2 h3 h4; rw [h]; rfl
theorem finish_hold : (finish a b).hold = b.hold := by
  obtain ⟨r, w, o, h, -⟩ := finish_quiet h1 h2 h3 h4; rw [h]; rfl
theorem finish_handoff : (finish a b).handoff = b.handoff := by
  obtain ⟨r, w, o, h, -⟩ := finish_quiet h1 h2 h3 h4; rw [h]; rfl
theorem finish_chkOff : (finish a b).chkOff = b.chkOff := by
  obtain ⟨r, w, o, h, -⟩ := finish_quiet h1 h2 h3 h4; rw [h]; rfl
theorem finish_chkBoth : (finish a b).chkBoth = b.chkBoth := by
  obtain ⟨r, w, o, h, -⟩ := finish_quiet h1 h2 h3 h4; rw [h]; rfl
theorem finish_chkErr : (finish a b).chkErr = b.chkErr := by
  obtain ⟨r, w, o, h, -⟩ := finish_quiet h1 h2 h3 h4; rw [h]; rfl
theorem finish_cores : (finish a b).cores = b.cores := by
  obtain ⟨r, w, o, h, -⟩ := finish_quiet h1 h2 h3 h4; rw [h]; rfl
theorem finish_cars : (finish a b).cars = b.cars := by
  obtain ⟨r, w, o, h, -⟩ := finish_quiet h1 h2 h3 h4; rw [h]; rfl
theorem finish_tes : (finish a b).tes = b.tes := by
  obtain ⟨r, w, o, h, -⟩ := finish_quiet h1 h2 h3 h4; rw [h]; rfl
theorem finish_bg : (finish a b).bg = b.bg := by
  obtain ⟨r, w, o, h, -⟩ := finish_quiet h1 h2 h3 h4; rw [h]; rfl
theorem finish_net : (finish a b).net = b.net := by
  obtain ⟨r, w, o, h, -⟩ := finish_quiet h1 h2 h3 h4; rw [h]; rfl
theorem finish_fw : (finish a b).fw = b.fw := by
  obtain ⟨r, w, o, h, -⟩ := finish_quiet h1 h2 h3 h4; rw [h]; rfl
theorem finish_boot : (finish a b).boot = b.boot := by
  obtain ⟨r, w, o, h, -⟩ := finish_quiet h1 h2 h3 h4; rw [h]; rfl
theorem finish_tap : (finish a b).tap = b.tap := by
  obtain ⟨r, w, o, h, -⟩ := finish_quiet h1 h2 h3 h4; rw [h]; rfl
theorem finish_tok : (finish a b).tok = b.tok := by
  obtain ⟨r, w, o, h, -⟩ := finish_quiet h1 h2 h3 h4; rw [h]; rfl
theorem finish_core (n : Fin 8) : (finish a b).core n = b.core n := by rw [Hw.core, finish_cores h1 h2 h3 h4]; rfl

/-- Memory keeps every byte. -/
theorem finish_mem (k : Nat) : tabGet memReset (finish a b).mem k = tabGet memReset b.mem k := by
  obtain ⟨r, w, o, h, -⟩ := finish_quiet h1 h2 h3 h4; rw [h]; exact tabGet_canonTab _ _ _

/-- Every stored register but the first word of KCP_IRQ_PEND keeps its value. -/
theorem finish_reg {p : Nat} (hp : p ≠ 0xD00040) : (finish a b).reg p = b.reg p := by
  obtain ⟨r, w, o, h, hr⟩ := finish_quiet h1 h2 h3 h4; rw [h]; exact (tabGet_canonTab _ _ _).trans (hr p hp)

/-- KC keeps everything but WFI. -/
theorem finish_kc : ({ (finish a b).kc with wfi := b.kc.wfi } : Kc) = b.kc := by
  obtain ⟨r, w, o, h, -⟩ := finish_quiet h1 h2 h3 h4; rw [h]; rfl

/-- Semaphores keep their values, and the block everything else. -/
theorem finish_sem (i : Nat) : semVal (finish a b) i = semVal b i := by
  obtain ⟨r, w, o, h, -⟩ := finish_quiet h1 h2 h3 h4; rw [h]; exact tabGet_canonTab _ _ _

theorem finish_sync : ({ (finish a b).sync with vals := b.sync.vals } : Sync) = b.sync := by
  obtain ⟨r, w, o, h, -⟩ := finish_quiet h1 h2 h3 h4; rw [h]; rfl

theorem finish_active (k : Nat) : tabGet (fun _ => 0#32) (finish a b).active k = tabGet (fun _ => 0#32) b.active k := by
  obtain ⟨r, w, o, h, -⟩ := finish_quiet h1 h2 h3 h4; rw [h]; exact tabGet_canonTab _ _ _

theorem finish_shadow (k : Nat) : tabGet (fun _ => 0#32) (finish a b).shadow k = tabGet (fun _ => 0#32) b.shadow k := by
  obtain ⟨r, w, o, h, -⟩ := finish_quiet h1 h2 h3 h4; rw [h]; exact tabGet_canonTab _ _ _

end

/-- No ledger point follows where the clock mode, the links and the epoch are as before. -/
theorem noticePoints_nil {a b : Hw} (h1 : b.clk.slow = a.clk.slow) (h2 : ∀ p, portState b p = portState a p)
    (h3 : ∀ c, chanState b c = chanState a c) (h4 : nbit (b.reg 0xD0018C).toNat 0 = nbit (a.reg 0xD0018C).toNat 0) :
    noticePoints a b = [] := by
  simp only [noticePoints, h1, h2, h3, h4]
  split
  · rfl
  · simp

/-- The same where the stored registers are as before. -/
theorem noticePoints_of_regs {a b : Hw} (h1 : b.clk.slow = a.clk.slow) (h2 : b.regs = a.regs) : noticePoints a b = [] :=
  noticePoints_nil h1 (fun p => by simp [portState, Hw.fld, Hw.reg_congr h2]) (fun c => by simp [chanState, Hw.fld, Hw.reg_congr h2])
    (by rw [Hw.reg_congr h2])

end Sys2Proof.Machine
end

