-- ==== Sys2Proof/Laws/Memory.lean ====
section
/-!
SUPPORT. Every operation that writes memory keeps its canonical form.
-/
namespace Sys2Proof.Machine

/-- Setting one byte keeps the form. -/
theorem Hw.putByte_wf {hw : Hw} (h : Memory.wf hw) (a : Nat) (b : Byte) : Memory.wf (hw.putByte a b) := by
  have := tabWf_tabPut memReset (a := physOf hw a) h b
  unfold Hw.putByte
  dsimp only
  split
  · split <;> exact this
  · exact this

/-- Setting bytes keeps the form. -/
theorem Hw.putBytes_wf {hw : Hw} (h : Memory.wf hw) (l : List (Nat × Byte)) : Memory.wf (hw.putBytes l) := by
  unfold Hw.putBytes
  induction l generalizing hw with
  | nil => exact h
  | cons p l ih => exact ih (Hw.putByte_wf h p.1 p.2)

/-- A record that is raised leaves memory as it is. -/
theorem raise_mem (r : FaultRec) (hw : Hw) : (raise r hw).mem = hw.mem := by
  unfold raise
  dsimp only
  repeat' split
  all_goals rfl

/-- Counting one corrected word leaves memory as it is. -/
theorem countCorr_mem (q : QSrc) (hw : Hw) (w : Nat) : (countCorr q hw w).mem = hw.mem := by
  unfold countCorr
  split
  · exact raise_mem _ hw
  · repeat' split
    all_goals rfl

/-- Counting corrected words leaves memory as it is. -/
theorem foldl_countCorr_mem (l : List Nat) (hw : Hw) : (l.foldl (countCorr .auto) hw).mem = hw.mem := by
  induction l generalizing hw with
  | nil => rfl
  | cons w l ih => rw [List.foldl_cons, ih, countCorr_mem]

/-- The write filter leaves memory as it is. -/
theorem foldl_filterLine_mem (l : List Nat) (own : Option Nat) (hw : Hw) :
    (l.foldl (fun h ln => filterLine ln own h) hw).mem = hw.mem := by
  induction l generalizing hw with
  | nil => rfl
  | cons w l ih => rw [List.foldl_cons, ih]; rfl

/-- A write of bytes keeps the form. -/
theorem Hw.write_wf {hw : Hw} (h : Memory.wf hw) (l : List (Nat × Byte)) (own : Option Nat) : Memory.wf (hw.write l own).1 := by
  unfold Hw.write
  simp only [Memory.wf, foldl_filterLine_mem]
  apply Hw.putBytes_wf
  have h0 : ∀ x : Hw, x.mem = hw.mem → Memory.wf x := fun x e => by unfold Memory.wf; rw [e]; exact h
  apply h0
  have h1 : ∀ (c : Bool) (k f : List Nat),
      (if c then hw else { k.foldl (countCorr .auto) hw with soft := f }).mem = hw.mem := by
    intro c k f
    split
    · rfl
    · exact foldl_countCorr_mem k hw
  split
  · exact h1 _ _ _
  · exact h1 _ _ _

/-- Storing consecutive bytes keeps the form. -/
theorem Hw.store_wf {hw : Hw} (h : Memory.wf hw) (a : Nat) (l : List Byte) : Memory.wf (hw.store a l) := Hw.write_wf h _ _

end Sys2Proof.Machine
end

