-- ==== Sys2Proof/Laws/Quiet.lean ====
section
/-!
SUPPORT. Where nothing is told of a change and the meter is quiet: what a command's end leaves of the hardware that its effect left, and
which changes of one core keep it so.
-/
namespace Sys2Proof.Machine

/-- Interrupts keep the registers canonical. -/
theorem foldl_irq_wf (l : List Nat) {hw : Hw} (h : Registers.wf hw) : Registers.wf (l.foldl (fun h i => irq i h) hw) := by
  induction l generalizing hw with
  | nil => exact h
  | cons i l ih => exact ih (Hw.orReg_wf hw h _ _)

/-- What a command's end keeps of the hardware `b` that its effect left: all but KC's pending interrupts and WFI, and the pins. -/
theorem quiet_finish {s : State} {b : Hw} (q : Quiet s b) :
    ∃ r w o, finish s.hw b = { b with regs := r, kc := { b.kc with wfi := w }, out := o } ∧
      (∀ p, p ≠ 0xD00040 → tabGet regReset r p = b.reg p) ∧ (∀ e ∈ o, e ∈ b.out) ∧ (b.kc.wfi = false → w = false) := by
  obtain ⟨⟨w1, w2, w3, w4, w5⟩, h2, h1, h3, h4⟩ := q
  have hn : ∃ r, noticeChange s.hw b = { b with regs := r } ∧ tabWf regReset r = true ∧
      (∀ p, p ≠ 0xD00040 → tabGet regReset r p = b.reg p) := by
    simp only [noticeChange, h2, List.foldl_nil, no_retire h4, Bool.false_eq_true, if_false]
    split
    · exact ⟨b.regs, rfl, w2, fun _ _ => rfl⟩
    · obtain ⟨r, hr⟩ := foldl_irq (noticeSources s.hw b) b
      have hw := foldl_irq_wf (noticeSources s.hw b) w2
      refine ⟨r, hr, by rw [hr] at hw; exact hw, fun p hp => ?_⟩
      have := foldl_irq_reg (noticeSources s.hw b) b (o := p) (fun i hi => by have := noticeSources_lt hi; omega)
      rw [hr] at this
      exact this
  obtain ⟨r, hr, hw, hp⟩ := hn
  have hk : ∃ w, kcWake ({ b with regs := r } : Hw) = { b with regs := r, kc := { b.kc with wfi := w } } ∧ (b.kc.wfi = false → w = false) := by
    simp only [kcWake]
    split
    · exact ⟨false, rfl, fun _ => rfl⟩
    · exact ⟨b.kc.wfi, rfl, id⟩
  obtain ⟨w, hk, hk'⟩ := hk
  have ho : ∃ o, muteOff ({ b with regs := r, kc := { b.kc with wfi := w } } : Hw)
      = { b with regs := r, kc := { b.kc with wfi := w }, out := o } ∧ (∀ e ∈ o, e ∈ b.out) := by
    simp only [muteOff]
    split
    · exact ⟨[], rfl, fun e he => absurd he List.not_mem_nil⟩
    · exact ⟨b.out, rfl, fun e he => he⟩
  obtain ⟨o, ho, ho'⟩ := ho
  refine ⟨r, w, o, ?_, hp, ho', hk'⟩
  have e1 : canonTab memReset b.mem = b.mem := canonTab_of_wf _ w1
  have e2 : canonTab regReset r = r := canonTab_of_wf _ hw
  have e3 : canonTab (fun _ => (0 : W32)) b.active = b.active := canonTab_of_wf _ w3
  have e4 : canonTab (fun _ => (0 : W32)) b.shadow = b.shadow := canonTab_of_wf _ w4
  have e5 : canonTab (fun _ => (0 : Nat)) b.sync.vals = b.sync.vals := canonTab_of_wf _ w5
  rw [finish, meterNotice_quiet h1, powerLapse_holds h3, hr, hk, ho]
  simp only [canonTables, e1, e2, e3, e4, e5]

/-- The place of a byte depends on one register only: CLU_IDENT (R1, R191). -/
theorem byte_of_regs {b : Hw} {r : List (Nat × W32)} (h : tabGet regReset r 0 = b.reg 0) (x : Nat) :
    ({ b with regs := r } : Hw).byte x = b.byte x := by
  have e : ∀ i k, ({ b with regs := r } : Hw).fld 0 i k = b.fld 0 i k := fun i k => by
    rw [Hw.fld, Hw.fld, Hw.reg, h]
  have e1 : twoLayers ({ b with regs := r } : Hw) = twoLayers b := by rw [twoLayers, twoLayers, e]
  have e2 : ∀ a, regionOf ({ b with regs := r } : Hw) a = regionOf b a := fun a => by
    simp only [regionOf, groupSize, e1, coreOn]
    rfl
  have e3 : ∀ a, physOf ({ b with regs := r } : Hw) a = physOf b a := fun a => by
    simp only [physOf, e2, rowKey, spareKey, bankOf, e1]
  rw [Hw.byte, Hw.byte, e3]

/-- The same as a frame. -/
theorem quiet_frame {s : State} {b : Hw} (q : Quiet s b) :
    RestFrame s b { s with hw := finish s.hw b } ∧ (finish s.hw b).cores = b.cores ∧ (finish s.hw b).beats = b.beats ∧
      (∀ p, p ≠ 0xD00040 → (finish s.hw b).reg p = b.reg p) := by
  obtain ⟨r, w, o, h, hp, ho, hk⟩ := quiet_finish q
  rw [h]
  exact ⟨⟨rfl, byte_of_regs (hp 0 (by decide)), ⟨rfl, rfl⟩, ⟨fun _ => rfl, rfl⟩, rfl, rfl, rfl, ⟨rfl, rfl⟩, ⟨rfl, fun _ => rfl, fun _ => rfl⟩, ⟨rfl, rfl⟩, ⟨rfl, rfl, rfl⟩,
    ⟨rfl, rfl⟩, ⟨rfl, rfl⟩, rfl, rfl, ⟨rfl, rfl⟩, ho⟩, rfl, rfl, hp⟩

/-- The meter sees of a core only its charges. -/
theorem meterFault_cores {hw : Hw} {cs : Vector Core 8} (h : ∀ n : Fin 8, (cs.get n).charges = (hw.core n).charges) (f t : Nat) :
    meterFault ({ hw with cores := cs } : Hw) f t = meterFault hw f t := by
  have h1 : ∀ (n : Fin 8) (mode f t : Nat), coreCharge (({ hw with cores := cs } : Hw).core n) mode f t = coreCharge (hw.core n) mode f t :=
    fun n mode f t => by rw [coreCharge, coreCharge]; exact congrArg _ (h n)
  simp only [meterFault, unitTokens, outsideMask, chargeRose, chargePc, overCharge, coreTokens, h1]
  rfl

theorem meterFirst_cores {hw : Hw} {cs : Vector Core 8} (h : ∀ n : Fin 8, (cs.get n).charges = (hw.core n).charges) (t : Nat) :
    meterFirst ({ hw with cores := cs } : Hw) t = meterFirst hw t := by
  have h1 : cs.map (fun c => c.charges) = hw.cores.map (fun c => c.charges) := by
    apply Vector.ext
    intro i hi
    simp only [Vector.getElem_map]
    exact h ⟨i, hi⟩
  have h2 : ∀ g : Charge → List Nat, cs.toList.flatMap (fun c => c.charges.flatMap g) = hw.cores.toList.flatMap (fun c => c.charges.flatMap g) := by
    intro g
    have e : cs.toList.map (fun c => c.charges) = hw.cores.toList.map (fun c => c.charges) := by
      have := congrArg Vector.toList h1
      rwa [Vector.toList_map, Vector.toList_map] at this
    have := congrArg (fun l : List (List Charge) => l.flatMap (fun x => x.flatMap g)) e
    simpa [List.flatMap_map] using this
  simp only [meterFirst, chargeStarts, meterFault_cores h, h2]

/-- While a core runs, a request for IDLE or SHELVED is refused (R470). -/
theorem pwrRefuse_of_run {hw : Hw} {n : Fin 8} (h : (hw.core n).st = .run) (k : Nat) : pwrRefuse hw k ≠ 0 := by
  have e : coresRest hw 0xFF = false := by
    rw [coresRest, List.all_eq_false]
    refine ⟨n, List.mem_finRange n, ?_⟩
    have : nbit 0xFF n.val = true := (by decide : ∀ m : Fin 8, nbit 0xFF m.val = true) n
    simp [this, atRest, h]
  rw [pwrRefuse, e]
  split
  · decide
  · simp

/-- What holds of a request while a core runs holds as long as the request stands. -/
theorem powerHolds_of_run {hw hw' : Hw} {n : Fin 8} (h : (hw.core n).st = .run) (q : powerHolds hw = true) (e : hw'.boot = hw.boot) :
    powerHolds hw' = true := by
  unfold powerHolds at q ⊢
  rw [e]
  cases h1 : hw.boot.pwrReq with
  | none => rfl
  | some k =>
    rw [h1] at q
    have := of_decide_eq_true q
    rcases this with h2 | h2
    · simp [h2]
    · exact absurd h2 (pwrRefuse_of_run h k)

/-- A change of a core that runs, which keeps its charges, is as quiet. -/
theorem quiet_setCore {s : State} {hw : Hw} {n : Fin 8} {c : Core} (h : Quiet s hw) (hr : (hw.core n).st = .run)
    (hc : c.charges = (hw.core n).charges) : Quiet s (hw.setCore n c) := by
  obtain ⟨h1, h2, h3, h4, h5⟩ := h
  refine ⟨h1, h2, ?_, powerHolds_of_run hr h4 rfl, h5⟩
  rcases h3 with h3 | h3
  · exact .inl h3
  · refine .inr ?_
    have e : ∀ m : Fin 8, ((hw.cores.set n.val c n.isLt).get m).charges = (hw.core m).charges := by
      intro m
      by_cases em : m = n
      · subst em
        rw [← hc]
        exact congrArg Core.charges (Hw.setCore_core hw m c)
      · exact congrArg Core.charges (Hw.setCore_core_ne hw em c)
    exact (meterFirst_cores e _).trans h3

/-- A command that leaves `h` but for core `n`, which runs and whose charges it keeps, has the frame of a core's instruction. -/
theorem setCore_frame {s : State} {h : Hw} {n : Fin 8} {c : Core} (q : Quiet s h) (hr : (h.core n).st = .run)
    (hc : c.charges = (h.core n).charges) :
    CoreFrame n s h { s with hw := finish s.hw (h.setCore n c) } ∧ (finish s.hw (h.setCore n c)).core n = c := by
  obtain ⟨r, e1, e2, e3⟩ := quiet_frame (quiet_setCore q hr hc)
  refine ⟨⟨?_, e3, e2, ?_⟩, ?_⟩
  · intro m hm
    rw [Hw.core, e1]; exact Hw.setCore_core_ne h hm c
  · obtain ⟨a1,a2,a3,a4,a5,a6,a7,a8,a9,a10,a11,a12,a13,a14,a15,a16,a17⟩ := r
    exact ⟨a1,a2,a3,a4,a5,a6,a7,a8,a9,a10,a11,a12,a13,a14,a15,a16,a17⟩
  · rw [Hw.core, e1]; exact Hw.setCore_core h n c

end Sys2Proof.Machine
end

