-- ==== Sys2Proof/WellFormed.lean ====
section
/-!
DEFINITION. Which commands are well formed: those whose operands the hardware's inputs can carry. The types of the operands bound most
of them; what is left is the width of fields that numbers and byte strings stand for. A meaning is total and asks for none of this.
-/
namespace Sys2Proof

/-- The fields of a flit's control word fit their widths and its payload is at most 128 bytes (R367, R368). -/
def Flit.wf (f : Flit) : Bool :=
  decide (f.typ < 16) && decide (f.dst < 2 ^ 18) && decide (f.src < 2 ^ 18) && decide (f.addr < 2 ^ 41) && decide (f.addr % 8 = 0) &&
  decide (1 ≤ f.len8 ∧ f.len8 ≤ 16) && decide (f.txid < 2 ^ 11) && decide (f.payload.length ≤ 128)

/-- A far packet: a header beat, of which 124 bytes stand before the CRC, and at most 32 payload beats (R383). -/
def packetWf (h pl : List Byte) : Bool :=
  decide (h.length = 0x7C) && decide (pl.length % 128 = 0) && decide (pl.length ≤ 32 * 128)

/-- A cluster ID of a maintenance message has 18 bits (R370). -/
def idWf (id : Nat) : Bool := decide (id < 2 ^ 18)

/-- An up-arrival's cluster has 18 bits of ID, its channel a number below 32 (R370, R383). -/
def UpFrom.wf (f : UpFrom) : Bool :=
  match f with
  | .mesh id => idWf id
  | .far c => decide (c < 32)
  | .sch | .self => true

/-- The command is well formed: the operands that their types do not bound fit the hardware's fields. -/
def Instr.wf (i : Instr) : Bool :=
  match i with
  | .meshWrite _ f fl | .meshReadReq _ f fl | .meshReadData _ f fl | .meshSignal _ f fl | .meshError _ f fl | .meshBarUp _ f fl
  | .meshBarRel _ f fl => (f :: fl).all Flit.wf
  | .lfcWrite _ h pl _ | .lfcReadReq _ h pl _ | .lfcReadData _ h pl _ | .lfcSignal _ h pl _ | .lfcError _ h pl _ | .lfcBarUp _ h pl _
  | .lfcBarRel _ h pl _ | .lfcFence _ h pl _ | .lfcAck _ h pl _ | .lfcNak _ h pl _ | .lfcKeepalive _ h pl _
  | .lfcAnnounce _ h pl _ => packetWf h pl
  | .mntCredit _ n _ => decide (n < 2 ^ 10)
  | .mntAck _ txid _ => decide (txid < 2 ^ 11)
  | .mntHeartbeat _ id | .mntAnnounce _ id | .mntFence _ id => idWf id
  | .upArrival _ f => f.wf
  | .arraySkewParity _ idx => decide (idx < 128)
  | .svcSend _ ws => decide (1 ≤ ws.length ∧ ws.length ≤ 64)
  | .registerWrite _ _ width _ => decide (1 ≤ width ∧ width ≤ 128)
  | .dispatchPhase b => decide (b < 2 ^ 64)
  | .trainingDone (some g) => decide (g < 68)
  | .bistDone head ents => decide (head.length = 28) && decide (ents.length % 4 = 0)
  | .add _ _ | .sub _ _ | .and _ _ | .or _ _ | .xor _ _ | .sll _ _ | .srl _ _ | .sra _ _ | .slt _ _ | .sltu _ _ | .min _ _ | .max _ _
  | .minu _ _ | .maxu _ _ | .addw _ _ | .subw _ _ | .jalr _ _ | .addi _ _ | .andi _ _ | .ori _ _ | .xori _ _ | .slti _ _ | .slli _ _
  | .srli _ _ | .srai _ _ | .ldb _ | .ldh _ _ | .ldw _ _ | .ldd _ _ | .ldbu _ _ | .ldhu _ _ | .ldwu _ _ | .stb _ _ | .sth _ _
  | .stw _ _ | .std _ _ | .beq _ _ | .bne _ _ | .blt _ _ | .bge _ _ | .bltu _ _ | .bgeu _ _ | .jal _ _ | .ldk _ _ | .ldks _ _
  | .shk _ _ | .mul _ _ | .mulh _ _ | .mulhu _ _ | .div _ _ | .divu _ _ | .rem _ _ | .remu _ _ | .clz _ _ | .ctz _ _ | .popc _ _
  | .vadd _ _ | .vsub _ _ | .vmul _ _ | .vmin _ _ | .vmax _ _ | .vabs _ _ | .vneg _ _ | .vdiv _ _ | .vsqrt _ _ | .vfma _ _ | .vfms _ _
  | .vfnma _ _ | .vfnms _ _ | .viadd _ _ | .visub _ _ | .vimul _ _ | .vand _ _ | .vor _ _ | .vxor _ _ | .vshl _ _ | .vshr _ _
  | .vsra _ _ | .vcmpeq _ _ | .vcmplt _ _ | .vcmple _ _ | .vcmpun _ _ | .vicmpeq _ _ | .vicmplt _ _ | .vicmpltu _ _ | .pand _ _
  | .por _ _ | .pxor _ _ | .pnot _ _ | .vld _ _ | .vst _ _ | .vldb32 _ _ | .vldb16 _ _ | .vredadd _ _ | .vredmax _ _ | .vredmin _ _
  | .vperm _ _ | .vslideup _ _ | .vslidedn _ _ | .vbcast32 _ _ | .vbcast16 _ _ | .vext _ _ | .vins _ _ | .vmov _ _ | .vcvtHS _ _
  | .vcvtSH _ _ | .vcvtSW _ _ | .vcvtWS _ _ | .ssig _ _ | .swait _ _ | .swaitTake _ | .stake _ _ | .barr _ _ | .txq _ _ | .trap _ _
  | .eret _ _ | .fence _ _ | .idle _ _ | .idleExpiry _ | .halt _ _ | .mfsr _ _ | .mtsr _ _ | .rdfrm _ _ | .rdpos _ _ | .loadReturn _
  | .storeAck _ | .stridePrefetch _ | .fcfg _ _ | .fld _ _ | .fldx _ _ | .fst _ _ | .fstx _ _ | .folioLand _ | .frel _ _ | .fsave _ _
  | .frstr _ _ | .frsm _ _ | .mma _ _ | .mmaDual _ _ | .mmaSequence _ _ | .seqEntryStart _ | .mmac _ _ | .mmacMmaPart _
  | .mmaResultLand _ | .ard _ _ | .chn _ _ | .sendAck _ | .sendFail _ _ | .skewScrubDone _ _ | .arrayHalt _ | .coreArm _ _
  | .coreStop _ _ | .coreGo _ | .coreDrainDone _ | .cancel _ _ | .aseqWrite _ _ _ _ | .dinv _ _ | .dclean _ _ | .dclinv _ _
  | .ipreload _ _ | .iinv _ _ | .rangeOpDone _ | .swInvLine _ _ _ _ | .swInvAll _ _ | .swReadTag _ _ _ _ | .swInvIline _ _ _ _
  | .bgRequestServe | .bgWait256 | .sramScrubStep _ | .carArm _ _ | .carStop _ _ | .carGo _ | .dot _ _ | .axpy _ _ | .scale _ _
  | .reduce _ _ | .opt _ _ | .rerange _ _ | .gather _ _ | .scatter _ _ | .csum _ _ | .topk _ _ | .atom _ _ | .move _ _ | .ldv _ _
  | .stv _ _ | .sig _ _ | .swt _ _ | .swtTake _ | .bar _ _ | .endList _ _ | .carrelBeatLost _ | .refreshPeriodStart | .refreshSlot _
  | .remapStart _ | .remapAbort _ | .remapSwap | .remapCopyDone | .frameBoundary | .phaseBoundary | .phaseArm _ | .phaseDisarm _
  | .phaseLenCheck | .phaseGraceExpiry | .holdBegin | .holdRelease _ | .holdAbort _ | .holdResume | .slowEnter _ | .temergAssert
  | .temergDeassert | .slowExitTimer | .clockModeSwitch | .meshSlotDepart _ | .linkLate _ | .tenEnq _ _ | .descStart _
  | .channelWaitTake _ | .pacedHandover _ | .remoteTxnEnd _ _ | .descComplete _ | .tenStop _ _ | .tenResume _ _ | .channelStopDone _
  | .semSignal _ _ | .semTake _ _ | .semValWrite _ _ _ | .semAllocWrite _ _ _ | .signalTakeable | .semSave _ | .semRestore _
  | .semXferDone | .barArrive _ _ | .barConfigWrite _ _ _ _ | .barrierRelease _ | .overdueTrip | .queSqdb _ _ | .queCqdb _ _
  | .queAdminCfgWrite _ _ | .queAttach _ _ | .run _ | .cmdSignal _ | .qcreate _ | .qdestroy _ | .pin _ | .unpin _ | .queuePageIn _
  | .commandComplete _ | .phaseEnd | .heartbeatSample | .heartbeatTimer _ | .portLost _ | .mshHbEnWrite _ _ | .fenceGo _ _
  | .fenceDrainDone | .fenceAcksDone | .lfcAckTimer _ | .rtoExpiry _ | .keepaliveTimer _ | .farChannelLost _ | .poolGrant
  | .linkupChange _ _ | .wpush _ | .wpop _ | .tret _ | .wspill _ | .wfill _ | .bcopy _ _ | .csave _ _ | .wfi _ | .ktrap _
  | .kcInterrupt | .kcTimerMatch | .wdtKick _ _ | .watchdogExpiry | .auth _ | .hashDone | .authResult | .authTimeout | .mbSend _ _
  | .mbAck _ _ | .svcAck _ | .budget | .temp | .slowhold | .epoch | .mbBarRel | .epochArm _ | .epochNow _ | .powerLoopTick | .updOpen _
  | .updCommit _ | .updSwitch _ | .updConfirm _ | .updReject _ | .updAbandon _ | .updConfirmTimeout | .fltRaise _ | .recordRingWrite
  | .archiveLimitExpiry | .bmSupplyTrip | .cluStateSet _ _ | .porstNRise _ | .pllLock | .checkbitInitDone | .catGrant
  | .catGrantTimeout | .catalogueReadDone _ _ _ | .catLoad _ | .coldReset _ _ | .warmReset _ | .warmResetEffect | .warmResetTimeout
  | .forcedReset _ | .coreReset _ _ | .coreResetDone _ | .pwrReqActive _ | .pwrReqIdle _ | .pwrReqShelved _ | .pwrReqOff _
  | .powerStateEnter | .shelvedExit | .snapArm _ | .snapDisarm _ | .dbgSnapshot | .extest | .idcode _ | .samplePreload _ | .wrapper
  | .bistResult | .bypass | .wsBypass _ | .wsExtest _ | .wsIntestScan _ | .wsIntestRing _ | .carrelCommandsComplete _ | .porstNLow
  | .idleExit | .trainingDone none => true

end Sys2Proof
end

