-- ==== Sys2Proof/Tests/Slice0.lean ====
section
/-!
SUPPORT. Tests of the model on small states, and for every statement with hypotheses states and operands that meet them: a witness
names its statement and has one conjunct per clause.
-/
namespace Sys2Proof.Machine.Tests
open Sys2Proof Sys2Proof.Machine

set_option Elab.async false

/-! ### Small states -/

/-- The cold hardware with its clock locked and some registers written, `f` done to it, and nothing waiting. -/
def st (regs : List (Nat × W32)) (f : Hw → Hw) : State :=
  ⟨[], f { hwCold with regs := regs.foldl (fun t p => tabPut regReset p.1 p.2 t) [], clk := { hwCold.clk with lock := true } }⟩

/-- The same before the clock has locked. -/
def unlocked (s : State) : State := { s with hw := { s.hw with clk := { s.hw.clk with lock := false } } }

/-- Core 0 as `f` makes it. -/
def at0 (regs : List (Nat × W32)) (f : Core → Core) : State := st regs (fun h => h.setCore 0 (f coreFresh))

/-- Core 0 runs at pc 0, where the word `w` stands in resident code, and is changed by `f`. -/
def runRegs (regs : List (Nat × W32)) (w : W32) (f : Core → Core) : State :=
  at0 ((0x1000620, 1#32) :: (0x1000628, 128#32) :: regs) (fun c => f { c with
    st := .run
    icode := ((leBytes w.toNat 4).mapIdx (fun i b => (i, b))).foldl (fun t p => tabPut memReset p.1 p.2 t) [] })

def run0 (w : W32) (f : Core → Core) : State := runRegs [] w f

/-- KC runs at 0x20_0000_0000, where the word `w` stands in CSM, and the hardware is changed by `f`. -/
def runKc (regs : List (Nat × W32)) (w : W32) (f : Hw → Hw) : State :=
  st regs (fun h => f ((h.modKc (fun k => { k with on := true, pc := 0x2000000000 })).store 0x2000000000 (leBytes w.toNat 4)))

/-- Engine 0 of the carrels runs, and the record `r` stands at the start of its list. -/
def runCar (regs : List (Nat × W32)) (r : CarRec) (f : Hw → Hw) : State :=
  st regs (fun h => f ((h.modCar 0 (fun e => { e with st := .run })).store 0x3800000000
    ([r.w0, r.w1, r.w2, r.w3, r.w4, r.w5, r.w6, r.w7].flatMap (fun w => leBytes w.toNat 4))))

/-- Firmware runs in READY, and the hardware is changed by `f`. -/
def runFw (regs : List (Nat × W32)) (f : Hw → Hw) : State :=
  st ((4, 4#32) :: regs) (fun h => f (h.modKc (fun k => { k with on := true })))

/-- An instruction word of a class, from its fields: place and value of each. -/
def word (cls : Nat) (fs : List (Nat × Nat)) : W32 := BitVec.ofNat 32 (cls * 2 ^ 27 + (fs.map (fun p => p.2 * 2 ^ p.1)).sum)

/-- Format R: class, rd, rs1, rs2, func. -/
def wR (cls rd rs1 rs2 func : Nat) : W32 := word cls [(22, rd), (17, rs1), (12, rs2), (0, func)]

/-- The hardware, and core 0, as that core issues the word `w`, and the cycle in which it does. -/
def iss (s : State) (w : W32) : Hw := issued s 0 w
def cr (s : State) (w : W32) : Core := (iss s w).core 0
def cy (s : State) (w : W32) : Nat := issueCyc (cr s w) w

/-- Registers 1 and 2 of file g hold values. -/
def withG (a b : W64) (c : Core) : Core := { c with g := (c.g.set 1 a).set 2 b }

/-- What makes a command's end quiet, in one decidable whole. -/
theorem quiet_of {s : State} {h : Hw} (q : Tables.wf h ∧ noticePoints s.hw h = [] ∧ (h.now ≤ s.hw.now ∨ MeterFits h) ∧ powerHolds h = true ∧
    (h.bmc.busy = true ∨ s.hw.bmc.busy = false)) : Quiet s h := ⟨q.1, q.2.1, q.2.2.1, q.2.2.2.1, q.2.2.2.2⟩

/-- What a command leaves, as far as `f` looks. -/
def after {α : Type} (o : Host.Outcome State Fault Refusal) (f : Hw → α) : Option α :=
  match o with
  | .next t => some (f t.hw)
  | .fault _ | .refused _ => none

/-! ### Witnesses: the block as a whole, scalar and vector instructions -/

theorem witness_empty_queue :
    State.reset.pending = [] := by
  decide +kernel

theorem witness_canonical : Tables.wf (run0 (wR 0 3 1 2 0) (withG 5 7)).hw ∧ ∃ t, exec (.coreStop 0 .kc) (at0 [] id) = .next t :=
  ⟨by unfold Tables.wf; decide +kernel, _, rfl⟩

theorem witness_memory :
    Memory.wf (runKc [] 0#32 id).hw ∧
    physOf (runKc [] 0#32 id).hw 1 ≠ physOf (runKc [] 0#32 id).hw 0 ∧
    physOf (runKc [] 0#32 id).hw 0x1000000000 = physOf (runKc [] 0#32 id).hw 0 := by
  (repeat' with_reducible apply And.intro) <;> decide +kernel

def addW : W32 := wR 0 3 1 2 0
def addState : State := run0 addW (withG 5 7)

theorem witness_core_values :
    Issues addState 0 addW .add ∧
    Quiet addState (iss addState addW) ∧
    ReadsLanded (cr addState addW) (cy addState addW) [(0, 1), (0, 2)] ∧
    WriteFree (cr addState addW) (cy addState addW) (0, rdOf addW) 1 := by
  (repeat' with_reducible apply And.intro) <;> first
    | decide +kernel
    | (unfold Issues; decide +kernel)
    | exact quiet_of (by unfold Tables.wf MeterFits; decide +kernel)
    | (unfold ReadsLanded; decide +kernel)
    | (unfold WriteFree; decide +kernel)

/-- The words of every scalar and vector instruction of one shape, in the order of their rows: a core reads each as its instruction. -/
theorem witness_words_of_rows :
    ((List.range 14).map (fun f => wR 0 3 1 2 f) ++ [wR 0 3 1 2 0x10, wR 0 3 1 2 0x11] ++ (List.range 3).map (fun f => wR 7 3 1 2 f) ++
      (List.range 8).map (fun f => word 1 [(22, 3), (17, 1), (13, f), (0, 5)]) ++ (List.range 3).map (fun f => wR 7 3 1 2 (f + 0x10)) ++
      (List.range 3).map (fun f => word 6 [(22, 3), (4, 9), (0, f)]) ++ [wR 0x1E 3 0 7 0, wR 0x1E 3 0 8 0]).map decodeCore =
        valueRows.map (fun r => some r.mn) ∧
    ((List.range 4).map (fun f => wR 7 3 1 2 (f + 4))).map decodeCore = divRows.map (fun r => some r.2.1) ∧
    ((List.range 6).map (fun f => word 4 [(22, 3), (17, 1), (14, f), (0, 4)])).map decodeCore = branchRows.map (fun r => some r.2.1) ∧
    ((List.range 7).map (fun f => word 2 [(22, 3), (17, 1), (14, f)]) ++ [0, 2, 3].map (fun f => word 0xC [(22, 3), (17, 1), (14, f)])).map
      decodeCore = loadRows.map (fun r => some r.mn) ∧
    ((List.range 4).map (fun f => word 3 [(22, 3), (17, 1), (14, f)]) ++ [word 0xC [(22, 3), (17, 1), (14, 1)]]).map decodeCore =
      storeRows.map (fun r => some r.mn) ∧
    ((List.range 7).map (fun f => wR 9 3 1 2 f) ++ (List.range 4).map (fun f => wR 0xF 3 1 2 (4 * f)) ++
      (List.range 9).map (fun f => wR 0xA 3 1 2 f) ++ (List.range 4).map (fun f => wR 0xB 3 1 2 f) ++
      (List.range 3).map (fun f => wR 0xB 3 1 2 (f + 8)) ++ (List.range 4).map (fun f => wR 0xB 3 1 2 (f + 0x10)) ++
      (List.range 3).map (fun f => wR 0xD 3 1 2 f) ++ (List.range 3).map (fun f => wR 0xD 3 1 2 (f + 0x10)) ++
      (List.range 5).map (fun f => wR 0xE 3 1 2 f) ++ [0x10, 0x12, 0x14, 0x15].map (fun f => wR 0xE 3 1 2 f)).map decodeCore =
        vecRows.map (fun r => some r.mn) := by
  decide +kernel

def divW : W32 := wR 7 3 1 2 4
def divState : State := run0 divW (withG 5 0)

theorem witness_core_divisions :
    Issues divState 0 divW .div ∧
    ReadsLanded (cr divState divW) (cy divState divW) [(0, 1), (0, 2)] ∧
    (cr divState divW).divFree ≤ cy divState divW ∧
    WriteFree (cr divState divW) (cy divState divW) (0, 3) 20 ∧
    Quiet divState (iss divState divW) ∧
    Issues (run0 divW (fun c => { c with divFree := 1 })) 0 divW .div ∧
    cy (run0 divW (fun c => { c with divFree := 1 })) divW < (cr (run0 divW (fun c => { c with divFree := 1 })) divW).divFree := by
  (repeat' with_reducible apply And.intro) <;> first
    | decide +kernel
    | (unfold Issues; decide +kernel)
    | (unfold ReadsLanded; decide +kernel)
    | (unfold WriteFree; decide +kernel)
    | exact quiet_of (by unfold Tables.wf MeterFits; decide +kernel)

theorem witness_division_corners :
    KcRuns (runKc [] divW id) divW .div ∧
    Quiet (runKc [] divW id) (kcFinds (runKc [] divW id)) ∧
    Issues (run0 (wR 7 3 1 2 7) (withG 5 0)) 0 (wR 7 3 1 2 7) .remu := by
  (repeat' with_reducible apply And.intro) <;> first
    | decide +kernel
    | (unfold KcRuns; decide +kernel)
    | exact quiet_of (by unfold Tables.wf MeterFits; decide +kernel)
    | (unfold Issues; decide +kernel)

def beqW : W32 := word 4 [(22, 1), (17, 2), (14, 0), (0, 4)]
def bneW : W32 := word 4 [(22, 1), (17, 2), (14, 1), (0, 4)]
def jalW : W32 := word 5 [(22, 3), (0, 0x3FFFFF)]
def jalrW : W32 := wR 0 3 1 0 0x40

theorem witness_control_transfers :
    Issues (run0 beqW (withG 5 5)) 0 beqW .beq ∧
    Quiet (run0 beqW (withG 5 5)) (iss (run0 beqW (withG 5 5)) beqW) ∧
    ReadsLanded (cr (run0 beqW (withG 5 5)) beqW) (cy (run0 beqW (withG 5 5)) beqW) [(0, rdOf beqW), (0, rs1Of beqW)] ∧
    xBeq ((cr (run0 beqW (withG 5 5)) beqW).gr 1) ((cr (run0 beqW (withG 5 5)) beqW).gr 2) = true ∧
    Issues (run0 bneW (withG 5 5)) 0 bneW .bne ∧
    xBne ((cr (run0 bneW (withG 5 5)) bneW).gr 1) ((cr (run0 bneW (withG 5 5)) bneW).gr 2) = false ∧
    Issues (run0 jalW id) 0 jalW .jal ∧
    (cr (run0 jalW id) jalW).pc < 2 ^ 41 ∧
    Quiet (run0 jalW id) (iss (run0 jalW id) jalW) ∧
    WriteFree (cr (run0 jalW id) jalW) (cy (run0 jalW id) jalW) (0, 3) 1 ∧
    Issues (run0 jalrW (withG 103 0)) 0 jalrW .jalr ∧
    Quiet (run0 jalrW (withG 103 0)) (iss (run0 jalrW (withG 103 0)) jalrW) ∧
    ReadsLanded (cr (run0 jalrW (withG 103 0)) jalrW) (cy (run0 jalrW (withG 103 0)) jalrW) [(0, 1)] ∧
    WriteFree (cr (run0 jalrW (withG 103 0)) jalrW) (cy (run0 jalrW (withG 103 0)) jalrW) (0, 3) 1 := by
  (repeat' with_reducible apply And.intro) <;> first
    | decide +kernel
    | (unfold Issues; decide +kernel)
    | exact quiet_of (by unfold Tables.wf MeterFits; decide +kernel)
    | (unfold ReadsLanded; decide +kernel)
    | (unfold WriteFree; decide +kernel)

def lddW : W32 := word 2 [(22, 3), (17, 1), (14, 3)]
def ldState : State := run0 lddW (withG 0x2003FFFFF8 7)
def stdW : W32 := word 3 [(22, 2), (17, 1), (14, 3)]
def stdState : State := run0 stdW (withG 0x3000000008 7)

theorem witness_core_loads :
    Issues ldState 0 lddW .ldd ∧
    Quiet ldState (iss ldState lddW) ∧
    ReadsLanded (cr ldState lddW) (cy ldState lddW) [(0, 1)] ∧
    AddressOk (iss ldState lddW) 0 8 (eaM (cr ldState lddW) lddW) ∧
    (cr ldState lddW).rdPort ≤ cy ldState lddW ∧
    WriteFree (cr ldState lddW) (cy ldState lddW) (0, 3) (latMem (iss ldState lddW) 0x2003FFFFF8) ∧
    beatsBad (iss ldState lddW) [readBeat (iss ldState lddW) 0 (iss ldState lddW).nid 0 0 0 0x2003FFFFF8 8] = none ∧
    (iss ldState lddW).chkErr = [] ∧
    handoffFault (iss ldState lddW) 0 0 0x2003FFFFF8 0 false = none := by
  (repeat' with_reducible apply And.intro) <;> first
    | decide +kernel
    | (unfold Issues; decide +kernel)
    | exact quiet_of (by unfold Tables.wf MeterFits; decide +kernel)
    | (unfold ReadsLanded; decide +kernel)
    | (unfold AddressOk; decide +kernel)
    | (unfold WriteFree; decide +kernel)

theorem witness_core_stores :
    Issues stdState 0 stdW .std ∧
    Quiet stdState (iss stdState stdW) ∧
    ReadsLanded (cr stdState stdW) (cy stdState stdW) [(0, 1), (0, 2)] ∧
    AddressOk (iss stdState stdW) 0 8 (eaM (cr stdState stdW) stdW) ∧
    portFree (cr stdState stdW).wrPort 0 1 = true ∧
    beatsBad (iss stdState stdW) [writeBeat (iss stdState stdW) 0 (iss stdState stdW).nid 0 0 0 0x3000000008 (some 0) (atAddr 0x3000000008
      (leBytes 7 8))] = none ∧
    handoffFault (iss stdState stdW) 0 (frameOf (cy stdState stdW + latMem (iss stdState stdW) 0x3000000008)) 0x3000000008 0 true = none := by
  (repeat' with_reducible apply And.intro) <;> first
    | decide +kernel
    | (unfold Issues; decide +kernel)
    | exact quiet_of (by unfold Tables.wf MeterFits; decide +kernel)
    | (unfold ReadsLanded; decide +kernel)
    | (unfold AddressOk; decide +kernel)

theorem witness_kc_values :
    KcRuns (runKc [] (wR 0 9 1 2 0) id) (wR 0 9 1 2 0) .add ∧
    Quiet (runKc [] (wR 0 9 1 2 0) id) (kcFinds (runKc [] (wR 0 9 1 2 0) id)) ∧
    KcRuns (runKc [] (word 6 [(22, 8), (4, 9), (0, 2)]) id) (word 6 [(22, 8), (4, 9), (0, 2)]) .shk ∧
    ((List.range 14).map (fun f => wR 0 3 1 2 f) ++ [wR 0 3 1 2 0x10, wR 0 3 1 2 0x11] ++ (List.range 3).map (fun f => wR 7 3 1 2 f) ++
      (List.range 4).map (fun f => wR 7 3 1 2 (f + 4)) ++ (List.range 8).map (fun f => word 1 [(22, 3), (17, 1), (13, f), (0, 5)]) ++ (List.range
      3).map (fun f => wR 7 3 1 2 (f + 0x10)) ++ (List.range 3).map (fun f => word 6 [(22, 3), (4, 9), (0, f)])).map decodeKc =
      kcRows.map (fun r => some r.mn) := by
  (repeat' with_reducible apply And.intro) <;> first
    | decide +kernel
    | (unfold KcRuns; decide +kernel)
    | exact quiet_of (by unfold Tables.wf MeterFits; decide +kernel)

def vecState (w : W32) : State :=
  runRegs [(0x200004, 0x1FF#32), (0x200018, 0xFFFFFFFF#32), (0x200008, 0xFFFF#32), (0x200000, 0x1FF#32)] w
    (fun c => { c with v := c.v.set 1 (BitVec.ofNat 1024 0x3F800000) })

/-- What the meter sees of the vector instruction `w` of latency `lat`. -/
def charged (w : W32) (lat : Nat) : Hw := chargeVec 0 (cr (vecState w) w).pc (cy (vecState w) w) lat (iss (vecState w) w)

theorem witness_vectors :
    Registers.wf (iss (vecState (wR 8 3 1 2 0)) (wR 8 3 1 2 0)) ∧
    Issues (vecState (wR 8 3 1 2 0)) 0 (wR 8 3 1 2 0) .vadd ∧
    ReadsLanded (cr (vecState (wR 8 3 1 2 0)) (wR 8 3 1 2 0)) (cy (vecState (wR 8 3 1 2 0)) (wR 8 3 1 2 0)) [(1, 1), (1, 2), (2, 0)] ∧
    WriteFree (cr (vecState (wR 8 3 1 2 0)) (wR 8 3 1 2 0)) (cy (vecState (wR 8 3 1 2 0)) (wR 8 3 1 2 0)) (1, 3) 4 ∧
    Quiet (vecState (wR 8 3 1 2 0)) (charged (wR 8 3 1 2 0) 4) := by
  (repeat' with_reducible apply And.intro) <;> first
    | decide +kernel
    | (unfold Issues; decide +kernel)
    | (unfold ReadsLanded; decide +kernel)
    | (unfold WriteFree; decide +kernel)
    | exact quiet_of (by unfold Tables.wf MeterFits; decide +kernel)

theorem witness_vector_divide_and_root :
    Issues (vecState (wR 8 3 1 2 8)) 0 (wR 8 3 1 2 8) .vdiv ∧
    Issues (vecState (wR 8 3 1 2 7)) 0 (wR 8 3 1 2 7) .vsqrt ∧
    ReadsLanded (cr (vecState (wR 8 3 1 2 8)) (wR 8 3 1 2 8)) (cy (vecState (wR 8 3 1 2 8)) (wR 8 3 1 2 8)) [(1, 1), (1, 2), (2, 0)] ∧
    (cr (vecState (wR 8 3 1 2 8)) (wR 8 3 1 2 8)).vdivFree ≤ 0 ∧
    WriteFree (cr (vecState (wR 8 3 1 2 8)) (wR 8 3 1 2 8)) (cy (vecState (wR 8 3 1 2 8)) (wR 8 3 1 2 8)) (1, 3) (divLat (wR 8 3 1 2 8)) ∧
    Quiet (vecState (wR 8 3 1 2 8)) (charged (wR 8 3 1 2 8) (divLat (wR 8 3 1 2 8))) ∧
    cy (run0 (wR 8 3 1 2 8) (fun c => { c with vdivFree := 1 })) (wR 8 3 1 2 8) <
      (cr (run0 (wR 8 3 1 2 8) (fun c => { c with vdivFree := 1 })) (wR 8 3 1 2 8)).vdivFree := by
  (repeat' with_reducible apply And.intro) <;> first
    | decide +kernel
    | (unfold Issues; decide +kernel)
    | (unfold ReadsLanded; decide +kernel)
    | (unfold WriteFree; decide +kernel)
    | exact quiet_of (by unfold Tables.wf MeterFits; decide +kernel)

theorem witness_end_of_every_command :
    hwCold.now ≤ hwCold.now ∧
    MeterFits hwCold ∧
    noticePoints hwCold hwCold = [] ∧
    nbit ((irq 3 hwCold).reg 0xD00040).toNat 3 = true ∧
    wasReset hwCold hwCold = false ∧
    noticeSources hwCold { hwCold with hold := { holdFresh with held := true } } = [0x19] ∧
    offAccepted hwCold = false ∧
    offAccepted (st [(0x200034, 8#32)] id).hw = true ∧
    (hwCold.bmc.busy = false ∧ powerHolds hwCold = true) ∧
    pwrRefuse { (run0 0 id).hw with boot := { (run0 0 id).hw.boot with pwrReq := some 2 } } 2 ≠ 0 := by
  (repeat' with_reducible apply And.intro) <;> first
    | decide +kernel
    | (unfold MeterFits; decide +kernel)

/-! ### Witnesses: system instructions, semaphores and transfers of a core -/

def sysW (op imm : Nat) : W32 := wR 0x1E 3 1 op imm
def sysState (op imm : Nat) : State := run0 (sysW op imm) id
def idling : State := at0 [] (fun c => { c with st := .run, idle := some 9 })

theorem witness_core_system :
    Issues (sysState 0 9) 0 (sysW 0 9) .trap ∧
    (cr (sysState 0 9) (sysW 0 9)).inTrap = false ∧
    (cr (run0 (sysW 0 9) (fun c => { c with inTrap := true })) (sysW 0 9)).inTrap = true ∧
    Issues (run0 (sysW 0 9) (fun c => { c with inTrap := true })) 0 (sysW 0 9) .trap ∧
    Issues (sysState 1 0) 0 (sysW 1 0) .eret ∧
    Issues (run0 (sysW 2 0) (fun c => { c with stores := [⟨1, 0, 40, [0]⟩] })) 0 (sysW 2 0) .fence ∧
    Issues (sysState 3 4095) 0 (sysW 3 4095) .idle ∧
    Issues (sysState 4 0) 0 (sysW 4 0) .halt ∧
    ((idling.hw.core 0).idle = some 9 ∧ (idling.hw.core 0).st = .run ∧ partnerWaits (idling.hw.core 0) = false) ∧
    ((sysState 3 0).hw.core 0).idle = none ∧
    Issues (sysState 5 0x10A) 0 (sysW 5 0x10A) .mfsr ∧
    WriteFree (cr (sysState 5 0x10A) (sysW 5 0x10A)) (cy (sysState 5 0x10A) (sysW 5 0x10A)) (0, 3) 2 ∧
    Issues (sysState 6 8) 0 (sysW 6 8) .mtsr ∧
    ReadsLanded (cr (sysState 6 8) (sysW 6 8)) (cy (sysState 6 8) (sysW 6 8)) [(0, 1)] ∧
    ¬(0x200 ≤ 4 * imm12Of (sysW 6 8)) ∧
    Issues (run0 (sysW 6 0x80) (fun c => { c with ast := .run })) 0 (sysW 6 0x80) .mtsr ∧
    (cr (run0 (sysW 6 0x80) (fun c => { c with ast := .run })) (sysW 6 0x80)).ast ≠ .idle ∧
    0x200 ≤ 4 * imm12Of (sysW 6 0x80) ∧
    Issues (run0 (sysW 6 0x8F) (fun c => { c with ast := .stalled })) 0 (sysW 6 0x8F) .mtsr ∧
    4 * imm12Of (sysW 6 0x8F) < 0x240 := by
  (repeat' with_reducible apply And.intro) <;> first
    | decide +kernel
    | (unfold Issues; decide +kernel)
    | (unfold WriteFree; decide +kernel)
    | (unfold ReadsLanded; decide +kernel)

def semW (op imm : Nat) : W32 := wR 0x18 3 1 op imm
def semRun (w : W32) (a : W64) (regs : List (Nat × W32)) : State :=
  runRegs ([(0x500200, 2#32), (0x5003FC, 0x80000000#32)] ++ regs) w (withG a 0)

/-- The block as the takes of lower units, and what came by then, leave it at a STAKE. -/
def stakeSees (s : State) : Hw :=
  serveTakes (cy s (semW 2 1)) 0 (syncTo (cy s (semW 2 1)) (advance 0 (semW 2 1) (cy s (semW 2 1))
    (enterLanding 0 (cy s (semW 2 1)) 2 (0, 3) (iss s (semW 2 1)))))

def stakeRich : State :=
  ⟨[], setSem 1 1 (semRun (semW 2 1) 1 [(0x500000, 1#32)]).hw⟩

theorem witness_signals_takes_waits :
    Issues (semRun (semW 0 1) 4096 []) 0 (semW 0 1) .ssig ∧
    refOf (cr (semRun (semW 0 1) 4096 []) (semW 0 1)) (semW 0 1) = 4096 ∧
    Issues (semRun (semW 1 1) 0 []) 0 (semW 1 1) .swait ∧
    semOn (iss (semRun (semW 1 1) 0 []) (semW 1 1)) 0 = false ∧
    Issues (semRun (semW 0 4095) 4095 []) 0 (semW 0 4095) .ssig ∧
    ReadsLanded (cr (semRun (semW 0 4095) 4095 []) (semW 0 4095)) (cy (semRun (semW 0 4095) 4095 []) (semW 0 4095)) [(0, 1)] ∧
    refOf (cr (semRun (semW 0 4095) 4095 []) (semW 0 4095)) (semW 0 4095) = 4095 ∧
    semOn (iss (semRun (semW 0 4095) 4095 []) (semW 0 4095)) 4095 = true ∧
    Issues (semRun (semW 1 1) 1 []) 0 (semW 1 1) .swait ∧
    semOn (iss (semRun (semW 1 1) 1 []) (semW 1 1)) 1 = true ∧
    Issues (semRun (semW 2 1) 1 []) 0 (semW 2 1) .stake ∧
    WriteFree (cr (semRun (semW 2 1) 1 []) (semW 2 1)) (cy (semRun (semW 2 1) 1 []) (semW 2 1)) (0, 3) 2 ∧
    avail (stakeSees (semRun (semW 2 1) 1 [])) 0 (cy (semRun (semW 2 1) 1 []) (semW 2 1)) 1 < 1 ∧
    Issues stakeRich 0 (semW 2 1) .stake ∧
    1 ≤ avail (stakeSees stakeRich) 0 (cy stakeRich (semW 2 1)) 1 ∧
    nbit ((iss (semRun (semW 2 1) 1 []) (semW 2 1)).reg 0x500000).toNat 0 = false ∧
    nbit ((iss stakeRich (semW 2 1)).reg 0x500000).toNat 0 = true := by
  (repeat' with_reducible apply And.intro) <;> first
    | decide +kernel
    | (unfold Issues; decide +kernel)
    | (unfold ReadsLanded; decide +kernel)
    | (unfold WriteFree; decide +kernel)

def waiting : State := at0 [] (fun c => { c with st := .wait, wait := some ⟨1, 1, 0, 0⟩ })
def barW : W32 := wR 0x18 3 1 3 0
def barRun (a : W64) (f : Barrier → Barrier) : State :=
  ⟨[], ((runRegs [(0x508000, 0x01020001#32), (0x500200, 2#32)] barW (withG a 0)).hw).modBar 0 f⟩
def barSees (s : State) : Hw := syncTo (cy s barW) (iss s barW)

theorem witness_waits_and_arrivals :
    (waiting.hw.core 0).wait = some ⟨1, 1, 0, 0⟩ ∧
    waiters waiting.hw = [(0, 0, ⟨1, 1, 0, 0⟩)] ∧
    (waiting.hw.sync.signals = [] ∧ waiting.hw.sync.arrivals = []) ∧
    waiting.hw.hold.held = false ∧
    semVal waiting.hw 1 < 1 ∧
    (1 ≤ semVal (setSem 1 1 waiting.hw) 1 ∧ waiters (setSem 1 1 waiting.hw) = [(0, 0, ⟨1, 1, 0, 0⟩)]) ∧
    Issues (barRun 0x1040 id) 0 barW .barr ∧
    ¬(refOf (cr (barRun 0x1040 id) barW) barW % 4096 < 64) ∧
    refOf (cr (barRun 0x103F id) barW) barW / 4096 = 1 ∧
    arrivalBad (barSees (barRun 0x103F id)) 63 = some (2 ^ 24 + 63) ∧
    Issues (barRun 0x1000 id) 0 barW .barr ∧
    ReadsLanded (cr (barRun 0x1000 id) barW) (cy (barRun 0x1000 id) barW) [(0, 1)] ∧
    arrivalBad (barSees (barRun 0x1000 (fun b => { b with waitup := true }))) 0 = none ∧
    ((barSees (barRun 0x1000 (fun b => { b with waitup := true }))).bar 0).waitup = true ∧
    arrivalBad (barSees (barRun 0x1000 id)) 0 = none ∧
    ((barSees (barRun 0x1000 id)).bar 0).waitup = false ∧
    ((barSees (barRun 0x1000 id)).bar 0).cnt + 1 ≠ barExpect (barSees (barRun 0x1000 id)) 0 ∧
    arrivalBad (barSees (barRun 0x1000 (fun b => { b with cnt := 1 }))) 0 = none ∧
    ((barSees (barRun 0x1000 (fun b => { b with cnt := 1 }))).bar 0).cnt + 1 =
      barExpect (barSees (barRun 0x1000 (fun b => { b with cnt := 1 }))) 0 ∧
    barScope (barSees (barRun 0x1000 (fun b => { b with cnt := 1 }))) 0 = 1 ∧
    semOn (barSees (barRun 0x1000 (fun b => { b with cnt := 1 }))) (barRsem (barSees (barRun 0x1000 (fun b => { b with cnt := 1 }))) 0) = true := by
  (repeat' with_reducible apply And.intro) <;> first
    | decide +kernel
    | (unfold Issues; decide +kernel)
    | (unfold ReadsLanded; decide +kernel)

def txqW : W32 := wR 0x1A 3 1 0 0
def txqState (a : W64) (f : TeCh → TeCh) : State := ⟨[], (run0 txqW (withG a 0)).hw.modTe 0 f⟩

theorem witness_core_enqueues :
    Issues (txqState 0x3000000040 id) 0 txqW .txq ∧
    ReadsLanded (cr (txqState 0x3000000040 id) txqW) (cy (txqState 0x3000000040 id) txqW) [(0, 1)] ∧
    WriteFree (cr (txqState 0x3000000040 id) txqW) (cy (txqState 0x3000000040 id) txqW) (0, 3) 2 ∧
    ¬(8 ≤ ((iss (txqState 0x3000000040 id) txqW).te 0).held.length) ∧
    regionOf (iss (txqState 0x3000000040 id) txqW) 0x3000000040 = .lm 0 ∧
    regionOf (iss (txqState 0x2003FFFFC0 id) txqW) 0x2003FFFFC0 = .csm ∧
    regionOf (iss (txqState 0x3000400000 id) txqW) 0x3000400000 = .lm 1 ∧
    Issues (txqState 0 (fun c => { c with held := List.replicate 8 ⟨[], 0, 0, false, 0, none⟩ })) 0 txqW .txq ∧
    8 ≤ ((iss (txqState 0 (fun c => { c with held := List.replicate 8 ⟨[], 0, 0, false, 0, none⟩ })) txqW).te 0).held.length ∧
    ((iss (txqState 0 (fun c => { c with st := .stopping })) txqW).te 0).st = .stopping := by
  (repeat' with_reducible apply And.intro) <;> first
    | decide +kernel
    | (unfold Issues; decide +kernel)
    | (unfold ReadsLanded; decide +kernel)
    | (unfold WriteFree; decide +kernel)

/-! ### Witnesses: loads, stores, starts and stops of a core, caches -/

def load1 (alloc drop : Bool) : LoadOp := ⟨1, 0, 5, 0x2000000000, .g 3 8 false, alloc, drop, drop⟩
def loading (o : LoadOp) (bad : Bool) : State :=
  ⟨[], { (at0 [] (fun c => { c with loads := [o] })).hw with got := [⟨1, 0x2000000000, List.replicate 8 7, if bad then some 0x2000000000 else none⟩] }⟩
def landed (s : State) : Hw := settle 5 (walkTo 0 4 (s.begun.at 5))
def store1 : StoreOp := ⟨2, 0, 5, [0x3000000000]⟩
def storing (bad : Bool) : State :=
  ⟨[], { (at0 [] (fun c => { c with stores := [store1] })).hw with got := if bad then [⟨2, 0x3000000000, [], some 0x3000000000⟩] else [] }⟩

theorem witness_loads_and_stores_complete :
    firstLoad ((loading (load1 false false) false).hw.core 0).loads = some (load1 false false) ∧
    ((gotOf (landed (loading (load1 false false) false)) 1).map (fun g => g.bytes.length)).sum = 8 ∧
    gotBad (gotOf (landed (loading (load1 false false) false)) 1) = none ∧
    gotBad (gotOf (landed (loading (load1 false false) true)) 1) = some 0x2000000000 ∧
    ((landed (loading (load1 true false) false)).core 0).loads = [load1 true false] ∧
    ((landed (loading (load1 true true) false)).core 0).loads = [load1 true true] ∧
    (gotOf (landed ⟨[], { (loading (load1 false false) false).hw with got := [] }⟩) 1).map (fun g => g.bytes.length) = [] ∧
    (((at0 [] id).hw.core 0).loads = [] ∧ ((at0 [] id).hw.core 0).stores = []) ∧
    firstStore ((storing false).hw.core 0).stores = some store1 ∧
    gotBad (gotOf (settle 5 ((storing false).begun.at 5)) 2) = none ∧
    gotBad (gotOf (settle 5 ((storing true).begun.at 5)) 2) = some 0x3000000000 := by
  (repeat' with_reducible apply And.intro) <;> decide +kernel

def phaseNow (h : Hw) : Hw := { h with rcd := { h.rcd with phaseSeen := true } }

def armable : State := at0 [(0x1000018, 1#32), (0x1000620, 1#32)] id
def armedSt (f : Hw → Hw) : State := ⟨[], f (at0 [] (fun c => { c with st := .armed })).hw⟩

theorem witness_cores_start :
    CoreReaches .kc 0 armable ∧
    CoreReaches (.host 5) 0 (at0 [] id) ∧
    awake armable.hw = true ∧
    (armable.hw.core 0).st = .idle ∧
    nbit (armable.hw.reg (coreReg 0 0x620)).toNat 0 = true ∧
    armable.hw.frame < armable.hw.reg64 (coreReg 0 0x18) ∧
    (at0 [(0x1000620, 1#32)] id).hw.reg64 (coreReg 0 0x18) ≤ (at0 [(0x1000620, 1#32)] id).hw.frame ∧
    nbit ((at0 [] id).hw.reg (coreReg 0 0x620)).toNat 0 = false ∧
    Reaches .kc (st [] (fun h => { h with coreEn := 0xFE })) ∧
    coreOn (st [] (fun h => { h with coreEn := 0xFE })).hw 0 = false ∧
    ((armedSt id).hw.core 0).st = .armed ∧
    ((armedSt id).hw.reg64 (coreReg 0 0x18) = 0 ∧ (armedSt id).hw.frame = 0) ∧
    atBoundary (armedSt phaseNow).hw = true ∧
    atBoundary (armedSt id).hw = false ∧
    ((at0 [] id).hw.core 0).st ≠ .armed := by
  (repeat' with_reducible apply And.intro) <;> first
    | decide +kernel
    | (unfold CoreReaches Reaches; decide +kernel)
    | (unfold Reaches; decide +kernel)

def drains (f : Core → Core) : State := at0 [] f
def drainSees (s : State) : Hw := sendsDue (rowsTo 0 (drainCyc (s.hw.core 0)) (s.begun.at (drainCyc (s.hw.core 0))))

theorem witness_cores_stop :
    CoreReaches .kc 0 (at0 [] (fun c => { c with st := .run })) ∧
    ((syncTo 0 (armedSt id).begun).core 0).st = .armed ∧
    ((syncTo 0 (at0 [] (fun c => { c with st := .run })).begun).core 0).st = .run ∧
    ((syncTo 0 (at0 [] (fun c => { c with st := .run })).begun).core 0).halting = false ∧
    ((syncTo 0 waiting.begun).core 0).wait = some ⟨1, 1, 0, 0⟩ ∧
    ((syncTo 0 (at0 [] (fun c => { c with st := .run, halting := true })).begun).core 0).halting = true ∧
    ((syncTo 0 (at0 [] id).begun).core 0).st = .idle ∧
    ((drains (fun c => { c with st := .stopping })).hw.core 0).st = .stopping ∧
    ((drainSees (drains (fun c => { c with st := .stopping }))).core 0).st = .stopping ∧
    ((drains (fun c => { c with st := .run, halting := true })).hw.core 0).halting = true ∧
    ((drainSees (drains (fun c => { c with st := .run, halting := true }))).core 0).st = .run ∧
    ((loading (load1 false false) false).hw.core 0).loads ≠ [] := by
  (repeat' with_reducible apply And.intro) <;> first
    | decide +kernel
    | (unfold CoreReaches Reaches; decide +kernel)

def rangeAt (base : Nat) (len : W32) (f : Core → Core) : State := at0 [(0x1000608, BitVec.ofNat 32 base), (0x100060C, 0x30#32), (0x1000610, len)] f
def ranging (r : RangeOp) : State := at0 [] (fun c => { c with range := some r })
def range1 (op : Nat) (walk : Option Nat) : RangeOp := ⟨op, 0x3000000000, 128, 1, [], walk, 0, 0⟩
def preloading (done : Bool) : State :=
  ⟨[], { (ranging (range1 3 none)).hw with
    bg := [{ bgNew hwCold 0 (if done then [] else readAccs hwCold 0x3000000000 128) (.code 0) with got := if done then List.replicate 128 0 else [] }] }⟩

theorem witness_range_operations :
    CoreReaches (.host 0) 0 (rangeAt 128 0x10000#32 id) ∧
    ((rangeAt 128 0x10000#32 id).hw.core 0).range = none ∧
    (rangeAt 128 0x10000#32 id).hw.reg64 (coreReg 0 0x608) % 128 = 0 ∧
    ((rangeAt 128 0x10000#32 id).hw.reg (coreReg 0 0x610)).toNat = 0x10000 ∧
    ((rangeAt 128 0x10000#32 id).hw.core 0).st = .idle ∧
    codePlace (rangeAt 128 0x10000#32 id).hw 0 ⟨3, 0x3000000080, 0x10000, 1, [], none, 0, 0⟩ = true ∧
    codePlace (rangeAt 128 0x10000#32 id).hw 0 ⟨3, 0x3800000080, 0x10000, 1, [], none, 0, 0⟩ = false ∧
    ((rangeAt 128 0#32 id).hw.reg (coreReg 0 0x610)).toNat = 0 ∧
    (((ranging (range1 1 none)).hw.core 0).range = some (range1 1 none) ∧ ((ranging (range1 1 none)).hw.core 0).stores = []) ∧
    ((walkTo 0 (3 + walkLen (range1 0 (some 3)) - 1) ((ranging (range1 0 (some 3))).begun.at (3 + walkLen (range1 0 (some 3))))).core 0).loads =
      [] ∧
    markedFill hwCold (range1 0 (some 3)) { load1 true true with addr := 0x3000000000, rng := true } = true ∧
    bgDone (preloading true).hw (.code 0) = some { bgNew hwCold 0 [] (.code 0) with got := List.replicate 128 0 } ∧
    bgDone (preloading false).hw (.code 0) = none ∧
    codePlace (preloading true).hw 0 (range1 3 none) = true ∧
    codePlace (ranging ⟨3, 0x3800000000, 128, 1, [], none, 0, 0⟩).hw 0 ⟨3, 0x3800000000, 128, 1, [], none, 0, 0⟩ = false ∧
    ((ranging ⟨0, 0, 1, 1, [7], none, 0, 0⟩).hw.core 0).range = some ⟨0, 0, 1, 1, [7], none, 0, 0⟩ := by
  (repeat' with_reducible apply And.intro) <;> first
    | decide +kernel
    | (unfold CoreReaches Reaches; decide +kernel)

def streaming : State := at0 [(0x1000600, 7#32)] (fun c => { c with streams := [⟨0, 0x60000000, 1, 1, 3⟩] })
def softState : State := st [] (fun h => { h with soft := [0x2000000008] })

theorem witness_line_maintenance :
    CoreReaches .kc 0 (at0 [] id) ∧
    (((at0 [] id).hw.core 0).st = .idle ∧ ((at0 [] id).hw.core 0).ast = .idle ∧ ((at0 [] id).hw.core 0).range = none) ∧
    ((at0 [] (fun c => { c with ast := .stalled })).hw.core 0).ast ≠ .idle ∧
    tabGet (fun _ => none) ((at0 [] id).hw.core 0).dlines 511 = none ∧
    tabGet (fun _ => none) ((at0 [] (fun c => { c with dlines := [(511, some ⟨5, true, 0⟩)] })).hw.core 0).dlines 511 = some ⟨5, true, 0⟩ ∧
    dcctl streaming.hw 0 2 = true ∧
    (streaming.hw.core 0).streams = [⟨0, 0x60000000, 1, 1, 3⟩] ∧
    invalidating (streaming.hw.core 0) 4 = false ∧
    dcctl (at0 [] id).hw 0 2 = false ∧
    wordSize (wordOf 0x200000000F) = 8 ∧
    wordOf 0x200000000F ∈ softState.hw.soft ∧
    wordOf 0 ∉ softState.hw.soft := by
  (repeat' with_reducible apply And.intro) <;> first
    | decide +kernel
    | (unfold CoreReaches Reaches; decide +kernel)

/-! ### Witnesses: the array of a core -/

/-- A folio in use: role, format, M or N and K. -/
def folioOf (role fmt mn k : Nat) : Folio :=
  { folioFresh with fcfg := word 0x10 [(22, role), (19, fmt), (12, mn - 1), (5, k - 1)], inUse := true }

/-- Folio 0 takes part A and folio 1 part B of an operation. -/
def withFolios (c : Core) : Core := { c with folios := (c.folios.set 0 (folioOf 0 0 32 32)).set 1 (folioOf 1 0 32 32) }

def fcfgW (fmt mn : Nat) : W32 := word 0x10 [(24, 7), (22, 0), (19, fmt), (12, mn - 1), (5, 127)]
def frelW : W32 := word 0x13 [(16, 0xFF)]
def busy7 (c : Core) : Core := { c with folios := c.folios.set 7 { folioFresh with busy := [(0, 0, 1)] } }

theorem witness_folios_are_configured :
    Issues (run0 (fcfgW 0 64) id) 0 (fcfgW 0 64) .fcfg ∧
    ((cr (run0 (fcfgW 0 64) id) (fcfgW 0 64)).fol 7).busyAt (cy (run0 (fcfgW 0 64) id) (fcfgW 0 64)) = false ∧
    fcfgBad (fcfgW 0 64) ((cr (run0 (fcfgW 0 64) id) (fcfgW 0 64)).fol 7).inUse = none ∧
    fcfgBad (fcfgW 3 33) false = some 0x01 ∧
    Issues (run0 (fcfgW 3 33) id) 0 (fcfgW 3 33) .fcfg ∧
    Issues (run0 (fcfgW 0 64) busy7) 0 (fcfgW 0 64) .fcfg ∧
    ((cr (run0 (fcfgW 0 64) busy7) (fcfgW 0 64)).fol 7).busyAt (cy (run0 (fcfgW 0 64) busy7) (fcfgW 0 64)) = true ∧
    Issues (run0 frelW id) 0 frelW .frel ∧
    (∀ g ∈ maskFolios 0xFF, ((cr (run0 frelW id) frelW).fol g).busyAt (cy (run0 frelW id) frelW) = false) ∧
    Issues (run0 frelW busy7) 0 frelW .frel ∧
    (maskFolios 0xFF).find? (fun g => ((cr (run0 frelW busy7) frelW).fol g).busyAt 0) = some 7 := by
  (repeat' with_reducible apply And.intro) <;> first
    | decide +kernel
    | (unfold Issues; decide +kernel)

def fldW : W32 := word 0x11 [(24, 0), (19, 1), (14, 2)]
def fldxW : W32 := word 0x11 [(24, 0), (19, 1), (14, 2), (8, 1)]
def fstW : W32 := word 0x12 [(24, 0), (19, 1), (14, 2)]
def fstxW : W32 := word 0x12 [(24, 0), (19, 1), (14, 2), (8, 1)]
/-- Folio 0 of one row and one column as `f`, and registers 1 and 2 with base and pitch. -/
def foState (w : W32) (f : Folio) : State := run0 w (fun c => withG 0x3000000000 128 { c with folios := c.folios.set 0 f })
def fldState : State := foState fldW { folioOf 0 0 1 1 with inUse := false }
def fstState : State := foState fstW (folioOf 0 0 1 1)
def fldxState : State := foState fldxW (folioOf 0 1 1 1)
def fold1 : FolioLoad := ⟨1, 0, 0, false, 0, false, 0x3000000000, 128, 5⟩
def folding (bad : Bool) : State := ⟨[], { (at0 [] (fun c => { c with folios := c.folios.set 0 (folioOf 0 0 1 1), floads := [fold1] })).hw with
  got := [⟨1, 0x3000000000, [1, 2], if bad then some 0x3000000000 else none⟩] }⟩

theorem witness_folio_transfers :
    Issues fldState 0 fldW .fld ∧
    ReadsLanded (cr fldState fldW) (cy fldState fldW) [(0, fxRs1 fldW), (0, fxRs2 fldW)] ∧
    xferFault 0 0 (iss fldState fldW) 0 ((cr fldState fldW).fol 0) true false false 0 0x3000000000 128 = none ∧
    ((cr fldState fldW).fol 0).busyAt 0 = false ∧
    ((cr fldState fldW).fol 0).inUse = false ∧
    (cr fldState fldW).rdPort ≤ 0 ∧
    unitCycles (iss fldState fldW) none (xferPieces (xferOf ((cr fldState fldW).fol 0) true false false 0) true false 0x3000000000 128) =
      [(0, 0x3000000000, 2)] ∧
    beatsBad (iss fldState fldW) [readBeat (iss fldState fldW) 0 (iss fldState fldW).nid 0 0 0 0x3000000000 2] = none ∧
    (iss fldState fldW).handoff = [] ∧
    ((cr (foState fldW { folioOf 0 0 1 1 with busy := [(0, 0, 1)] }) fldW).fol 0).busyAt 0 = true ∧
    Issues fldxState 0 fldxW .fldx ∧
    xferFault 0 0 (iss fldxState fldxW) 0 ((cr fldxState fldxW).fol 0) true true false 0 0x3000000000 128 = none ∧
    ((cr fldxState fldxW).fol 0).stripValid = false ∧
    Issues fstState 0 fstW .fst ∧
    xferFault 0 0 (iss fstState fstW) 0 ((cr fstState fstW).fol 0) false false false 0 0x3000000000 128 = none ∧
    ((cr fstState fstW).fol 0).inUse = true ∧
    (((cr fstState fstW).fol 0).landD.a ≤ 0 ∧ ((cr fstState fstW).fol 0).landS.b ≤ 0 ∧ ((cr fstState fstW).fol 0).perr = []) ∧
    portFree (cr fstState fstW).wrPort 0 (xferOf ((cr fstState fstW).fol 0) false false false 0).cycles = true ∧
    beatsBad (iss fstState fstW) [writeBeat (iss fstState fstW) 0 (iss fstState fstW).nid 0 0 0 0x3000000000 none [(0x3000000000, 0),
      (0x3000000001, 0)]] = none ∧
    Issues (foState fstxW { folioOf 0 1 1 1 with stripValid := true }) 0 fstxW .fstx ∧
    ((cr (foState fstxW { folioOf 0 1 1 1 with stripValid := true }) fstxW).fol 0).stripValid = true ∧
    (firstFload ((folding false).hw.core 0).floads = some fold1 ∧ ((folding false).hw.core 0).restore = none) ∧
    ((gotOf (settle 5 ((folding false).begun.at 5)) 1).map (fun g => g.bytes.length)).sum = 2 ∧
    gotBad (gotOf (settle 5 ((folding false).begun.at 5)) 1) = none ∧
    gotBad (gotOf (settle 5 ((folding true).begun.at 5)) 1) = some 0x3000000000 ∧
    (((settle 5 ((folding false).begun.at 5)).core 0).rows = [] ∧ ((settle 5 ((folding false).begun.at 5)).core 0).runs = []) := by
  (repeat' with_reducible apply And.intro) <;> first
    | decide +kernel
    | (unfold Issues; decide +kernel)
    | (unfold ReadsLanded; decide +kernel)

def mmaW : W32 := word 0x14 [(24, 0), (21, 1), (16, 1)]
def mmaState (w : W32) : State := run0 w withFolios

/-- The context in which a first operation is checked: issued in cycle 0, of entry `e`. -/
def ctx0 (e : Option Nat) : MmaCtx := ⟨0, 0, 0, e, none, false, 0, none⟩
def anOp : ArrOp := ⟨0, mmaW, 0, 0, none, folioOf 0 0 32 32, folioOf 1 0 32 32, folioFresh, 0, 0, 0, true, 39⟩
def opState (f : Core → Core) : State := at0 [] (fun c => f { c with ops := [anOp], ast := .run })

theorem witness_operation_checks :
    mmP mmaW = false ∧
    mmaShape 0 (ctx0 none) (strict (mmaState mmaW).hw 0) ((mmaState mmaW).hw.core 0) mmaW = none ∧
    opMode (strict (mmaState mmaW).hw 0) (mmD mmaW) ⟨folioOf 0 0 32 32, folioOf 1 0 32 32, folioOf 0 0 32 32, []⟩ = some 0 ∧
    mmZ mmaW = true ∧
    ((((mmaState mmaW).hw.core 0).fol 1).landD.a ≤ 0 ∧ (((mmaState mmaW).hw.core 0).fol 1).landD.b ≤ 0) ∧
    isRh (((mmaState mmaW).hw.core 0).fol 1).fmt = false ∧
    arrayBusy (mmaState mmaW).hw 0 0 32 false false = false ∧
    (((mmaState mmaW).hw.core 0).bank 0).ardLast = 0 := by
  (repeat' with_reducible apply And.intro) <;> decide +kernel

theorem iss_mma : iss (mmaState mmaW) mmaW = (mmaState mmaW).begun := by decide +kernel

/-- An operation starts: MMA of folios 0 and 1. -/
theorem witness_operations_start :
    Issues (mmaState mmaW) 0 mmaW .mma ∧
      ∃ op ss d h, OpStarts 0 (ctx0 none) mmaW (iss (mmaState mmaW) mmaW) op ss d h :=
  ⟨by unfold Issues; decide +kernel, by rw [iss_mma]; exact ⟨_, _, _, _, fun _ _ => rfl⟩⟩

def seqW : W32 := word 0x14 [(10, 1), (6, 0), (2, 1)]
def seqState : State := runRegs [(0x1000200, mmaW)] seqW withFolios
def seqNext (k : Nat) : State :=
  at0 [(0x1000204, mmaW)] (fun c => withFolios { c with ast := .run, seq := some ⟨seqW, 0, k, 1, 40⟩, arrFree := 40 })
def frsmW : W32 := word 0x13 [(24, 3)]
def frsmState : State :=
  runRegs [(0x1000000 + FSTART, 0x80000010#32), (0x1000000 + ALAUNCH, mmaW)] frsmW (fun c => withFolios { c with ast := .stalled })
def frsmSeq : State :=
  runRegs [(0x1000200, mmaW), (0x1000000 + FSTART, 0x80100010#32), (0x1000000 + ALAUNCH, seqW)] frsmW
    (fun c => withFolios { c with ast := .stalled })

theorem iss_seqState : iss seqState seqW = seqState.begun := by decide +kernel

theorem witness_sequences_start :
    Issues seqState 0 seqW .mmaSeq ∧ arrayBusy (iss seqState seqW) 0 0 (entriesOcc (iss seqState seqW) 0 (mmSe seqW) 1) false false = false ∧
      entryOk (aseqWord (iss seqState seqW) 0 (mmSe seqW)) = true ∧
      (∃ op ss d h, OpStarts 0 (ctx0 (some 0)) (aseqWord (iss seqState seqW) 0 (mmSe seqW)) (iss seqState seqW) op ss d h) ∧
      ((seqNext 1).hw.core 0).seq = some ⟨seqW, 0, 1, 1, 40⟩ ∧ entryOk (aseqWord (seqNext 1).hw 0 1) = true ∧
      meterStops ((seqNext 1).begun.at 40) 0 40 = false ∧
      (∃ op ss d h, OpStarts 0 ⟨0, 40, 40, some 1, none, false, 0, none⟩ (aseqWord (seqNext 1).hw 0 1) ((seqNext 1).begun.at 40) op ss d h) ∧
      entryOk (aseqWord (seqNext 2).hw 0 2) = false :=
  by
  (repeat' with_reducible apply And.intro) <;> first
    | decide +kernel
    | (unfold Issues; decide +kernel)
    | (rw [iss_seqState]; exact ⟨_, _, _, _, fun _ _ => rfl⟩)
    | exact ⟨_, _, _, _, fun _ _ => rfl⟩

theorem iss_frsmState : iss frsmState frsmW = frsmState.begun := by decide +kernel

theorem iss_frsmSeq : iss frsmSeq frsmW = frsmSeq.begun := by decide +kernel

theorem witness_resume :
    Issues frsmState 0 frsmW .frsm ∧ fsValid (iss frsmState frsmW) 0 = true ∧ (cr frsmState frsmW).ast = .stalled ∧
      occupied (iss frsmState frsmW) 0 0 = false ∧ mmS ((iss frsmState frsmW).reg (coreReg 0 ALAUNCH)) = false ∧
      (∃ op ss d h, OpStarts 0 ⟨0, 0, 0, none, none, true, 16, none⟩ (plainMma ((iss frsmState frsmW).reg (coreReg 0 ALAUNCH)))
        (iss frsmState frsmW) op ss d h) ∧
      Issues frsmSeq 0 frsmW .frsm ∧ mmS ((iss frsmSeq frsmW).reg (coreReg 0 ALAUNCH)) = true ∧
      (∃ op ss d h, OpStarts 0 ⟨0, 0, 0, some 0, none, true, 16, none⟩ (aseqWord (iss frsmSeq frsmW) 0 0) (iss frsmSeq frsmW) op ss d h) ∧
      Issues (run0 frsmW id) 0 frsmW .frsm ∧ fsValid (iss (run0 frsmW id) frsmW) 0 = false ∧
      occupied (iss (run0 frsmW (fun c => { c with arrFree := 1 })) frsmW) 0 0 = true ∧
      (cr (runRegs [(0x1000000 + FSTART, 0x80000010#32)] frsmW id) frsmW).ast ≠ .stalled :=
  by
  (repeat' with_reducible apply And.intro) <;> first
    | decide +kernel
    | (unfold Issues; decide +kernel)
    | (rw [iss_frsmState]; exact ⟨_, _, _, _, fun _ _ => rfl⟩)
    | (rw [iss_frsmSeq]; exact ⟨_, _, _, _, fun _ _ => rfl⟩)

def aPart : MmacPart := ⟨2, word 0x14 [(24, 0), (21, 1), (17, 1), (16, 1), (14, 1)], 0, 80, 64, 0⟩

theorem witness_array_results :
    firstOp ((opState id).hw.core 0).ops = some anOp ∧
    ((opState id).hw.core 0).halt = none ∧
    ((opState (fun c => { c with halt := some (0, 6) })).hw.core 0).halt = some (0, 6) ∧
    (((opState id).hw.core 0).mmacs = [] ∧ newestOp ((opState id).hw.core 0) = some anOp) ∧
    newestOp ((at0 [] (fun c => { c with halt := some (0, 6) })).hw.core 0) = none ∧
    ((at0 [] (fun c => { c with halt := some (0, 6), mmacs := [aPart] })).hw.core 0).mmacs.getLast? = some aPart ∧
    ((0 : Nat) < anOp.kp ∧ anOp.kp ≤ 32) ∧
    ((landOlder 0 (some anOp) (opState id).hw).core 0).seq = none ∧
    ((landOlder 0 (some anOp) (seqNext 1).hw).core 0).seq = some ⟨seqW, 0, 1, 1, 40⟩ ∧
    CoreReaches .kc 0 (at0 [] (fun c => { c with ast := .stalled })) ∧
    ((at0 [] (fun c => { c with ast := .stalled })).hw.core 0).ast = .stalled ∧
    ((at0 [] id).hw.core 0).ast = .idle ∧
    Reaches (.host 5) (st [] (fun h => { h with coreEn := 0xFE })) := by
  (repeat' with_reducible apply And.intro) <;> first
    | decide +kernel
    | (unfold CoreReaches Reaches; decide +kernel)
    | (unfold Reaches; decide +kernel)

/-- A descriptor with one STORE stage to folio 2, and a core whose bank 0 is live. -/
def storeDesc : List Byte := bytesAt ([8] ++ List.replicate 31 0 ++ [0x1C, 0, 0, 9] ++ List.replicate 220 0) 0 256
def ardW : W32 := word 0x15 [(26, 0), (23, 0)]
def ardState : State := run0 ardW (fun c => { c with
  banks := c.banks.set 0 { bankFresh with live := true }
  slots := c.slots.set 0 ⟨true, storeDesc, noLand, [], false⟩
  folios := c.folios.set 2 { folioOf 0 3 64 64 with inUse := false } })
def ardCtx : ReadCtx := ⟨0, 0, 0, 0, ardRetain ardW, none⟩

theorem iss_ardState : iss ardState ardW = ardState.begun := by decide +kernel

set_option maxRecDepth 200000 in
theorem witness_read_out :
    Issues ardState 0 ardW .ard ∧ ∃ p h, ReadsOut 0 ardCtx (iss ardState ardW) p h :=
  ⟨by unfold Issues; decide +kernel, by rw [iss_ardState]; exact ⟨_, _, fun _ => rfl⟩⟩

/-- A descriptor with RERANGE, CAST and STORE back to the operand. -/
def backDesc : List Byte := bytesAt ([24] ++ List.replicate 31 0 ++ [0x18, 0, 0, 0, 0, 0, 0, 0, 0x19, 0, 0, 2, 0, 0, 0, 0, 0x1C, 0, 0, 2] ++
  List.replicate 204 0) 0 256
def mmacW : W32 := word 0x14 [(24, 0), (21, 1), (17, 1), (16, 1), (14, 1)]
def mmacState : State := run0 mmacW (fun c => { c with
  banks := c.banks.set 0 { bankFresh with live := true }
  slots := c.slots.set 0 ⟨true, backDesc, noLand, [], false⟩
  folios := (c.folios.set 0 { folioOf 0 1 64 64 with inUse := false, stripValid := false }).set 1 (folioOf 1 0 64 64) })
def partState : State := at0 [] (fun c => withFolios { c with mmacs := [aPart], ast := .run })

theorem iss_mmacState : iss mmacState mmacW = mmacState.begun := by decide +kernel

set_option maxRecDepth 200000 in
theorem witness_mmac :
    Issues mmacState 0 mmacW .mmac ∧ strict (iss mmacState mmacW) 0 = false ∧ mmZ mmacW = true ∧
      (∃ p h op ss d h1, ReadsOut 0 ⟨0, 0, mcSrc mmacW, mcCs mmacW, false, some (mcIb mmacW, [0, 1])⟩ (iss mmacState mmacW) p h ∧
        OpStarts 0 ⟨0, 0, p.lam, none, some (mcIb mmacW), false, 0, some (h.nid + 2)⟩ (plainMma mmacW) h op ss d h1) ∧
      (partState.hw.core 0).mmacs = [aPart] ∧ (partState.hw.core 0).ast = .run ∧ meterStops partState.hw 0 80 = false ∧
      (∃ op ss d h, OpStarts 0 ⟨0, 80, 80, none, none, false, 0, some 2⟩ (plainMma mmacW)
        ((partState.begun.at 80).setCore 0 { partState.hw.core 0 with mmacs := [] }) op ss d h) :=
  by
  (repeat' with_reducible apply And.intro) <;> first
    | decide +kernel
    | (unfold Issues; decide +kernel)
    | (rw [iss_mmacState]; exact ⟨_, _, _, _, _, _, fun _ => rfl, fun _ _ => rfl⟩)
    | exact ⟨_, _, _, _, fun _ _ => rfl⟩

def chnW : W32 := word 0x16 [(25, 3), (20, 1)]
def chnState : State := run0 chnW (withG 0x3000000100 0)
def chnHeld : State := run0 chnW (fun c => { c with slots := c.slots.set 3 ⟨true, [], noLand, [(0, 1)], false⟩ })

theorem witness_chain_loads :
    Issues chnState 0 chnW .chn ∧
    ReadsLanded (cr chnState chnW) (cy chnState chnW) [(0, chRs1 chnW)] ∧
    AddressOk (iss chnState chnW) 0 256 ((cr chnState chnW).gr (chRs1 chnW)) ∧
    slotHeld (iss chnState chnW) 0 3 0 = false ∧
    (cr chnState chnW).rdPort ≤ 0 ∧
    beatsBad (iss chnState chnW) [readBeat (iss chnState chnW) 0 (iss chnState chnW).nid 0 0 0 0x3000000100 128, readBeat (iss chnState chnW) 0
      (iss chnState chnW).nid 0 0 0 0x3000000180 128] = none ∧
    (iss chnState chnW).handoff = [] ∧
    slotHeld (iss chnHeld chnW) 0 3 0 = true := by
  (repeat' with_reducible apply And.intro) <;> first
    | decide +kernel
    | (unfold Issues; decide +kernel)
    | (unfold ReadsLanded; decide +kernel)
    | (unfold AddressOk; decide +kernel)

def aSend : SendOp := ⟨1, 0, 0, 0, false, 0, 0, false, false, 0, 0, 0, [], 1⟩
def sTxn : Txn := ⟨192, .send 0 1, 1, 0, false, 0, 1, 0, [], 128, false, false, 0, .none, 0, true, false⟩
def sending : State :=
  ⟨[], { (at0 [] (fun c => { c with sends := [aSend] })).hw with net := { (at0 [] id).hw.net with txns := [sTxn] } }⟩

theorem witness_sends_and_skew :
    ((sendsDue sending.begun).core 0).sends.find? (fun y => y.beats.isEmpty) = some aSend ∧
    ((sendsDue sending.begun).core 0).sends = [aSend] ∧
    (sendsDue sending.begun).net.txns.filter (fun t => decide (t.owner = .send (0 : Fin 8).val 1)) = [sTxn] ∧
    ((sendsDue (at0 [] id).begun).core 0).sends = [] ∧
    newestOp ((opState id).hw.core 0) = some anOp ∧
    (((opState id).hw.core 0).seq = none ∧ ((opState id).hw.core 0).ast = .run) ∧
    max (opState id).hw.now (anOp.start + 1) ≤ anOp.lastRead ∧
    (opState id).hw.hold.errors = 0 ∧
    newestOp ((at0 [] id).hw.core 0) = none ∧
    ((at0 [] (fun c => { c with ast := .scrub })).hw.core 0).ast = .scrub := by
  (repeat' with_reducible apply And.intro) <;> decide +kernel

def svW (op : Nat) : W32 := word 0x13 [(24, op), (11, 1)]
def saving : State := run0 (svW 1) (withG 0x3000000080 0)
def restoring : State := run0 (svW 2) (withG 0x3000000080 0)
def aRestore : Restore := ⟨1, 0, 0x3000000080, List.replicate 128 0, 45⟩
def restoreDue (bad : Bool) : State :=
  ⟨[], { (at0 [] (fun c => { c with restore := some aRestore })).hw with got := [⟨1, 0x3000000080, List.replicate 128 0, if bad then some 0x3000000080 else none⟩] }⟩

theorem witness_contexts_save :
    Issues saving 0 (svW 1) .fsave ∧
    ReadsLanded (cr saving (svW 1)) (cy saving (svW 1)) [(0, svRs1 (svW 1))] ∧
    (cr saving (svW 1)).ast = .idle ∧
    occupied (iss saving (svW 1)) 0 0 = false ∧
    (saveHeader (iss saving (svW 1)) 0 0 ++ saveSections (cr saving (svW 1)) 0).length = 128 ∧
    areaOk (iss saving (svW 1)) 0 0x3000000080 128 = true ∧
    (∀ f, f < 8 → ((cr saving (svW 1)).fol f).perr = []) ∧
    portFree (cr saving (svW 1)).wrPort 0 1 = true ∧
    beatsBad (iss saving (svW 1)) [writeBeat (iss saving (svW 1)) 0 (iss saving (svW 1)).nid 0 0 0 0x3000000080 none (atAddr 0x3000000080
      (saveHeader (iss saving (svW 1)) 0 0))] = none ∧
    (iss saving (svW 1)).handoff = [] ∧
    occupied (iss (run0 (svW 1) (fun c => { c with arrFree := 1 })) (svW 1)) 0 0 = true ∧
    (cr (run0 (svW 1) (fun c => { c with ast := .scrub })) (svW 1)).ast = .scrub := by
  (repeat' with_reducible apply And.intro) <;> first
    | decide +kernel
    | (unfold Issues; decide +kernel)
    | (unfold ReadsLanded; decide +kernel)

theorem witness_contexts_restore :
    Issues restoring 0 (svW 2) .frstr ∧
    fuseWord (cr restoring (svW 2)) 0 % 2 ^ 18 = 0 ∧
    areaOk (iss restoring (svW 2)) 0 0x3000000080 128 = true ∧
    (cr restoring (svW 2)).rdPort ≤ 0 ∧
    headerBad ((settle 0 (iss restoring (svW 2))).bytes 0x3000000080 128) = false ∧
    sectionSize (leAt ((settle 0 (iss restoring (svW 2))).bytes 0x3000000080 128) 0x20 4) = 0 ∧
    beatsBad (iss restoring (svW 2)) [readBeat (iss restoring (svW 2)) 0 (iss restoring (svW 2)).nid 0 0 0 0x3000000080 128] = none ∧
    (cr (run0 (svW 2) (fun c => { c with ast := .stalled })) (svW 2)).ast ≠ .idle ∧
    (((restoreDue false).hw.core 0).restore = some aRestore ∧ ((restoreDue false).hw.core 0).floads = []) ∧
    ((gotOf (settle 45 ((restoreDue false).begun.at 45)) 1).map (fun g => g.bytes.length)).sum = 128 + sectionSize (leAt aRestore.header 0x20 4) ∧
    gotBad (gotOf (settle 45 ((restoreDue false).begun.at 45)) 1) = none ∧
    gotBad (gotOf (settle 45 ((restoreDue true).begun.at 45)) 1) = some 0x3000000080 ∧
    Registers.wf hwCold := by
  (repeat' with_reducible apply And.intro) <;> first
    | decide +kernel
    | (unfold Issues; decide +kernel)

/-! ### Witnesses: carrels -/

/-- A record with an OP, DELTA 10, N and two parameters. -/
def recOf (op n p0 p1 : Nat) : CarRec :=
  ⟨BitVec.ofNat 32 (op + 10 * 2 ^ 16), 0#32, 0#32, 0#32, 0#32, BitVec.ofNat 32 n, BitVec.ofNat 32 p0, BitVec.ofNat 32 p1⟩
/-- The same with its list or offsets at scratch offset 0x1000. -/
def recAt (op n : Nat) : CarRec := { recOf op n 0 0 with w3 := 0x1000#32 }
def semRegs : List (Nat × W32) := [(0x500200, 2#32)]
def carOf (r : CarRec) : State := runCar semRegs r id

/-- What CarFits asks of engine 0 with the record `r` in front. -/
def fits (s : State) (r : CarRec) : Bool :=
  let hw := carRead s 0 r
  let t := carTime s 0 r
  let x := scratchEarly 0 (t + 24) r hw
  let op := carOpOf x.2 0 t r
  decide (x.1 = 0) && decide (busyResource (hw.car 0) r (t + 24) (carEndOf 0 t r) = none) && decide (listBad x.2 0 r = none) &&
    !spanBad x.2 0 op && decide ((carHandoff x.2 0 t (carEndOf 0 t r) r (hw.car 0).pc).1 = none)

theorem fits_sound {s : State} {r : CarRec} (h : fits s r = true) :
    ∃ op h, CarFits (carRead s 0 r) 0 (carTime s 0 r) r op h := by
  simp only [fits, Bool.and_eq_true, decide_eq_true_eq, Bool.not_eq_true'] at h
  exact ⟨_, _, _, Prod.ext h.1.1.1.1 rfl, h.1.1.1.2, rfl, h.1.1.2, h.1.2, Prod.ext h.2 rfl⟩

theorem witness_carrel_commands_issue :
    (∀ p ∈ [(0x01, 1, 128), (0x02, 64, 0), (0x03, 64, 0), (0x04, 64, 0)], CarIssues (carOf (recOf p.1 p.2.1 p.2.2 0)) 0 p.1 (recOf p.1 p.2.1
      p.2.2 0) ∧ fits (carOf (recOf p.1 p.2.1 p.2.2 0)) (recOf p.1 p.2.1 p.2.2 0) = true) ∧
    (∀ p ∈ [(0x05, 4096, 0), (0x06, 4096, 0), (0x09, 256, 0)], CarIssues (carOf (recOf p.1 p.2.1 p.2.2 0)) 0 p.1 (recOf p.1 p.2.1 p.2.2 0) ∧
      fits (carOf (recOf p.1 p.2.1 p.2.2 0)) (recOf p.1 p.2.1 p.2.2 0) = true) ∧
    (∀ p ∈ [(0x0A, 1, 1), (0x0C, 256, 0), (0x10, 256, 0), (0x12, 256, 0)], CarIssues (carOf (recOf p.1 p.2.1 p.2.2 0)) 0 p.1 (recOf p.1 p.2.1
      p.2.2 0) ∧ fits (carOf (recOf p.1 p.2.1 p.2.2 0)) (recOf p.1 p.2.1 p.2.2 0) = true) ∧
    (∀ k ∈ [0x07, 0x08, 0x0B], CarIssues (carOf (recAt k 1)) 0 k (recAt k 1) ∧ fits (carOf (recAt k 1)) (recAt k 1) = true) := by
  (repeat' with_reducible apply And.intro) <;> first
    | decide +kernel
    | (unfold CarIssues CarComesTo; decide +kernel)

theorem witness_carrel_broadcast_and_semaphores :
    (CarIssues (carOf (recOf 0x11 256 1 0)) 0 0x11 (recOf 0x11 256 1 0) ∧ fits (carOf (recOf 0x11 256 1 0)) (recOf 0x11 256 1 0) = true) ∧
    ldbAgree (carRead (carOf (recOf 0x11 256 1 0)) 0 (recOf 0x11 256 1 0)) 10 (recOf 0x11 256 1 0) = true ∧
    CarIssues (carOf (recOf 0x11 256 2 0)) 0 0x11 (recOf 0x11 256 2 0) ∧
    ldbAgree (carRead (carOf (recOf 0x11 256 2 0)) 0 (recOf 0x11 256 2 0)) 10 (recOf 0x11 256 2 0) = false ∧
    (∀ k, k < 64 → ((carRead (carOf (recOf 0x11 256 2 0)) 0 (recOf 0x11 256 2 0)).car k).ops = []) ∧
    (CarIssues (carOf (recOf 0x18 0 1 1)) 0 0x18 (recOf 0x18 0 1 1) ∧ fits (carOf (recOf 0x18 0 1 1)) (recOf 0x18 0 1 1) = true) ∧
    semOn (carRead (carOf (recOf 0x18 0 1 1)) 0 (recOf 0x18 0 1 1)) 1 = true ∧
    (CarIssues (carOf (recOf 0x1A 0 0 0x103F)) 0 0x1A (recOf 0x1A 0 0 0x103F) ∧ fits (carOf (recOf 0x1A 0 0 0x103F)) (recOf 0x1A 0 0 0x103F) =
      true) ∧
    CarIssues (carOf (recOf 0x19 0 4095 1)) 0 0x19 (recOf 0x19 0 4095 1) ∧
    CarIssues (carOf (recOf 0x19 0 4095 0)) 0 0x19 (recOf 0x19 0 4095 0) ∧
    semOn (carRead (carOf (recOf 0x19 0 4095 0)) 0 (recOf 0x19 0 4095 0)) 0 = false ∧
    CarIssues (carOf (recOf 0x1F 0 0 0)) 0 0x1F (recOf 0x1F 0 0 0) := by
  (repeat' with_reducible apply And.intro) <;> first
    | decide +kernel
    | (unfold CarIssues CarComesTo; decide +kernel)

theorem witness_carrel_commands_refused :
    (CarComesTo (carOf (recOf 0x01 1 0 0)) 0 (recOf 0x01 1 0 0) ∧ carIllegal (recOf 0x01 1 0 0) = true) ∧
    (carIllegal { recOf 0x0C 256 0 0 with w1 := 1#32 } = false ∧ carMisaligned { recOf 0x0C 256 0 0 with w1 := 1#32 } = true) ∧
    (carIllegal { recOf 0x10 256 0 0 with w2 := 0x3FFFF80#32 } = false ∧ carMisaligned { recOf 0x10 256 0 0 with w2 := 0x3FFFF80#32 } = false) ∧
    carRange hwCold { recOf 0x10 256 0 0 with w2 := 0x3FFFF80#32 } = true ∧
    (scratchEarly 0 34 (recOf 0x12 256 0 0) ((runCar semRegs (recOf 0x12 256 0 0) (fun h => h.modCar 0 (fun e =>
      { e with lands := [(0, 128, landAt 40)] }))).hw)).1 = 6 ∧
    (busyResource { carFresh with ops := [⟨1, 0, recOf 0x10 256 0 0, 33, 60, 60, true, false, none⟩] } (recOf 0x10 256 0 0) 34 36).isSome = true := by
  (repeat' with_reducible apply And.intro) <;> first
    | decide +kernel
    | (unfold CarComesTo; decide +kernel)

def carOp (r : CarRec) (lost : Option (Nat × Nat)) : CarOp := ⟨1, 0, r, 34, 34 + carD r, 34 + carD r, true, false, lost⟩

theorem witness_carrel_commands_write :
    (∀ k ∈ [0x01, 0x02, 0x03, 0x04, 0x05, 0x06, 0x07, 0x08, 0x09, 0x0A, 0x0B, 0x0C, 0x10, 0x11, 0x12], crOp (recOf k 1 0 0) = k) ∧
    crBit (recOf 0x0C 256 0 0) 0 = false ∧
    crBit (recOf 0x010C 256 0 0) 0 = true ∧
    (crBit (recOf 0x01 1 128 0) 5 = false ∧ crBit (recOf 0x2001 1 128 0) 5 = true) ∧
    ((0 : Nat) < crN (recAt 0x0B 1) ∧ (0 : Nat) < crN (recOf 0x10 256 0 0) / 128) ∧
    (∀ k ∈ [0x07, 0x08, 0x0B], carEntryBad hwCold 0 (recAt k 1) 0 = 0) ∧
    carEntryBad (hwCold.store (carScr 0 0x1000) [0xFF, 0xFF, 0xFF, 0xFF]) 0 (recAt 0x07 1) 0 ≠ 0 ∧
    (hwCold.bad = [] ∧ hwCold.soft = []) ∧
    (dotReads (recOf 0x2401 1 128 0) = true ∧ 0 < dotLines (recOf 0x2401 1 128 0) ∧ 0 < up (carDstLen (recOf 0x2401 1 128 0)) 128 ∧
      dotReads (recOf 0x01 1 128 0) = false) ∧
    gotBad (hwCold.got.filter (fun g => decide (g.id = (carOp (recOf 0x2401 1 128 0) none).id))) = none ∧
    (∀ k ∈ [0x07, 0x08, 0x0B], isList (recAt k 1) = true) ∧
    ((carOp (recAt 0x07 1) none).open_ = false ∧ (carRanges hwCold 0 10 40 0 [(carBm hwCold 0 0, 8)] [(carBm hwCold 0 0, 8)]).1 = none) ∧
    (carRanges hwCold 0 10 40 0 [(carBm hwCold 0 0, 8)] [(carBm hwCold 0 0, 8)]).2.soft = [] ∧
    ((capture 1 (carScr 0 0x1008) (List.replicate 8 0) hwCold).got.find? (fun g => decide (g.id = 1 ∧ g.addr =
      carScr 0 0x1000 + 16 * (1 / 2) + 8)) = some ⟨1, carScr 0 0x1008, List.replicate 8 0, none⟩) := by
  (repeat' with_reducible apply And.intro) <;> decide +kernel

def car0 (regs : List (Nat × W32)) (f : Car → Car) : State := st regs (fun h => h.modCar 0 f)
def carWaits : State := car0 [] (fun e => { e with st := .wait, wait := some ⟨1, 0, 0, 0⟩ })
def carLoses : State := car0 [] (fun e => { e with st := .run, ops := [carOp (recOf 0x0C 256 0 0) (some (70, 0x31000001))] })

theorem witness_carrel_engines :
    Reaches (.host 3) (car0 [(carReg 0 0x10, 5#32)] id) ∧
    awake (car0 [(carReg 0 0x10, 5#32)] id).hw = true ∧
    ((car0 [(carReg 0 0x10, 5#32)] id).hw.car 0).st = .idle ∧
    (car0 [(carReg 0 0x10, 5#32)] id).hw.frame < (car0 [(carReg 0 0x10, 5#32)] id).hw.reg64 (carReg 0 0x10) ∧
    ((car0 [] (fun e => { e with st := .run })).hw.car 0).st ≠ .idle ∧
    ((car0 [] (fun e => { e with st := .armed })).hw.car 0).st = .armed ∧
    (car0 [] (fun e => { e with st := .armed })).hw.reg64 (carReg 0 0x10) = 0 ∧
    atBoundary (phaseNow (car0 [] (fun e => { e with st := .armed })).hw) = true ∧
    atBoundary (car0 [] (fun e => { e with st := .armed })).hw = false ∧
    ((syncTo 0 (car0 [] (fun e => { e with st := .run })).begun).car 0).ended = false ∧
    ((syncTo 0 carWaits.begun).car 0).st = .wait ∧
    ((syncTo 0 (car0 [] (fun e => { e with st := .run, ended := true })).begun).car 0).ended = true ∧
    ((carWaits.hw.car 0).wait = some ⟨1, 0, 0, 0⟩ ∧ waiters carWaits.hw = [(0x40, 0, ⟨1, 0, 0, 0⟩)]) ∧
    (carWaits.hw.sync.signals = [] ∧ carWaits.hw.sync.arrivals = [] ∧ carWaits.hw.hold.held = false) ∧
    (0 : Nat) ≤ semVal carWaits.hw 1 ∧
    ((carPurge 0 0 ((car0 [] (fun e => { e with st := .stopping })).begun.at 0)).car 0).st = .stopping ∧
    ((carPurge 0 0 ((car0 [] (fun e => { e with st := .run, ended := true })).begun.at 0)).car 0).ended = true ∧
    (carLoses.hw.car 0).ops = [carOp (recOf 0x0C 256 0 0) (some (70, 0x31000001))] := by
  (repeat' with_reducible apply And.intro) <;> first
    | decide +kernel
    | (unfold Reaches; decide +kernel)

def remapping (f : Migration → Migration) : State := st [] (fun h => { h with bmc := f { h.bmc with busy := true } })

theorem witness_refresh_and_remap :
    (st [] id).hw.frame % 520 = 130 * ((0 : Fin 64).val % 4) ∧
    (st [] id).hw.frame % 520 ≠ 130 * ((63 : Fin 64).val % 4) ∧
    (st [] (fun h => { h with frame := 1 })).hw.frame % 520 ≠ 0 ∧
    ((st [(4, 4#32)] id).hw.frame % 520 = 0 ∧ refreshOn (st [(4, 4#32)] id).hw = true) ∧
    (refreshOn (st [(4, 1#32)] id).hw = false ∧ refreshOn (st [(4, 4#32), (0x200034, 2#32)] id).hw = false) ∧
    scrubKey hwCold 63 (scrubRow hwCold 0) ≤ scrubKey hwCold 63 (scrubRow hwCold 0) + 2040 ∧
    ((remapping (fun m => { m with todo := [2 ^ 15 * 63 + 9] })).hw.bmc.todo.find? (fun y => decide (y / 2 ^ 15 = 63 ∧
      y % bankCount hwCold ∉ refreshBanks hwCold)) = some (2 ^ 15 * 63 + 9)) ∧
    ((remapping (fun m => { m with dirty := [9] })).hw.bmc.dirty.find? (fun y => decide (y / 2 ^ 15 = 0 ∧
      y % bankCount hwCold ∉ refreshBanks hwCold)) = some 9) ∧
    Reaches (.host 0) (st [] id) ∧
    ((st [] id).hw.bmc.busy = false ∧ awake (st [] id).hw = true) ∧
    (∀ k, k < 64 → remapBad (st [] id).hw k = false) ∧
    (List.range 64).find? (remapBad (st [] (fun h => { h with shadow := [(1024 * 63, 0xFFFF0000#32)] })).hw) = some 63 ∧
    ((remapping id).hw.bmc.busy = true ∧ (remapping id).hw.bmc.copyEnd = none) ∧
    ((settleBefore 0 (remapping id).begun).bmc.busy = true ∧ (settleBefore 0 (remapping id).begun).bmc.copyEnd = none) ∧
    ((settleBefore 0 (remapping id).begun).bmc.todo = [] ∧ (settleBefore 0 (remapping id).begun).bmc.dirty = []) ∧
    (remapping id).hw.now = 6 * (remapping id).hw.frame ∧
    (settleBefore 0 (remapping (fun m => { m with todo := [7] })).begun).bmc.todo ≠ [] ∧
    (remapping (fun m => { m with copyEnd := some 8192 })).hw.bmc.copyEnd = some 8192 ∧
    awake (st [(0x200034, 1#32)] id).hw = false := by
  (repeat' with_reducible apply And.intro) <;> first
    | decide +kernel
    | (unfold Reaches; decide +kernel)

/-! ### Witnesses: the timing contract -/

def clocked (slow : Bool) (regs : List (Nat × W32)) (f : Hw → Hw) : State :=
  st regs (fun h => f { h with clk := { h.clk with lock := true, slow := slow } })
def aPhase : Phase := ⟨1, 1, 0, 0, 0, 1, 0, [], false, true, false, false⟩
def phased (p : Phase) (f : Hw → Hw) : State :=
  st [] (fun h => f { h with kc := { h.kc with on := true }, fw := { h.fw with phase := some p } })
def firmHolds (f : Hold → Hold) : State :=
  runFw [] (fun h => { h with hold := f { h.hold with held := true, par := some (7, 3) } })

theorem witness_frames_and_boundaries :
    (unlocked (st [] id)).hw.clk.lock = false ∧
    ((clocked false [] id).hw.clk.lock = true ∧ (clocked false [] id).hw.clk.slow = false) ∧
    (clocked true [] id).hw.clk.slow = true ∧
    (fwRuns (firmHolds id).hw = true ∧ (firmHolds id).hw.hold.held = true ∧ holdScrubbed (firmHolds id).hw = false) ∧
    (fwRuns (firmHolds (fun x => { x with pend := true })).hw = true ∧ (firmHolds (fun x => { x with pend := true })).hw.hold.pend = true) ∧
    (firmHolds id).hw.hold.par = some ((7 : Fin 8).val, 3) ∧
    nbit ((st [] id).hw.reg 0x300018).toNat 0 = false ∧
    nbit ((st [(0x300018, 1#32)] id).hw.reg 0x300018).toNat 0 = true ∧
    (st [(0x300018, 1#32)] id).hw.reg64 0x300008 = (st [(0x300018, 1#32)] id).hw.frame ∧
    boundaryReason (st [(0x300018, 1#32)] id).hw = none ∧
    boundaryReason (st [(0x300018, 1#32), (TIM_CHK_STAT, 1#32)] id).hw = some 0x07 ∧
    boundaryReason (st [(0x300018, 1#32), (0x200004, 0x10000#32)] id).hw = some 0x02 ∧
    boundaryReason (st [(0x300018, 1#32), (0x300048, 64#32)] id).hw = none ∧
    boundaryReason (st [(0x300018, 1#32), (0x300048, 65#32)] id).hw = some 0x0A ∧
    (Tables.wf (phased aPhase id).hw ∧ ((List.finRange 8).foldl (fun g n => rowsTo n (6 * g.frame - 1) g) (phased aPhase id).hw).fw.phase =
      some aPhase ∧ aPhase.start = (phased aPhase id).hw.frame) ∧
    hwCold.fw.orphan = false := by
  (repeat' with_reducible apply And.intro) <;> first
    | decide +kernel
    | (unfold Tables.wf; decide +kernel)

theorem witness_phases_are_armed_and_checked :
    Reaches .kc (st [(0x200034, 1#32)] id) ∧
    awake (st [(0x200034, 1#32)] id).hw = false ∧
    (awake (st [] id).hw = true ∧ (st [] id).hw.reg64 0x300008 ≤ (st [] id).hw.frame) ∧
    (st [(0x300008, 1#32)] id).hw.frame < (st [(0x300008, 1#32)] id).hw.reg64 0x300008 ∧
    ((phased aPhase id).hw.fw.phase = some aPhase ∧ aPhase.running = true ∧ aPhase.checked = false) ∧
    (phased aPhase id).hw.hold.held = false ∧
    aPhase.start + aPhase.len ≤ (phased aPhase id).hw.frame ∧
    notEnded (phased aPhase id).hw aPhase = [] ∧
    notEnded (phased aPhase (fun h => h.setCore 0 { coreFresh with st := .run })).hw aPhase = [0] ∧
    (phased { aPhase with len := 1 } id).hw.frame < 0 + 1 ∧
    fwRuns (phased aPhase id).hw = true ∧
    aPhase.start + aPhase.len + 64 ≤ (phased aPhase (fun h => { h with frame := 64 })).hw.frame ∧
    (st [] id).hw.fw.phase = none := by
  (repeat' with_reducible apply And.intro) <;> first
    | decide +kernel
    | (unfold Reaches; decide +kernel)

def holding (f : Hold → Hold) (regs : List (Nat × W32)) (h : Hw → Hw) : State := st regs (fun x => h { x with hold := f x.hold })

theorem witness_holds :
    Reaches (.host 1) (holding (fun x => { x with due := some 0 }) [] id) ∧
    (holding (fun x => { x with due := some 0 }) [] (fun h => { h with frame := 1 })).hw.hold.due = some 0 ∧
    (0 : Nat) < (holding (fun x => { x with due := some 0 }) [] (fun h => { h with frame := 1 })).hw.frame ∧
    ((holding (fun x => { x with due := some 0 }) [] id).hw.hold.held = false ∧ (holding (fun x => { x with due := some 0 }) [] id).hw.frame ≤
      0) ∧
    ((holding id [] id).hw.hold.due = none ∧ (holding id [] id).hw.hold.held = false) ∧
    (holding (fun x => { x with held := true, par := some (7, 3) }) [(coreReg 7 0x108, 0x80000000#32)] id).hw.hold.par =
      some ((7 : Fin 8).val, 3) ∧
    holdScrubbed (holding (fun x => { x with held := true, par := some (7, 3) }) [(coreReg 7 0x108, 0x80000000#32)] id).hw = true ∧
    holdScrubbed (holding (fun x => { x with held := true, par := some (7, 3) }) [] id).hw = false ∧
    (holding (fun x => { x with held := true, pend := true, par := some (7, 3) }) [] id).hw.hold.pend = true ∧
    (holding (fun x => { x with held := true, pend := true, par := some (7, 3) }) [] id).hw.reg64 0x300038 ≤ 0 ∧
    dExact hwCold ⟨leBytes 1 4 ++ leBytes 0 12 ++ leBytes 0x2000000000 8 ++ leBytes 128 4 ++ leBytes 0 8 ++ leBytes 128 4 ++ List.replicate 24
      0, 0, 0, false, 0, none⟩ = true := by
  (repeat' with_reducible apply And.intro) <;> first
    | decide +kernel
    | (unfold Reaches; decide +kernel)

theorem witness_slow_exact_mode :
    ((st [] id).hw.clk.slow = false ∧ (st [] id).hw.clk.changes = []) ∧
    (clocked true [] id).hw.clk.temerg = false ∧
    4160 ≤ (clocked true [] (fun h => { h with clk := { h.clk with lowFrames := 4160 } })).hw.clk.lowFrames ∧
    nbit ((clocked true [] id).hw.reg 0x100004).toNat 1 = false ∧
    nbit ((clocked true [(0x100004, 2#32)] id).hw.reg 0x100004).toNat 1 = true ∧
    (clocked false [] (fun h => { h with clk := { h.clk with changes := [(true, 0), (false, 1)] } })).hw.clk.changes = [(true, 0), (false, 1)] ∧
    (clocked false [] (fun h => { h with clk := { h.clk with changes := [(true, 0), (false, 1)] } })).hw.frame < 1 ∧
    (clocked true [] (fun h => { h with clk := { h.clk with changes := [(false, 0)] } })).hw.clk.changes = [(false, 0)] := by
  (repeat' with_reducible apply And.intro) <;> decide +kernel

/-! ### Witnesses: transfer engines -/

/-- A fill of one line of CSM of this cluster, or of cluster 1. -/
def fillDesc (remote : Bool) : Desc :=
  ⟨leBytes 1 4 ++ leBytes 0 4 ++ leBytes 0 8 ++ leBytes (0x2000000000 + b2n remote * 2 ^ 41) 8 ++ leBytes 128 4 ++ leBytes 0 4 ++ leBytes 0 4 ++
    leBytes 128 4 ++ List.replicate 24 0, 0, 0, false, 0, none⟩
/-- A fill of one line of BM. -/
def bmDesc : Desc := { fillDesc false with bytes := (fillDesc false).bytes.take 16 ++ leBytes 0x1000000000 8 ++ (fillDesc false).bytes.drop 24 }
def te0 (regs : List (Nat × W32)) (f : TeCh → TeCh) : State := st regs (fun h => h.modTe 0 f)
def heldOne (d : Desc) : State := te0 [] (fun c => { c with st := .run, held := [d], last := some (0, false) })
def aFlight (paced : Bool) : Flight := ⟨1, fillDesc paced, 0, paced, 62, 0, 0, [], 0, false, 0, 0, 0, 0, 0⟩
/-- Four paced descriptors of engine 0 are under way, and a fifth waits. -/
def fourPaced : State := te0 [] (fun c => { c with
  st := .run, held := [fillDesc true], last := some (0, false), flights := List.replicate 4 (aFlight true) })
def waitDesc : Desc := { fillDesc false with bytes := leBytes 0x101 4 ++ leBytes 0x10000 4 ++ (fillDesc false).bytes.drop 8 }
def waitHeld : State := te0 [(0x500200, 3#32)] (fun c => { c with st := .run, held := [waitDesc], last := some (0, false) })
def badRecord : Desc := { fillDesc false with bad := some 0x2000000000 }
def teWaits : State := te0 [] (fun c => { c with st := .run, wait := some ⟨1, 0, 0, 0⟩ })

theorem witness_transfers_start :
    (Reaches .kc (te0 [] id) ∧ awake (te0 [] id).hw = true) ∧
    awake (te0 [(0x200034, 2#32)] id).hw = false ∧
    (((heldOne (fillDesc false)).hw.te 0).held = [fillDesc false] ∧ ((heldOne (fillDesc false)).hw.te 0).wait = none) ∧
    (((heldOne (fillDesc false)).hw.te 0).last = some (0, false) ∧ ((heldOne (fillDesc false)).hw.te 0).st = .run) ∧
    descCheck (heldOne (fillDesc false)).hw (fillDesc false) false = none ∧
    dWait (fillDesc false) = false ∧
    dExact (heldOne (fillDesc false)).hw (fillDesc false) = true ∧
    descCheck (heldOne (fillDesc true)).hw (fillDesc true) false = none ∧
    dExact (heldOne (fillDesc true)).hw (fillDesc true) = false ∧
    ((engineFlights (heldOne (fillDesc true)).hw 0 0).filter (fun f => f.paced)).length < 4 ∧
    (descCheck (heldOne (fillDesc false)).hw { fillDesc false with bytes := leBytes 3 4 ++ (fillDesc false).bytes.drop 4 } false).isSome = true ∧
    dWait { fillDesc false with bytes := leBytes 0x101 4 ++ (fillDesc false).bytes.drop 4 } = true ∧
    (dExact fourPaced.hw (fillDesc true) = false ∧ 4 ≤ ((engineFlights fourPaced.hw 0 fourPaced.hw.now).filter (fun f => f.paced)).length ∧
      (fourPaced.hw.te 0).held = [fillDesc true]) ∧
    (((heldOne badRecord).hw.te 0).held = [badRecord] ∧ badRecord.bad = some 0x2000000000 ∧ (fillDesc false).bad = none) ∧
    ((waitHeld.hw.te 0).held = [waitDesc] ∧ waitDesc.bad = none ∧ dWait waitDesc = true ∧ descCheck waitHeld.hw waitDesc false = none ∧
      (waitHeld.hw.te 0).anchor = none ∧ dExact waitHeld.hw waitDesc = true) ∧
    (¬ (8 ≤ ((te0 [] id).hw.te 0).held.length + (((te0 [] id).hw.te 0).flights.filter (fun f => decide (f.phase = 0))).length) ∧
      ((te0 [] id).hw.te 0).st = .idle) ∧
    8 ≤ ((te0 [] (fun c => { c with held := List.replicate 8 (fillDesc false) })).hw.te 0).held.length ∧
    (teWaits.hw.te 0 = { (teWaits.hw.te 0) with wait := some ⟨1, 0, 0, 0⟩ } ∧ waiters teWaits.hw = [(teUnit 0, 0, ⟨1, 0, 0, 0⟩)]) ∧
    ((0 : Nat) ≤ semVal teWaits.hw 1 ∧ teWaits.hw.sync.signals = [] ∧ teWaits.hw.sync.arrivals = []) ∧
    ((te0 [] (fun c => { c with st := .stoppedFault })).hw.te 0).st = .stoppedFault ∧
    ((te0 [] (fun c => { c with st := .run })).hw.te 0).st = .run ∧
    ((te0 [] (fun c => { c with st := .stopping })).hw.te 0).flights = [] ∧
    startConflict (te0 [] id).hw 0 0 (fillDesc false) = none ∧
    startConflict (te0 [] (fun c => { c with last := some (8, false) })).hw 0 0 (fillDesc false) = some 1 ∧
    (startConflict (te0 [(4, 4#32)] id).hw 0 0 bmDesc = none ∧ (descBad (te0 [(4, 4#32)] id).hw (exactBeats (te0 [(4, 4#32)] id).hw 0 1 0
      bmDesc)).isSome = true) ∧
    descBad (te0 [] id).hw (exactBeats (te0 [] id).hw 0 0 0 (fillDesc false)) = none ∧
    ((te0 [] id).hw.handoff = [] ∧ (te0 [] id).hw.chkErr = []) := by
  (repeat' with_reducible apply And.intro) <;> first
    | decide +kernel
    | (unfold Reaches; decide +kernel)

def flying (f : Flight) (regs : List (Nat × W32)) : State := te0 regs (fun c => { c with st := .run, flights := [f] })
def aTxn : Txn := ⟨192, .desc 0 0 1, 1, 0x08, false, 0, 1, 0, [], 128, false, false, 0, .none, 0, true, false⟩
def farFlight : Flight := { aFlight true with d := { fillDesc true with bytes := leBytes 0x2001 4 ++ (fillDesc true).bytes.drop 4 } }
def farRegs : List (Nat × W32) := [(farReg 0 0, 0x80000001#32), (farReg 0 8, 0x00010002#32)]
def upRegs : List (Nat × W32) := [(0x700000, 0x08000000#32), (0x700004, 0x08000000#32), (0x700008, 0x08000000#32), (0x70000C, 0x08000000#32)]
/-- The transaction of the one line that `farFlight` writes. -/
def farLineTxn : Txn :=
  ⟨192, .desc 0 0 1, 1, teUnit 0, true, 0, 1, 0x2000000000, fillLine128 farFlight.d, 128, false, false, 0, .none, 0, false, false⟩
def flagged : Flight := { aFlight false with d := { fillDesc false with bytes := leBytes 0x1801 4 ++ (fillDesc false).bytes.drop 4 }, phase := 1 }

theorem witness_transfers_end :
    ((flying (aFlight false) []).hw.te 0).flights = [aFlight false] ∧
    ((settle 62 ((flying (aFlight false) []).begun.at 62)).te 0).flights = [aFlight false] ∧
    gotBad (gotOf (settle 62 ((flying (aFlight false) []).begun.at 62)) 1) = none ∧
    ((settle 62 ((flying { aFlight false with status := cACCESS_RANGE } []).begun.at 62)).te 0).flights =
      [{ aFlight false with status := cACCESS_RANGE }] ∧
    ((flying { aFlight true with wr := 1 } []).hw.te 0).flights = [{ aFlight true with wr := 1 }] ∧
    openTxns (flying { aFlight true with wr := 1 } []).hw 0 1 = false ∧
    dBeats (fillDesc true) ≤ 1 ∧
    nextPiece (flying farFlight farRegs).hw farFlight = some (0, 1) ∧
    trkFree (flying farFlight farRegs).hw 0 = some 192 ∧
    pieceReady (flying farFlight farRegs).hw farFlight (0, 1) = true ∧
    (waitingBefore (flying farFlight farRegs).hw 0).length < trkLeft (flying farFlight farRegs).hw ∧
    txnCredit (flying farFlight farRegs).hw farLineTxn = true ∧
    (handOver farLineTxn (flying farFlight farRegs).begun).2 = 0 ∧
    (handOver { farLineTxn with far := false } (flying farFlight farRegs).begun).2 ≠ 0 ∧
    (pieceReady (flying { aFlight true with wr := 1 } []).hw { aFlight true with wr := 1 } (1, 1) =
      false ∨ nextPiece (flying { aFlight true with wr := 1 } []).hw { aFlight true with wr := 1 } = none) ∧
    (aTxn.owner = .desc 0 0 1 ∧ aTxn.kind ≠ 2) ∧
    (dDsemEn (fillDesc true) = false ∧ dLsemEn (fillDesc true) = false) ∧
    (dDsemEn flagged.d = true ∨ dLsemEn flagged.d = true) ∧
    ((flying flagged []).hw.te 0).flights.find? (fun g => decide (g.id = flagged.id)) = some flagged ∧
    (dDsemEn flagged.d = true ∧ trkFree (flying flagged []).hw 0 ≠ none) ∧
    (handOver ⟨192, .desc 0 0 1, 4, teUnit 0, dFar flagged.d, dFc flagged.d, dDst flagged.d / 2 ^ 41, 0, leBytes (dDsem flagged.d) 4 ++ leBytes
      1 2, 6, false, false, 0, .none, 0, false, false⟩ (flying flagged []).hw).2 ≠ 0 ∧
    (dLsemEn flagged.d = true ∧ semOn (st [(0x500200, 3#32)] id).hw (dLsem flagged.d) = true ∧ flagged.phase = 1 ∧ (aFlight true).phase ≠ 1) ∧
    (isLocal hwCold 0x2000000000 = true ∧ isLocal hwCold (0x2000000000 + 2 ^ 41) = false) := by
  (repeat' with_reducible apply And.intro) <;> decide +kernel

/-! ### Witnesses: semaphores and barriers -/

def sem0 (f : Sync → Sync) : State := st semRegs (fun h => { h with sync := f h.sync })
/-- Semaphore 1 holds 1. -/
def oneIn1 : State := sem0 (fun y => { y with vals := [(1, 1)] })
/-- The hardware as a write of SEM_TAKE from mesh port 2 finds it. -/
def taking (s : State) : Hw := serveTakes s.hw.now (takeKey 0x22 0) (syncTo s.hw.now s.begun)
def aSignal : Signal := ⟨1, 0xFFFF, 0, 0, 0, 3, 3, 3, 3, 3, none, none⟩

theorem witness_semaphore_registers :
    (Reaches (.host 2) (sem0 id) ∧ (Writer.host 2).unit = 0x22) ∧
    (fieldOf 0x00010001#32 16 12 = 1 ∧ fieldOf 0x00010001#32 0 12 = 1 ∧ semOn (sem0 id).hw 1 = true) ∧
    (fieldOf 0x00010FFF#32 0 12 = 4095 ∧ semOn (sem0 id).hw 4095 = false) ∧
    fieldOf 0x00000001#32 16 12 = 0 ∧
    (Reaches (.host 2) oneIn1 ∧ nbit (0x40010001#32).toNat 30 = true ∧ fieldOf 0x40010001#32 16 12 = 1 ∧ fieldOf 0x40010001#32 0 12 = 1 ∧
      semOn oneIn1.hw 1 = true ∧ 1 ≤ avail (taking oneIn1) 0x22 oneIn1.hw.now 1) ∧
    (nbit (0x40020001#32).toNat 30 = true ∧ fieldOf 0x40020001#32 16 12 = 2 ∧ fieldOf 0x40020001#32 0 12 = 1 ∧
      avail (taking oneIn1) 0x22 oneIn1.hw.now 1 < 2 ∧ nbit (oneIn1.hw.reg 0x500000).toNat 0 = false) ∧
    (semOn (st [(0x500200, 2#32), (0x500000, 1#32)] id).hw 1 = true ∧ avail (taking (st [(0x500200, 2#32), (0x500000, 1#32)] id)) 0x22 0 1 < 1 ∧
      nbit ((st [(0x500200, 2#32), (0x500000, 1#32)] id).hw.reg 0x500000).toNat 0 = true) ∧
    (nbit (0x40000001#32).toNat 30 = true ∧ fieldOf 0x40000001#32 16 12 = 0) ∧
    (nbit (0x40010FFF#32).toNat 30 = true ∧ fieldOf 0x40010FFF#32 16 12 ≠ 0 ∧ semOn (sem0 id).hw (fieldOf 0x40010FFF#32 0 12) = false) ∧
    nbit (0x00010001#32).toNat 30 = false ∧
    (semOn (sem0 id).hw 1 = true ∧ (sem0 id).hw.sync.signals = [] ∧ (sem0 id).hw.sync.arrivals = [] ∧ waiters (sem0 id).hw = []) ∧
    semOn (st [(0x5003FC, 0x80000000#32)] id).hw 4095 = true ∧
    semOn (sem0 id).hw 0 = false ∧
    syncHead (sem0 (fun y => { y with signals := [aSignal] })).begun = some (3, .inr aSignal) ∧
    syncHead (sem0 id).hw = none ∧
    ((sem0 (fun y => { y with signals := [aSignal] })).hw.sync.signals = [aSignal] ∧
      (sem0 (fun y => { y with signals := [aSignal] })).hw.sync.arrivals = [] ∧ waiters (sem0 (fun y => { y with signals := [aSignal] })).hw =
      [] ∧ aSignal.added = none ∧ (∀ e ∈ (sem0 (fun y => { y with signals := [aSignal] })).hw.sync.vals, e.1 ≠ aSignal.sem) ∧ aSignal.count ≤
      0xFFFF) := by
  (repeat' with_reducible apply And.intro) <;> first
    | decide +kernel
    | (unfold Reaches; decide +kernel)

def barSt (regs : List (Nat × W32)) (k : Nat) (f : Barrier → Barrier) : State := st regs (fun h => h.modBar k f)
/-- The hardware as a command at barrier context `k` finds it. -/
def barHw (regs : List (Nat × W32)) (k : Nat) (f : Barrier → Barrier) : Hw := syncTo 0 (barSt regs k f).begun
/-- Context 63 of 2 clusters with 2 up-arrivals, RSEM 1; the same with a parent; contexts 0 of one arrival, of SCOPE 1 and of SCOPE 2. -/
def upBar : List (Nat × W32) := [(barCfg 63, 0x02020001#32), (barCfg 63 + 8, 2#32), (0x500200, 2#32)]
def midBar : List (Nat × W32) := (barCfg 63 + 4, 0x800001#32) :: upBar
def soloBar : List (Nat × W32) := [(barCfg 0, 0x01010001#32), (0x500200, 2#32)]
def leafBar : List (Nat × W32) := [(barCfg 0, 0x02010001#32), (0x500200, 2#32)]

theorem witness_barriers :
    (Reaches .kc (barSt [] 0 id) ∧ (arrivalBad (barHw [] 0 id) 0).isSome = true) ∧
    (arrivalBad (barHw upBar 63 id) 63 = none ∧ ((barHw upBar 63 id).bar 63).waitup = false ∧ ((barHw upBar 63 id).bar 63).cnt + 1 ≠
      barExpect (barHw upBar 63 id) 63) ∧
    (arrivalBad (barHw upBar 63 (fun b => { b with waitup := true })) 63 = none ∧
      ((barHw upBar 63 (fun b => { b with waitup := true })).bar 63).waitup = true) ∧
    (arrivalBad (barHw soloBar 0 id) 0 = none ∧ ((barHw soloBar 0 id).bar 0).waitup = false ∧ ((barHw soloBar 0 id).bar 0).cnt + 1 =
      barExpect (barHw soloBar 0 id) 0 ∧ barScope (barHw soloBar 0 id) 0 = 1) ∧
    (arrivalBad (barHw leafBar 0 id) 0 = none ∧ ((barHw leafBar 0 id).bar 0).waitup = false ∧ ((barHw leafBar 0 id).bar 0).cnt + 1 =
      barExpect (barHw leafBar 0 id) 0 ∧ barScope (barHw leafBar 0 id) 0 ≠ 1 ∧ (barHw leafBar 0 id).fld (barCfg 0 + 8) 0 6 = 0) ∧
    fieldOf 0x00020001#32 24 3 = 0 ∧
    (fieldOf 0x04020001#32 24 3 = 4 ∧ ((barHw [] 0 id).bar 0).cnt = 0 ∧ ((barHw [] 0 id).bar 0).next = 0 ∧ ((barHw [] 0 id).bar 0).upcnt = 0 ∧
      ((barHw [] 0 id).bar 0).waitup = false) ∧
    fieldOf 0x05020001#32 24 3 = 5 ∧
    (((barHw [] 0 (fun b => { b with cnt := 1 })).bar 0).cnt ≠ 0 ∧ fieldOf 0x01020001#32 24 3 ≠ 0) ∧
    ((barHw upBar 63 id).bar 63).upcnt + 1 < (barHw upBar 63 id).fld (barCfg 63 + 8) 0 6 ∧
    (barHw [] 63 id).fld (barCfg 63 + 8) 0 6 ≤ ((barHw [] 63 id).bar 63).upcnt ∧
    (((barHw midBar 63 (fun b => { b with upcnt := 1 })).bar 63).upcnt + 1 =
      (barHw midBar 63 (fun b => { b with upcnt := 1 })).fld (barCfg 63 + 8) 0 6 ∧ barTop (barHw midBar 63 (fun b => { b with upcnt := 1 })) 63 =
      false) ∧
    (((barHw upBar 63 (fun b => { b with upcnt := 1 })).bar 63).upcnt + 1 =
      (barHw upBar 63 (fun b => { b with upcnt := 1 })).fld (barCfg 63 + 8) 0 6 ∧ barTop (barHw upBar 63 (fun b => { b with upcnt := 1 })) 63 =
      true ∧ ((barHw upBar 63 (fun b => { b with upcnt := 1 })).bar 63).next = 0) ∧
    ((barHw upBar 63 id).bar 63).next = 0 ∧
    (((barSt upBar 63 id).hw.bar 63).broken = false ∧ semOn (barSt upBar 63 id).hw (barRsem (barSt upBar 63 id).hw 63) = true) ∧
    (((barSt [] 63 id).hw.bar 63).broken = false ∧ semOn (barSt [] 63 id).hw (barRsem (barSt [] 63 id).hw 63) = false) ∧
    ((barSt [] 63 (fun b => { b with broken := true })).hw.bar 63).broken = true ∧
    (({ aSignal with rel := some 63 } : Signal).rel = some 63 ∧ aSignal.sem < 4096 ∧ Registers.wf (barSt [] 63 id).hw) := by
  (repeat' with_reducible apply And.intro) <;> first
    | decide +kernel
    | (unfold Reaches; decide +kernel)

def saveRegs : List (Nat × W32) := [(0x500014, 0x00010001#32), (0x500020, 0x40#32), (0x500024, 0x20#32), (0x500200, 2#32)]
/-- The semaphore block's accesses are served: `l` is what they read, `bad` where they failed; a transfer is under way. -/
def xferred (save : Bool) (l : List Byte) (bad : Option Nat) : State :=
  st [] (fun h => { h with
    sync := { h.sync with xfer := some (save, 0x2000000000, []) }
    bg := [{ bgNew h 0x1A [] .sem with got := l, bad := bad }] })
/-- The hardware as its end goes on. -/
def xferOf (s : State) : Hw := bgDrop .sem ((syncTo s.hw.now s.begun).modSync (fun y => { y with xfer := none }))
def watched (v : W32) : State := st [(0x500044, v), (0x500040, 1#32)] id

theorem witness_saves_and_the_watch :
    (Reaches .kc (st saveRegs id) ∧ (st saveRegs id).hw.sync.xfer = none) ∧
    saveErr (syncTo 0 ((st saveRegs id).begun.setReg 0x500010 0#32)) false = 0 ∧
    saveErr (syncTo 0 ((st [(0x500020, 1#32)] id).begun.setReg 0x500010 0#32)) false ≠ 0 ∧
    (xferred true [] none).hw.sync.xfer.isSome = true ∧
    xferPlace ((st saveRegs id).begun.setReg 0x500010 2#32) false (((st saveRegs id).begun.setReg 0x500010 2#32).reg64 0x500020) = true ∧
    xferPlace ((st [(0x500020, 1#32)] id).begun.setReg 0x500010 2#32) false (((st [(0x500020, 1#32)] id).begun.setReg 0x500010 2#32).reg64
      0x500020) = false ∧
    ((xferred true [] none).hw.sync.xfer.map (fun x => x.1) = some true ∧ (bgDone (xferred true [] none).hw .sem).map (fun b => b.bad) =
      some none) ∧
    ((xferred false (List.replicate 192 0) none).hw.sync.xfer.map (fun x => x.1) = some false ∧
      (bgDone (xferred false (List.replicate 192 0) none).hw .sem).map (fun b => (b.bad, b.got)) = some (none, List.replicate 192 0) ∧
      restoreErr (xferOf (xferred false (List.replicate 192 0) none)) (List.replicate 192 0) = 0) ∧
    restoreErr (xferOf { xferred false [] none with hw := ((xferred false [] none).hw.setReg 0x500200 2#32) }) (leBytes 0x10001 4 ++
      List.replicate 188 0) ≠ 0 ∧
    (∀ v ∈ [true, false], (xferred v [] (some 0x2000000000)).hw.sync.xfer.map (fun x => x.1) = some v ∧
      (bgDone (xferred v [] (some 0x2000000000)).hw .sem).map (fun b => b.bad) = some (some 0x2000000000)) ∧
    (st [] id).hw.sync.xfer = none ∧
    (watched 0x0FFF0000#32).hw.fld 0x500044 16 13 < 4096 ∧
    (4096 ≤ (watched 0x10000000#32).hw.fld 0x500044 16 13 ∧ nbit ((watched 0x10000000#32).hw.reg 0x500044).toNat 0 = false ∧
      nbit ((watched 0x10000000#32).hw.reg 0x500040).toNat 0 = true) := by
  (repeat' with_reducible apply And.intro) <;> first
    | decide +kernel
    | (unfold Reaches; decide +kernel)

/-! ### Witnesses: ports -/

def aFlit (typ addr : Nat) (host : Bool) (pl : List Byte) : Flit := ⟨typ, host, true, false, 0, 1, addr, 16, 5, pl, true⟩
def meshed (f : Hw → Hw) : State := st [(4, 4#32), (0x500200, 2#32)] (fun h => f { h with clk := { h.clk with lock := true } })
/-- The request of the flits `fl` at mesh port 0, and flits of each kind. -/
def meshReq (s : State) (fl : List Flit) : BgReq := bgNew s.begun 0x20 (meshTodo s.begun fl) (.mesh 0 fl)
def wrFlit : Flit := aFlit 1 0x2000000000 false (List.replicate 128 3)
def rdFlit : Flit := aFlit 2 0x2000000000 true (leBytes 1 4)
def readTxn : Txn := { aTxn with kind := 2, txid := 5, sent := true, slotted := false }
def waitsRead : State := meshed (fun h => { h with net := { h.net with txns := [readTxn] } })
def checkedMesh : State := meshed (fun h => { h with boot := { h.boot with checkbits := true } })
/-- A request without accesses that holds the address `a` of an uncorrectable word. -/
def failedAt (a : Option Nat) : BgReq := { meshReq (meshed id) [wrFlit] with todo := [], bad := a, got := List.replicate 128 9 }

/-- A request that reads a register, at the front of a port's. -/
def regReq (todo : List BgAcc) : BgReq := bgNew hwCold 0x20 (.rd 0x4000000000 4 :: todo) (.mesh 0 [])
theorem witness_mesh_performed :
    (meshRefuse (meshed id).hw wrFlit = none ∧ MeshTakes (meshed id).hw 1 [wrFlit] wrFlit ∧
      ServedNow (meshReq (meshed id) [wrFlit]) (meshed id).begun ∧ (meshReq (meshed id) [wrFlit]).todo ≠ []) ∧
    (meshRefuse checkedMesh.hw rdFlit = none ∧ MeshTakes checkedMesh.hw 2 [rdFlit] rdFlit ∧
      ServedNow (meshReq checkedMesh [rdFlit]) checkedMesh.begun ∧ (meshReq checkedMesh [rdFlit]).todo ≠ []) ∧
    (∀ f ∈ [aFlit 3 0 false [], aFlit 4 0 false (leBytes 1 8), aFlit 5 0 false [0x35], aFlit 6 0 false (leBytes 0x103F 4), aFlit 7 0 false
      (leBytes 0x103F 4)], meshRefuse (meshed id).hw f = none ∧ MeshTakes (meshed id).hw f.typ [f] f ∧ (meshReq (meshed id) [f]).todo = [] ∧
      ServedNow (meshReq (meshed id) [f]) (meshed id).begun) ∧
    (NoneServed (meshReq (meshed id) [rdFlit]) (meshed id).begun ∧ MeshTakes (meshed id).hw 2 [rdFlit] rdFlit) ∧
    ingressClass (meshed id).hw false true 0x2000000000 128 = 0 ∧
    (readClass (meshed id).hw true 0x2000000000 1 = 0 ∧ inRegs (meshed id).hw 0x2000000000 = false) ∧
    readClass (meshed id).hw true 0x2000000000 33 ≠ 0 ∧
    inRegs (meshed id).hw 0x4000000000 = true ∧
    (meshTxn waitsRead.hw 5 = some readTxn ∧ readTxn.kind = 2) ∧
    meshTxn (meshed id).hw 5 = none ∧
    (match (readEnd 0x20 true 0x2000000000 1 (failedAt none) (meshed id).hw).2 with | .ok l => l.length | .error _ => 0) = 128 ∧
    (match (readEnd 0x20 true 0x2000000000 33 (failedAt none) (meshed id).hw).2 with | .ok _ => 0 | .error c => c) = cACCESS_RANGE ∧
    (refBar (leAt (leBytes 0x103F 4) 0 4) = some 63 ∧ refBar (leAt (leBytes 0x2000 4) 0 4) = none) ∧
    ((failedAt none).bad = none ∧ (failedAt (some 0x200000007F)).bad = some 0x200000007F ∧ (0x2000000000 : Nat) ≤ 0x200000007F ∧
      (0x200000007F : Nat) < 0x2000000000 + 128) ∧
    ingressClass (meshed id).hw false true 0x5000000000 128 ≠ 0 ∧
    (refSem (leAt (leBytes 1 8) 0 4) = some 1 ∧ semOn (meshed id).hw 1 = true ∧ refSem (leAt (leBytes 4095 8) 0 4) = some 4095 ∧
      semOn (meshed id).hw 4095 = false ∧ refSem (leAt (leBytes 0x2000 8) 0 4) = none) ∧
    (ingressClass (meshed id).hw true true 0x2000000000 128 = 0 ∧ (0 : Nat) < 128) ∧
    ((regReq []).todo = .rd 0x4000000000 4 :: [] ∧ (regReq [.rd 0 4]).todo = .rd 0x4000000000 4 :: [.rd 0 4] ∧ inRegs hwCold 0x4000000000 =
      true ∧ (regReq []).unit ≠ 0x18) ∧
    ((bgNew hwCold 0x18 [] .sem).unit = 0x18 ∧ inRegs hwCold 0x2000000000 = false) ∧
    ((failedAt none).ans = 0 ∧ { failedAt none with ans := cPEER_FENCED }.ans ≠ 0 ∧ wrFlit.typ ≠ 2 ∧ rdFlit.typ = 2) := by
  (repeat' with_reducible apply And.intro) <;> first
    | decide +kernel
    | (unfold MeshTakes ServedNow; decide +kernel)
    | (unfold MeshTakes; decide +kernel)
    | (unfold ServedNow; decide +kernel)
    | (unfold MeshTakes NoneServed; decide +kernel)
    | (unfold NoneServed; decide +kernel)

def fencedSt (regs : List (Nat × W32)) : State := st regs (fun h => { h with net := { h.net with fenced := true }, clk := { h.clk with lock := true } })
def clockedCold : State := st [] (fun h => { h with clk := { h.clk with lock := true } })
/-- Channel 0 of engine 0 has a paced fill of CSM in flight, which waits for a slot, since cycle 0. -/
def pacedFlight : Flight := { aFlight true with d := { fillDesc true with bytes := leBytes 1 4 ++ leBytes 0 12 ++ leBytes 0x3800000000 8 ++ (fillDesc true).bytes.drop 24 } }
def pacing (now : Nat) : State := st [] (fun h => { (h.modTe 0 (fun c => { c with st := .run, flights := [pacedFlight] })) with now := now })
/-- Two requests of mesh ports, the second first in line. -/
def twoReqs : State := meshed (fun h => { h with bg := [bgNew h 0x21 [] (.mesh 1 []), bgNew h 0x20 [] (.mesh 0 [])] })

/-- A read of BM waits in an odd cycle, in which no request of BM is served; and a mesh transaction while the cluster is SHELVED. -/
def oddWait : State := meshed (fun h => { h with frame := 60, now := 361, bg := [bgNew h 0x1A [.rd 0x1000000000 4] .sem] })
def shelvedWait : State := st [(0x200034, 2#32), (4, 4#32)] (fun h => { h with bg := [bgNew h 0x20 [] (.mesh 0 [aFlit 4 0 true []])] })
theorem witness_mesh_refused_or_waiting :
    (∀ f ∈ [aFlit 1 0 false [], aFlit 2 0 false [], aFlit 3 0 false [], aFlit 4 0 false [], aFlit 5 0 false [], aFlit 6 0 false [], aFlit 7 0
      false []], meshRefuse (fencedSt [(4, 7#32)]).hw f = some cPEER_FENCED ∧ MeshTakes (fencedSt [(4, 7#32)]).hw f.typ [f] f ∧
      cluState (fencedSt [(4, 7#32)]).hw ≠ 1) ∧
    (meshRefuse clockedCold.hw (aFlit 1 0 false []) = some cACCESS_RANGE ∧
      MeshTakes clockedCold.hw 1 [aFlit 1 0 false []] (aFlit 1 0 false []) ∧ cluState clockedCold.hw = 1) ∧
    ((fencedSt [(4, 7#32)]).hw.net.fenced = true ∧ cluState (fencedSt [(4, 7#32)]).hw < 8) ∧
    (clockedCold.hw.net.fenced = false ∧ cluState clockedCold.hw = 1 ∧ inRegs clockedCold.hw 0x3800000000 = false ∧
      regionOf clockedCold.hw 0x3800000000 ≠ .csm) ∧
    ((meshed id).hw.net.fenced = false ∧ cluState (meshed id).hw ≠ 1) ∧
    ({ aFlit 1 0 false [] with ok := false }.ok = false ∧ (aFlit 1 0 false []).slot = false ∧ (meshed id).hw.clk.lock = true) ∧
    (meshRefuse (meshed id).hw { aFlit 1 0 false [] with dst := 5 } = none ∧ (5 : Nat) ≠ (meshed id).hw.cid) ∧
    (pwrState (st [(0x200034, 2#32)] id).hw = 2 ∧ (bgNew (st [(0x200034, 2#32)] id).hw 0x20 [] (.mesh 0 [aFlit 4 0 true []])).what =
      .mesh 0 [aFlit 4 0 true []] ∧ [aFlit 4 0 true []].any (fun f => f.host && decide (f.typ =
      2) && inRegs (st [(0x200034, 2#32)] id).hw f.addr) = false) ∧
    nextServed (ringAsk (settle 0 twoReqs.begun)) 0 = some (.inl (bgNew twoReqs.hw 0x20 [] (.mesh 0 []))) ∧
    (nextServed (ringAsk (settle 500 (pacing 500).begun)) 500 = some (.inr (0, pacedFlight)) ∧ pacedWaits (pacing 500).hw ≠ []) ∧
    ((meshed id).hw.bg = [] ∧ pacedWaits (meshed id).hw = [] ∧ (meshed id).hw.rcd.queue = []) ∧
    ((meshReq (meshed id) [wrFlit]).todo ≠ [] ∧ (meshed (fun h => bgAdd (meshReq (meshed id) [wrFlit]) h)).hw.bg ≠ [] ∧
      nextServed (ringAsk (settle 0 (meshed (fun h => bgAdd (meshReq (meshed id) [wrFlit]) h)).begun)) 0 =
      some (.inl (meshReq (meshed id) [wrFlit]))) ∧
    ((meshed (fun h => { h with now := 256, bg := [meshReq (meshed id) [wrFlit]] })).hw.bg = [meshReq (meshed id) [wrFlit]] ∧
      (meshReq (meshed id) [wrFlit]).warned = false ∧ (meshReq (meshed id) [wrFlit]).since + 256 ≤ 256 ∧
      ((meshReq (meshed id) [wrFlit]).todo.head?.bind (fun x => waitMemory (meshed id).hw x.addr)).isSome = true ∧
      pacedWaits (meshed (fun h => { h with now := 256, bg := [meshReq (meshed id) [wrFlit]] })).hw = []) ∧
    (pacedWaits (pacing 500).hw = [(0, pacedFlight)] ∧ pacedFlight.warned = false ∧ pacedFlight.since + 256 ≤ 500 ∧
      ((pacedWork (pacing 500).hw pacedFlight).bind (fun w => waitMemory (pacing 500).hw w.2)).isSome = true) ∧
    (pacedWaits twoReqs.hw = [] ∧ ∀ b ∈ twoReqs.hw.bg, b.warned = true ∨ twoReqs.hw.now < b.since + 256) ∧
    (oddWait.hw.bg ≠ [] ∧ (serveAt 361 oddWait.begun).isNone = true ∧ (serveAt 362 oddWait.begun).isSome = true ∧ oddWait.hw.now + 1 <
      6 * (oddWait.hw.frame + 1)) ∧
    (shelvedWait.hw.bg ≠ [] ∧ ∀ i, i < 6 → (serveAt i shelvedWait.begun).isNone = true) := by
  (repeat' with_reducible apply And.intro) <;> first
    | decide +kernel
    | (unfold MeshTakes; decide +kernel)

def portIs (v : W32) : State := st [(0x700000, v), (0x700010, 1#32)] (fun h => { h with clk := { h.clk with lock := true } })

theorem witness_mesh_ports :
    ({ readTxn with kind := 1 }.owner ≠ .answer ∧ { readTxn with kind := 1 }.kind ≠ 2 ∧ { readTxn with kind := 1 }.sent = true ∧
      { readTxn with kind := 1 }.far = false) ∧
    (∀ t ∈ (meshed id).hw.net.txns, t.txid ≠ 5) ∧
    portState (portIs 0#32).hw 0 = 0 ∧
    portState (portIs 0x04000000#32).hw 0 = 1 ∧
    portState (portIs 0x08000000#32).hw 0 = 2 ∧
    portState (portIs 0x0C000000#32).hw 0 = 3 ∧
    (nbit ((portIs 0#32).hw.reg 0x700010).toNat 0 = true ∧ (portIs 0#32).hw.clk.lock = true) ∧
    nbit ((st [(0x700010, 0#32)] id).hw.reg 0x700010).toNat 0 = false ∧
    (portState (portIs 0x0A000000#32).hw 0 = 2 ∧ (portIs 0x0A000000#32).hw.fld (mshStat 0) 22 4 = 8) ∧
    (Reaches .kc (st [] id) ∧ nbit (0#32).toNat 0 = false ∧ nbit (1#32).toNat 0 = true) ∧
    (meshRoute (meshed id).hw 1 false).status = 0 ∧
    (meshRoute (meshed id).hw 1 true).status ≠ 0 := by
  (repeat' with_reducible apply And.intro) <;> first
    | decide +kernel
    | (unfold Reaches; decide +kernel)

/-- A header beat: type, SEQ, source, address, LEN8 and TXID, inline bytes, and the CRC over it and the payload. -/
def headSeq (seq typ src addr w : Nat) (inl pl : List Byte) : List Byte :=
  let b := bytesAt (leBytes typ 4 ++ leBytes seq 4 ++ leBytes 0 4 ++ leBytes src 4 ++ leBytes 0 4 ++ leBytes (addr % 2 ^ 32 / 8 * 8) 4 ++
    leBytes (addr / 2 ^ 32) 4 ++ leBytes w 4 ++ List.replicate 32 0 ++ inl) 0 124
  farHead b (BitVec.ofNat 32 (crc32c none (b ++ pl)))
def farUp (regs : List (Nat × W32)) (f : Hw → Hw) : State :=
  st ([(4, 4#32), (farReg 31 0, 0x80000001#32), (farReg 31 8, 2#32), (0x500200, 2#32)] ++ regs)
    (fun h => f { h with net := { h.net with linkup := h.net.linkup.set 0 true } })
def hd1 : List Byte := headSeq 0 1 1 0x2000000000 1 [] (List.replicate 8 9)
def pl1 : List Byte := List.replicate 8 9
/-- A packet of type `t` without a payload, with an access or a reference in its inline bytes, and with the sequence number `q`. -/
def hdT (t : Nat) : List Byte := headSeq 0 t 1 0x2000000000 0 (leBytes 1 4) []
def hdQ (q : Nat) : List Byte := headSeq q 4 1 0 0 (leBytes 1 4) []
/-- The hardware that has heard a packet, and has taken what its header brings. -/
def heardBy (s : State) : Hw := s.begun.modChan 31 (fun ch => { ch with lastHeard := s.hw.now })
def headBy (s : State) (hd : List Byte) : Hw := farHeader 31 hd (heardBy s)
def farFencedSt : State := farUp [] (fun h => { h.setReg 4 7#32 with net := { h.net with fenced := true, linkup := h.net.linkup.set 0 true } })
def farShelved : State := farUp [(0x200034, 2#32)] id
def farCold : State := farUp [(farReg 31 8, 0#32)] id
def farAnswer5 : State := farUp [] (fun h => { h with net := { h.net with linkup := h.net.linkup.set 0 true, txns := [{ aTxn with far := true, fc := 31, kind := 2, txid := 0, sent := true }] } })

theorem witness_far_packets :
    FarHears (farUp [] id).hw 31 1 hd1 pl1 ∧
    (∀ t ∈ [2, 3, 4, 5, 6, 7, 8], FarHears (farUp [] id).hw 31 t (hdT t) []) ∧
    (∀ t ∈ [0x10, 0x11, 0x12, 0x13], FarHears (farUp [] id).hw 31 t (hdT t) []) ∧
    chanState (farUp [] id).hw 31 = 2 ∧
    (FarInOrder (headBy (farUp [] id) hd1) 31 hd1 ∧ ¬FarFenced (headBy (farUp [] id) hd1) hd1) ∧
    (∀ t ∈ [2, 3, 4, 6, 7, 8], FarInOrder (headBy (farUp [] id) (hdT t)) 31 (hdT t) ∧ ¬FarFenced (headBy (farUp [] id) (hdT t)) (hdT t)) ∧
    FarInOrder (heardBy (farUp [] id)) 31 (hdT 5) ∧
    (FarHears farFencedSt.hw 31 4 (hdT 4) [] ∧ FarInOrder (headBy farFencedSt (hdT 4)) 31 (hdT 4) ∧
      FarFenced (headBy farFencedSt (hdT 4)) (hdT 4)) ∧
    ServedNow (farNo (headBy farFencedSt (hdT 4)) 31 (hdT 4) []) (farTaken 31 [] (headBy farFencedSt (hdT 4))) ∧
    (ServedNow (farReq (headBy (farUp [] id) hd1) 31 hd1 pl1) (farTaken 31 pl1 (headBy (farUp [] id) hd1)) ∧
      (farReq (headBy (farUp [] id) hd1) 31 hd1 pl1).todo ≠ []) ∧
    (ServedNow (farReq (headBy (farUp [] id) (hdT 4)) 31 (hdT 4) []) (farTaken 31 [] (headBy (farUp [] id) (hdT 4))) ∧
      (farReq (headBy (farUp [] id) (hdT 4)) 31 (hdT 4) []).todo = []) ∧
    NoneServed (farReq (headBy farShelved (hdT 4)) 31 (hdT 4) []) (farTaken 31 [] (headBy farShelved (hdT 4))) ∧
    ServedNow (farReq (heardBy (farUp [] id)) 31 (hdT 5) []) (farTaken 31 [] (heardBy (farUp [] id))) ∧
    (hTyp hd1 = 1 ∧ ingressClass (farUp [] id).hw (hHost hd1) true (hAddr hd1) (bytesAt pl1 0 (8 * hLen8 hd1)).length = 0) ∧
    (hTyp (hdT 2) = 2 ∧ readClass (farUp [] id).hw (hHost (hdT 2)) (hAddr (hdT 2)) (leAt (hInline (hdT 2)) 0 4) = 0 ∧
      inRegs (farUp [] id).hw (hAddr (hdT 2)) = false) ∧
    readClass (farUp [] id).hw (hHost (hdT 2)) (hAddr (hdT 2)) 33 ≠ 0 ∧
    (∀ t ∈ [3, 5], hTyp (hdT t) = t ∧ (farTxn farAnswer5.hw 31 (hTxid (hdT t))).map (fun t => t.kind) = some 2) ∧
    farTxn (farUp [] id).hw 31 (hTxid (hdT 5)) = none ∧
    ((farReq (farUp [] id).hw 31 (hdT 4) []).ans = 0 ∧ (farNo (farUp [] id).hw 31 (hdT 4) []).ans ≠ 0) ∧
    (∀ t ∈ [6, 7], refBar (leAt (hInline (headSeq 0 t 1 0 0 (leBytes 0x103F 4) [])) 0 4) = some 63 ∧ refBar (leAt (hInline (hdT t)) 0 4) = none) ∧
    ((bgNew (farUp [] id).hw 0x24 [] (.far 31 (hdQ 1) [] 1)).what = .far 31 (hdQ 1) [] 1 ∧
      (farUp [] (fun h => bgAdd (bgNew h 0x24 [] (.far 31 (hdQ 0) [] 0)) h)).hw.bg = [bgNew (farUp [] id).hw 0x24 [] (.far 31 (hdQ 0) [] 0)] ∧
      bgNew (farUp [] id).hw 0x24 [] (.far 31 (hdQ 1) [] 1) ≠ bgNew (farUp [] id).hw 0x24 [] (.far 31 (hdQ 0) [] 0)) ∧
    (∀ q ∈ [65535, 0x8000], FarHears (farUp [] id).hw 31 4 (hdQ q) [] ∧ farLive (headBy (farUp [] id) (hdQ q)) 31 = true ∧ leAt (hdQ q) 4 2 ≠
      (headBy (farUp [] id) (hdQ q)).fld (farReg 31 0x18) 16 16 ∧ (0 + 65536 - leAt (hdQ q) 4 2) % 65536 ≤ 32768) ∧
    (leAt (hdQ 1) 4 2 = 1 ∧ 32768 < (0 + 65536 - leAt (hdQ 1) 4 2) % 65536 ∧ ((headBy (farUp [] id) (hdQ 1)).chan 31).nak = none) ∧
    (((headBy (farUp [] (fun h => h.modChan 31 (fun c => { c with nak := some (0, 0) }))) (hdQ 1)).chan 31).nak = some (0, 0) ∧
      (headBy (farUp [] id) (hdQ 1)).frame < 0 + (headBy (farUp [] id) (hdQ 1)).fld (farReg 31 0xC) 0 16) ∧
    (chanState farCold.hw 31 = 0 ∧ ∀ t ∈ [4, 0x10, 0x11, 0x12], FarHears farCold.hw 31 t (hdT t) []) ∧
    ((headBy (farUp [] id) (hdT 0x11)).chan 31).kept = [] ∧
    ((headBy (farUp [] (fun h => h.modChan 31 (fun c => { c with kept := [⟨5, 1, false, 5, 1, 0, [], [], 0, 0⟩] }))) (hdT 0x11)).chan 31).kept ≠
      [] ∧
    (chanState (farUp [(farReg 31 8, 3#32)] id).hw 31 = 3 ∧ FarHears (farUp [(farReg 31 8, 3#32)] id).hw 31 0x13 (hdT 0x13) [] ∧
      hSrc (hdT 0x13) = (farUp [(farReg 31 8, 3#32)] id).hw.fld (farReg 31 0) 0 18) ∧
    (chanState (farUp [(farReg 31 8, 1#32)] id).hw 31 = 1 ∧ FarHears (farUp [(farReg 31 8, 1#32)] id).hw 31 0x13 (hdT 0x13) []) ∧
    crc32c none (bytesAt (farHead [] 0#32) 0 0x7C) ≠ leAt (farHead [] 0#32) 0x7C 4 ∧
    nbit ((st [] id).hw.reg (farReg 31 0)).toNat 31 = false ∧
    (FarHears (farUp [] id).hw 31 5 (headSeq 65535 5 1 0 0 (leBytes 1 4) []) [] ∧ leAt (headSeq 65535 5 1 0 0 (leBytes 1 4) []) 4 2 = 65535 ∧
      (heardBy (farUp [] id)).fld (farReg 31 0x18) 16 16 = 0) ∧
    (FarHears (farUp [] id).hw 31 5 (headSeq 1 5 1 0 0 (leBytes 1 4) []) [] ∧ leAt (headSeq 1 5 1 0 0 (leBytes 1 4) []) 4 2 = 1 ∧
      ((heardBy (farUp [] id)).chan 31).nak = none) ∧
    FarHears farCold.hw 31 5 (hdT 5) [] ∧
    ((farUp [] id).hw.clk.lock = true ∧ cluState (farUp [] id).hw ≠ 1 ∧ (unlocked (farUp [] id)).hw.clk.lock = false ∧
      cluState (farUp [(4, 1#32)] id).hw = 1) := by
  (repeat' with_reducible apply And.intro) <;> first
    | decide +kernel
    | (unfold FarHears; decide +kernel)
    | (unfold FarInOrder FarFenced; decide +kernel)
    | (unfold FarInOrder; decide +kernel)
    | (unfold FarFenced; decide +kernel)
    | (unfold FarHears FarInOrder FarFenced; decide +kernel)
    | (unfold ServedNow; decide +kernel)
    | (unfold NoneServed; decide +kernel)

def aPkt (sends : Nat) : FarPkt := ⟨0, 1, false, 5, 1, 0, [], [], sends, 0⟩
def farChan (regs : List (Nat × W32)) (f : FarCh → FarCh) : State := farUp regs (fun h => h.modChan 31 f)
def lateTxn : Txn := { aTxn with far := true, fc := 31 }
/-- Firmware fences the cluster: the drain is asked for, and `n` descriptors of channel 0 are in flight. -/
def fencing (f : Hw → Hw) : State := runFw [(4, 7#32), (0x700030, 1#32)] f
def fenceHw (s : State) : Hw := irq 0x0A (setState 7 (((s.begun.setReg 0x700020 (2#32 &&& 2#32)).setReg 0x700030 1#32).orReg 4 0x10))
def drained (s : State) : Hw := (List.finRange 64).foldl (fun h k => tenStop k h) s.begun

/-- Channel 31 may hold 8 buffers; the pool is `n` of them. -/
def pooled (n : W32) (q : List Nat) : Hw := (farUp [(farReg 31 0x14, 8#32), (0x801008, n)] (fun h => { h with net := { h.net with poolq := q } })).hw
theorem witness_far_timers :
    (((farChan [] (fun c => { c with ackDue := some 8 })).hw.chan 31).ackDue = some 8 ∧
      chanState (farChan [] (fun c => { c with ackDue := some 8 })).hw 31 = 2) ∧
    (((farUp [] id).hw.chan 31).ackDue = none ∧ ((farUp [] id).hw.chan 31).kept = []) ∧
    (((farChan [] (fun c => { c with kept := [aPkt 0] })).hw.chan 31).kept = [aPkt 0] ∧ (aPkt 0).sends <
      (farUp [] id).hw.fld (farReg 31 0xC) 16 3 + 1) ∧
    (((farChan [] (fun c => { c with kept := [aPkt 8] })).hw.chan 31).kept = [aPkt 8] ∧ (farUp [] id).hw.fld (farReg 31 0xC) 16 3 + 1 ≤
      (aPkt 8).sends) ∧
    (nbit ((farUp [] id).hw.reg (farReg 31 0)).toNat 31 = true ∧ (farUp [] id).hw.net.linkup.getD ((farUp [] id).hw.fld (farReg 31 0) 18 1)
      false = true) ∧
    chanState (farUp [(farReg 31 8, 1#32)] id).hw 31 = 1 ∧
    ((farUp [(farReg 31 0x10, 4#32)] (fun h => { h with frame := 9, now := 6000, net := { h.net with txns := [lateTxn] } })).hw.net.txns =
      [lateTxn] ∧ lateTxn.far = true ∧ lateTxn.fc = 31 ∧ lateTxn.owner ≠ .answer ∧ lateTxn.late = false ∧
      frameOf lateTxn.handed + ((farUp [(farReg 31 0x10, 4#32)] id).hw.reg (farReg 31 0x10)).toNat <
      (farUp [] (fun h => { h with frame := 9, now := 6000 })).hw.frame) ∧
    (∀ t ∈ (farUp [] id).hw.net.txns, t.far = false) ∧
    (poolFree (st [(0x801008, 1#32)] (fun h => { h with net := { h.net with poolq := [31] } })).hw ≠ 0 ∧
      (st [(0x801008, 1#32)] (fun h => { h with net := { h.net with poolq := [31] } })).hw.net.poolq = [31]) ∧
    (st [] id).hw.net.poolq = [] ∧
    (pwrState (st [(0x801008, 1#32)] id).hw ≠ 2 ∧ pwrState (st [(0x200034, 2#32)] id).hw = 2) ∧
    (farLive (pooled 1 []) 31 = true ∧ ((pooled 1 []).chan 31).granted < (pooled 1 []).fld (farReg 31 0x14) 0 7 ∧ (pooled 1 []).net.poolq = []) ∧
    (farLive (pooled 0 []) 31 = true ∧ ((pooled 0 []).chan 31).granted < (pooled 0 []).fld (farReg 31 0x14) 0 7 ∧ (pooled 0 []).net.poolq = [] ∧
      poolFree (pooled 0 []) = 0) ∧
    (poolFree (pooled 1 []) ≠ 0 ∧ (pooled 1 []).net.poolq = [] ∧ (pooled 1 [5]).net.poolq ≠ []) ∧
    (∀ k, k < 32 → farLive hwCold k = false) := by
  (repeat' with_reducible apply And.intro) <;> decide +kernel

/-- As the drain is looked at: no descriptor is in flight, no page-in under way, and what was parked has been written. -/
def idleNow (s : State) : Bool × Bool × Bool := let h := drained s
  ((List.range 64).all (fun k => (h.te k).flights.isEmpty), h.fw.inc.all (fun p => decide (p.stage = 2)), postsDone (parkAll h) 0x19)
/-- Queue 6 is resident as firmware drains. -/
def withGuest : State := fencing (fun h => { h with fw := { h.fw with res := [⟨6, List.replicate 512 0, 0⟩], made := [6] } })
theorem witness_fencing :
    (Reaches .kc (runFw [] id) ∧ cluState (runFw [] id).hw = 4 ∧ (runFw [] id).hw.boot.drain = none) ∧
    (¬(cluState (st [] id).hw = 4 ∨ cluState (st [] id).hw = 5 ∨ cluState (st [] id).hw = 6)) ∧
    ((fenceHw (runFw [] id)).fw.phase = none ∧ fwRuns (fenceHw (runFw [] id)) = true) ∧
    ((fenceHw (runFw [] (fun h => { h with fw := { h.fw with phase := some aPhase } }))).fw.phase = some aPhase ∧
      fwRuns (fenceHw (runFw [] (fun h => { h with fw := { h.fw with phase := some aPhase } }))) = true ∧ aPhase.running = true) ∧
    (nbit (2#32).toNat 1 = true ∧ { aPhase with running := false }.running = false ∧
      fwRuns (stopUnits (phaseDisarm (fenceHw (runFw [] (fun h => { h with fw := { h.fw with phase := some { aPhase with running := false } } })))))
      = true) ∧
    (fwRuns (fenceHw (st [(4, 5#32)] id)) = false ∧ cluState (st [(4, 5#32)] id).hw = 5) := by
  (repeat' with_reducible apply And.intro) <;> first
    | decide +kernel
    | (unfold Reaches; decide +kernel)

theorem witness_drains_end :
    (fwRuns (fencing id).hw = true ∧ cluState (fencing id).hw = 7 ∧ (fencing id).hw.fld 0x700030 0 2 = 1 ∧ (fencing id).hw.fw.cmds = [] ∧
      (fencing id).hw.fw.phase = none ∧ coresRest (fencing id).hw 0xFF = true ∧ carsRest (fencing id).hw (2 ^ 64 - 1) = true) ∧
    idleNow (fencing id) = (true, true, true) ∧
    idleNow withGuest = (true, true, false) := by
  (repeat' with_reducible apply And.intro) <;> decide +kernel

theorem witness_drains_wait :
    (idleNow (fencing (fun h => { h with fw := { h.fw with inc := [⟨5, [], none, 0⟩] } }))).2.1 = false := by
  decide +kernel

theorem witness_acknowledgements :
    (idleNow (fencing (fun h => h.modTe 63 (fun c => { c with st := .run, flights := [aFlight true] })))).1 = false ∧
    ((st [(0x700030, 2#32)] id).hw.fld 0x700030 0 2 = 2 ∧ ∀ k, k < 32 → farLive (st [(0x700030, 2#32)] id).hw k = false) ∧
    (farLive (farChan [] (fun c => { c with kept := [{ aPkt 0 with typ := 8 }] })).hw 31 = true ∧
      { aPkt 0 with typ := 8 } ∈ ((farChan [] (fun c => { c with kept := [{ aPkt 0 with typ := 8 }] })).hw.chan 31).kept ++ ((farChan [] (fun c =>
      { c with kept := [{ aPkt 0 with typ := 8 }] })).hw.chan 31).waitq) := by
  (repeat' with_reducible apply And.intro) <;> decide +kernel

/-! ### Witnesses: queues and commands -/

/-- The context of a queue: rings of 16 at 0x20_0000_1000 and 0x20_0000_2000, SQ_HEAD 0, SQ_TAIL `tail`, one semaphore. -/
def ctxOf (q tail : Nat) : List Byte :=
  bytesAt (leBytes (q + 2 ^ 16) 4 ++ leBytes 0x404 4 ++ leBytes 0x1000 4 ++ leBytes 0x20 4 ++ leBytes 0x2000 4 ++ leBytes 0x20 4 ++
    leBytes 0 2 ++ leBytes tail 2 ++ List.replicate 0xE4 0 ++ leBytes 0x10001 4) 0 512
/-- A request of firmware that has read the bytes `l`. -/
def read (h : Hw) (what : BgWhat) (l : List Byte) : BgReq := { bgNew h 0x18 [] what with got := l }
/-- Queue `q` resident, and firmware has read the command `b` at its head, and its phase list. -/
def queued (q : Nat) (b : List Byte) (f : Hw → Hw) : State :=
  runFw [] (fun h => f { h with
    fw := { h.fw with res := [⟨q, ctxOf q 1, 0⟩], made := [q] }
    bg := [read h (.cmd q) b, read h (.list q) (bytesAt (List.replicate 16 0 ++ leBytes 0x10000 4) 0 256)] })
def runBody : List Byte := bytesAt (leBytes 0x00010001 4 ++ leBytes 0 12 ++ leBytes 0x3000 4 ++ leBytes 0x20 4 ++ leBytes 1 4) 0 64
def sigBody : List Byte := bytesAt (leBytes 0x00010002 4 ++ leBytes 0 12 ++ leBytes 1 4 ++ leBytes 1 4) 0 64
def createBody : List Byte := bytesAt (leBytes 0x00010010 4 ++ leBytes 0 12 ++ leBytes 7 4 ++ leBytes 0x404 4 ++ leBytes 0x4000 4 ++ leBytes 0x20 4 ++
  leBytes 0x5000 4 ++ leBytes 0x20 4 ++ leBytes 0x10005 4) 0 64
def adminBody (typ q : Nat) : List Byte := bytesAt (leBytes (0x00010000 + typ) 4 ++ leBytes 0 12 ++ leBytes q 4) 0 64
def withQueue7 (h : Hw) : Hw := { h with fw := { h.fw with res := h.fw.res ++ [⟨7, overlay (ctxOf 7 0) 0x100 (leBytes 0x10009 4), 0⟩], made := [0, 7] } }

def qs (f : Hw → Hw) : State := queued 1 runBody f
/-- The hardware as a doorbell finds it, and as firmware samples the heartbeat word: instance, interval, SEQ. -/
def belled (s : State) : Hw := exitTrigger (irq 0x03 s.begun)
def orphaned (f : Hw → Hw) : State := st [(4, 6#32)] (fun h => f { h with fw := { h.fw with ready := true } })
def attachHw (s : State) : Hw := settle (belled s).now (belled s)
def sampled (seq intv : Byte) (f : Fw → Fw) : State := runFw [] (fun h => { h.store 0x2003FFF000 [seq, 0, intv, 0] with fw := f h.fw })
def sampleHw (s : State) : Hw := settle s.hw.now s.begun

/-- The cluster is an orphan whose queues are to be parked. -/
def orphanFw (f : Fw → Fw) : Hw := (runFw [] (fun h => { h with fw := f { h.fw with orphan := true } })).hw
def justRead : State := queued 1 runBody (fun h => { h with bg := [read h (.cmd 1) runBody] })
theorem witness_queues_and_the_host :
    (Reaches (.host 0) (qs id) ∧ qCreated (qCtx (belled (qs id)) (fieldOf 0x0001000F#32 16 14)) = true ∧ fieldOf 0x0001000F#32 0 16 <
      qSqLen (qCtx (belled (qs id)) 1)) ∧
    qSqLen (qCtx (belled (qs id)) 1) ≤ fieldOf 0x00010010#32 0 16 ∧
    qCreated (qCtx (belled (qs id)) (fieldOf 0x3FFF0000#32 16 14)) = false ∧
    (qCreated (qCtx (belled (qs id)) (fieldOf 0x00010000#32 16 14)) = true ∧ fieldOf 0x00010000#32 0 16 < qCqLen (qCtx (belled (qs id)) 1) ∧
      (fieldOf 0x00010000#32 0 16 + qCqLen (qCtx (belled (qs id)) 1) - qCqHead (qCtx (belled (qs id)) 1) % qCqLen (qCtx (belled (qs id)) 1)) %
      qCqLen (qCtx (belled (qs id)) 1) ≤ (qCqTail (qCtx (belled (qs id)) 1) + qCqLen (qCtx (belled (qs id)) 1) - qCqHead (qCtx (belled (qs id))
      1)) % qCqLen (qCtx (belled (qs id)) 1)) ∧
    (qCqTail (qCtx (belled (qs id)) 1) + qCqLen (qCtx (belled (qs id)) 1) - qCqHead (qCtx (belled (qs id)) 1)) % qCqLen (qCtx (belled (qs id))
      1) < (fieldOf 0x00010001#32 0 16 + qCqLen (qCtx (belled (qs id)) 1) - qCqHead (qCtx (belled (qs id)) 1) % qCqLen (qCtx (belled (qs id)) 1))
      % qCqLen (qCtx (belled (qs id)) 1) ∧
    qOut (qCtx (queued 0 runBody (putQ 0 0x1C0 2 1)).hw 0) ≠ 0 ∧
    (qOut (qCtx (queued 0 runBody id).hw 0) = 0 ∧ nbit (0x80000404#32).toNat 31 = true ∧ nbit ((queued 0 runBody id).hw.reg 0x400008).toNat 31 =
      false) ∧
    (nbit (0x00000404#32).toNat 31 = false ∧ nbit ((st [(0x400008, 0x80000404#32)] id).hw.reg 0x400008).toNat 31 = true ∧
      qOut (qCtx (st [(0x400008, 0x80000404#32)] id).hw 0) = 0) ∧
    cluState (attachHw (qs id)) ≠ 6 ∧
    (cluState (attachHw (st [(4, 6#32)] id)) = 6 ∧ (attachHw (st [(4, 6#32)] id)).fw.ready = false) ∧
    (cluState (attachHw (orphaned id)) = 6 ∧ (attachHw (orphaned id)).fw.ready = true ∧ (5#32).toNat ≠
      (attachHw (orphaned id)).fw.hseq % 2 ^ 32) ∧
    ((0#32).toNat = (attachHw (orphaned id)).fw.hseq % 2 ^ 32 ∧ hbInterval (hbWord (attachHw (orphaned id))) = 0) ∧
    (cluState (attachHw (orphaned (fun h => h.store 0x2003FFF000 [0, 0, 5, 0]))) = 6 ∧ (0#32).toNat =
      (attachHw (orphaned (fun h => h.store 0x2003FFF000 [0, 0, 5, 0]))).fw.hseq % 2 ^ 32 ∧
      hbInterval (hbWord (attachHw (orphaned (fun h => h.store 0x2003FFF000 [0, 0, 5, 0])))) ≠ 0) := by
  (repeat' with_reducible apply And.intro) <;> first
    | decide +kernel
    | (unfold Reaches; decide +kernel)

/-- The context of queue 5 in the store: its first 28 bytes, and one semaphore; its page-in is at a stage, with its reads served or failed. -/
def stored5 (h : Hw) : Hw := (h.store (qAddr h 5) ((ctxOf 5 1).take 28)).store (qAddr h 5 + 0x100) (leBytes 0x10001 4)
def paging (stage : Nat) (b : Option BgReq) : State :=
  runFw [] (fun h => { stored5 h with fw := { h.fw with inc := [⟨5, ctxOf 5 1, none, stage⟩] }, bg := b.toList })
def pageReq (bad : Option Nat) : BgReq := { bgNew (runFw [] id).hw 0x18 [] (.page 5) with bad := bad }

theorem witness_heartbeats_and_paging :
    (fwRuns (sampled 0 0 id).begun = true ∧ 4 ≤ cluState (sampled 0 0 id).begun ∧ cluState (sampled 0 0 id).begun ≤ 7) ∧
    ((sampleHw (sampled 0 5 id)).fw.attached = none ∧ hbInterval (hbWord (sampleHw (sampled 0 5 id))) = 5 ∧
      (sampleHw (sampled 0 5 id)).fw.orphan = false) ∧
    ((sampleHw (sampled 0 0 id)).fw.attached = none ∧ hbInterval (hbWord (sampleHw (sampled 0 0 id))) = 0) ∧
    ((sampleHw (sampled 1 5 (fun x => { x with attached := some 0 }))).fw.attached = some 0 ∧
      hbSeqOf (hbWord (sampleHw (sampled 1 5 (fun x => { x with attached := some 0 })))) ≠
      (sampleHw (sampled 1 5 (fun x => { x with attached := some 0 }))).fw.hbSeq ∧
      hbInstance (hbWord (sampleHw (sampled 1 5 (fun x => { x with attached := some 0 })))) = 0 ∧
      hbInterval (hbWord (sampleHw (sampled 1 5 (fun x => { x with attached := some 0 })))) ≠ 0) ∧
    (hbSeqOf (hbWord (sampleHw (sampled 1 0 (fun x => { x with attached := some 0 })))) ≠
      (sampleHw (sampled 1 0 (fun x => { x with attached := some 0 }))).fw.hbSeq ∧
      hbInterval (hbWord (sampleHw (sampled 1 0 (fun x => { x with attached := some 0 })))) = 0) ∧
    (hbSeqOf (hbWord (sampleHw (sampled 0 5 (fun x => { x with attached := some 0 })))) =
      (sampleHw (sampled 0 5 (fun x => { x with attached := some 0 }))).fw.hbSeq ∧
      800000 * (sampleHw (sampled 0 5 (fun x => { x with attached := some 0, hbClock := 800000 * 127 }))).fld 0x400028 16 7 ≤
      (sampleHw (sampled 0 5 (fun x => { x with attached := some 0, hbClock := 800000 * 127 }))).fw.hbClock - (sampleHw (sampled 0 5 (fun x =>
      { x with attached := some 0, hbClock := 800000 * 127 }))).fw.hbAt) ∧
    (sampleHw { sampled 0 5 (fun x => { x with attached := some 0 }) with hw := (sampled 0 5 (fun x => { x with attached := some 0 })).hw.setReg 0x400028 0x50000#32 }).fw.hbClock
      - (sampleHw (sampled 0 5 (fun x => { x with attached := some 0 }))).fw.hbAt <
      800000 * (sampleHw { sampled 0 5 (fun x => { x with attached := some 0 }) with hw := (sampled 0 5 (fun x => { x with attached := some 0 })).hw.setReg 0x400028 0x50000#32 }).fld
      0x400028 16 7 ∧
    fwRuns (st [] id).begun = false ∧
    (fwRuns (runFw [] (fun h => stored5 h)).begun = true ∧ cluState (runFw [] (fun h => stored5 h)).begun = 4 ∧
      pwrState (runFw [] (fun h => stored5 h)).begun = 0 ∧ (runFw [] (fun h => stored5 h)).hw.fw.inc = []) ∧
    (needsEntry (runFw [] (fun h => stored5 h)).begun 5 = true ∧ (runFw [] (fun h => stored5 h)).hw.sync.xfer = none ∧
      pageChoice (runFw [] (fun h => stored5 h)).begun 5 = some none) ∧
    pageChoice (runFw [] (fun h => stored5 { h with fw := { h.fw with res := [⟨6, ctxOf 6 0, 0⟩] } })).begun 5 = some (some 6) ∧
    (pageChoice (runFw [] (fun h => stored5 { h with fw := { h.fw with res := [⟨6, ctxOf 6 1, 0⟩] } })).begun 5 = none ∧
      needsEntry (runFw [] (fun h => stored5 { h with fw := { h.fw with res := [⟨6, ctxOf 6 1, 0⟩] } })).begun 5 = true ∧
      5 ∉ (runFw [] id).hw.fw.pwait) ∧
    needsEntry (runFw [] id).begun 5 = false ∧
    ((paging 0 none).hw.fw.inc = [⟨5, ctxOf 5 1, none, 0⟩] ∧ (paging 0 none).hw.sync.xfer = none ∧ bgDone (paging 0 none).begun (.page 5) =
      none) ∧
    (bgDone (paging 0 (some (pageReq none))).begun (.page 5) = some (pageReq none) ∧ (pageReq none).bad = none) ∧
    (bgDone (paging 0 (some (pageReq (some 0)))).begun (.page 5) = some (pageReq (some 0)) ∧ (pageReq (some 0)).bad ≠ none) ∧
    ((paging 1 none).hw.fw.inc = [⟨5, ctxOf 5 1, none, 1⟩] ∧ (1 : Nat) ≠ 0) ∧
    ((sampleHw (sampled 0 5 (fun x => { x with orphan := true }))).fw.attached = none ∧
      (sampleHw (sampled 0 5 (fun x => { x with orphan := true }))).fw.orphan = true ∧ (sampleHw (sampled 0 0 id)).fw.orphan = false) ∧
    (fwRuns (qs id).hw = true ∧ cluState (qs id).hw = 4 ∧ handoverFields (runFw [] id).hw ≠ handoverFields (qs id).hw) ∧
    (ctxHeld (qs id).hw 1 = true ∧ ctxHeld (runFw [] id).hw 5 = false) ∧
    ((orphanFw id).fw.orphan = true ∧ fwRuns (orphanFw id) = true ∧ cluState (orphanFw id) ≤ 7 ∧ (orphanFw id).fw.cmds = [] ∧
      (orphanFw id).fw.res = [] ∧ (orphanFw id).fw.inc = [] ∧ postsDone (orphanFw id) 0x19 = true ∧ (orphanFw id).fw.ready = false) ∧
    ((orphanFw (fun x => { x with ready := true })).fw.ready = true ∧ (orphanFw (fun x => { x with inc := [⟨5, [], none, 0⟩] })).fw.inc ≠ []) := by
  (repeat' with_reducible apply And.intro) <;> decide +kernel

/-- The bytes that firmware decides the head command of queue `q` from. -/
def known (hw : Hw) (q : Nat) : Option (List Byte) :=
  (headCmd hw q).bind (fun r => if (listOf hw q r).isSome then (bgDone hw (.list q)).map (fun l => r ++ l.got) else some r)
/-- Why it refuses that command, and the command's type. -/
def judged (s : State) (q : Nat) : Option (Option (Nat × Nat) × Nat) :=
  if (mayDecide s.begun q).isSome then (known s.begun q).map (fun b => (cmdRefusal s.begun q b, cmdType b)) else none

theorem known_sound {hw : Hw} {q : Nat} {b : List Byte} (h : known hw q = some b) : HeadKnown hw q b := by
  obtain ⟨r, hr, h⟩ := Option.bind_eq_some_iff.mp h
  split at h
  · rename_i hs
    obtain ⟨l, hl, h⟩ := Option.map_eq_some_iff.mp h
    obtain ⟨a, ha⟩ := Option.isSome_iff_exists.mp hs
    exact ⟨r, hr, .inr ⟨a, l, ha, hl, h.symm⟩⟩
  · rename_i hs
    exact ⟨r, hr, .inl ⟨by simpa using hs, (Option.some.inj h).symm⟩⟩

theorem witness_commands_are_decided :
    (∀ x ∈ [(1, runBody, 1), (1, sigBody, 2), (0, createBody, 0x10)], judged (queued x.1 x.2.1 id) x.1 = some (none, x.2.2)) ∧
    (∀ t ∈ [0x11, 0x12, 0x13], judged (queued 0 (adminBody t 7) withQueue7) 0 = some (none, t)) ∧
    (∀ t ∈ [1, 2, 0x10, 0x11, 0x12, 0x13, 0xFF], (judged (queued 1 (adminBody t 0x3FFF) id) 1).map (fun x => (x.1.isSome, x.2)) =
      some (true, t)) ∧
    ((mayDecide (queued 1 sigBody (fun h => { h with bg := [] })).begun 1).isSome = true ∧
      headCmd (queued 1 sigBody (fun h => { h with bg := [] })).begun 1 = none) ∧
    (headCmd (queued 1 sigBody id).begun 1 = some sigBody ∧ decide (cmdType sigBody = 1) = false) ∧
    (headCmd justRead.begun 1 = some runBody ∧ (listOf justRead.begun 1 runBody).isSome = true ∧ bgDone justRead.begun (.list 1) = none ∧
      (mayDecide justRead.begun 1).isSome = true) ∧
    mayDecide (runFw [] id).begun 1 = none ∧
    (bgWaits (qs id).hw (.cmd 1) = true ∧ bgWaits (runFw [] id).hw (.cmd 1) = false) ∧
    ((headRecord (qs id).begun 1 runBody).refused = false ∧ { headRecord (qs id).begun 1 runBody with refused := true }.refused = true) := by
  (repeat' with_reducible apply And.intro) <;> decide +kernel

def aCmd (fin : Bool) : Cmd := ⟨1, 1, 0, 1, runBody, 1, [128], 0, 128, 64, 0, 0, 0, false, fin, false, false, false, 0⟩
def decided (fin : Bool) (f : Fw → Fw) : State := queued 1 runBody (fun h => { h with fw := f { h.fw with cmds := [aCmd fin] } })
def dcd : State := decided false id
def boundaryOnly : State := queued 0 createBody (fun h => { h with fw := { h.fw with cmds := [{ aCmd false with typ := 0x10 }] } })
def notBegun (regs : List (Nat × W32)) (frame : Nat) : State :=
  runFw regs (fun h => { h with frame := frame, fw := { h.fw with phase := some { aPhase with running := false, start := 1 } } })

/-- The queue's last command has ended, and the request that writes its record waits, or has been served. -/
def recording (todo : List BgAcc) : State := queued 1 runBody (fun h => { h with
  fw := { h.fw with cmds := [aCmd true] }
  bg := [{ bgNew h 0x18 todo (.cqe 1) with since := 5 }] })
/-- The phase entry of `dcd`'s command has been read: `e`; its tables too, where `tb` says so. -/
def entered (e : List Byte) (tb : Bool) (f : Fw → Fw) : State := queued 1 runBody (fun h => { h with
  fw := f { h.fw with cmds := [aCmd false] }
  bg := read h (.phase (phaseKey (aCmd false))) e :: if tb then [read h (.tables (phaseKey (aCmd false))) (List.replicate 256 0)] else [] })
/-- Entries of a phase without cores, of one with core 0, and of one with carrel 0. -/
def noCores : List Byte := List.replicate 256 0
def core0In : List Byte := List.replicate 0x88 0 ++ leBytes 1 4 ++ List.replicate 0x74 0
def car0In : List Byte := List.replicate 0x90 0 ++ leBytes 1 8 ++ List.replicate 0x68 0

theorem witness_commands_complete :
    ((decided true id).hw.fw.cmds = [aCmd true] ∧ (aCmd true).qid = 1 ∧ (aCmd true).fin = true ∧ fwRuns (decided true id).begun = true ∧
      cluState (decided true id).begun = 4 ∧ bgWaits (decided true id).begun (.cqe 1) = false) ∧
    ((recording [.rd 0 1]).hw.fw.cmds = [aCmd true] ∧ bgWaits (recording [.rd 0 1]).begun (.cqe 1) = true ∧
      bgDone (recording [.rd 0 1]).begun (.cqe 1) = none) ∧
    (bgDone (recording []).begun (.cqe 1)).isSome = true ∧
    (dcd.hw.fw.cmds = [aCmd false] ∧ (aCmd false).fin = false) ∧
    (∀ x ∈ (runFw [] id).hw.fw.cmds, x.qid ≠ 0) := by
  (repeat' with_reducible apply And.intro) <;> decide +kernel

theorem witness_phases_are_dispatched :
    (fwRuns dcd.begun = true ∧ cluState dcd.begun = 4 ∧ dcd.hw.fw.phase = none ∧ nbit (dcd.hw.reg 0x300018).toNat 0 = false ∧ dcd.hw.hold.held =
      false ∧ awake dcd.begun = true) ∧
    (nextCmd dcd.begun = some (aCmd false) ∧ bgDone dcd.begun (.phase (phaseKey (aCmd false))) = none) ∧
    (nextCmd (entered noCores false id).begun = some (aCmd false) ∧
      (bgDone (entered noCores false id).begun (.phase (phaseKey (aCmd false)))).map (fun x => x.got) = some noCores ∧
      tableAccs (entered noCores false id).begun noCores = []) ∧
    (holdsEntry (entered noCores false id).begun 1 = true ∧ coresRest (entered noCores false id).begun (declCores noCores) = true ∧
      carsRest (entered noCores false id).begun (leAt noCores 0x90 8) = true ∧ declCores noCores = 0 ∧
      placeOk (entered noCores false id).begun (aCmd false) 8 = true) ∧
    (tableAccs (entered core0In false id).begun core0In ≠ [] ∧ bgWaits (entered core0In false id).begun (.tables (phaseKey (aCmd false))) =
      false) ∧
    ((bgDone (entered core0In true id).begun (.tables (phaseKey (aCmd false)))).isSome = true ∧ declCores core0In ≠ 0 ∧
      (entered core0In true id).hw.fw.loading = none ∧ coresRest (entered core0In true id).begun 1 = true ∧
      holdsEntry (entered core0In true id).begun 1 = true) ∧
    ((entered core0In true (fun x => { x with loading := some (phaseKey (aCmd false)) })).hw.fw.loading = some (phaseKey (aCmd false)) ∧
      ∀ n : Fin 8, ((entered core0In true id).hw.core n).range = none) ∧
    carsRest ((entered car0In false id).begun.modCar 0 (fun e => { e with st := .run })) (leAt car0In 0x90 8) = false ∧
    bgWaits ({ (entered core0In false id).begun with bg := [read hwCold (.phase (phaseKey (aCmd false))) core0In, bgNew hwCold 0x18 [.rd 0 1] (.tables (phaseKey (aCmd false)))] })
      (.tables (phaseKey (aCmd false))) = true ∧
    placeOk dcd.begun (aCmd false) 7 = false ∧
    (nextCmd boundaryOnly.begun = none ∧ boundaryWanted boundaryOnly.begun = true ∧ boundaryOnly.hw.frame + 8 ≤ 8) ∧
    (nextCmd (runFw [] id).begun = none ∧ boundaryWanted (runFw [] id).begun = false) ∧
    nbit ((runFw [(0x300018, 1#32)] id).hw.reg 0x300018).toNat 0 = true ∧
    (runFw [] id).hw.fw.phase = none ∧
    ((phased aPhase id).hw.fw.phase = some aPhase ∧ fwRuns (phased aPhase id).begun = true ∧ aPhase.running = true ∧
      phaseOver (phased aPhase id).begun aPhase = true ∧ aPhase.stopped = false) ∧
    (phaseOver (phased { aPhase with stopped := true } id).begun { aPhase with stopped := true } = true ∧
      nextCmd (phased { aPhase with stopped := true } (fun h => { h with fw := { h.fw with cmds := [aCmd false] } })).begun = some (aCmd false)) ∧
    phaseOver (phased aPhase (fun h => h.setCore 0 { coreFresh with st := .run })).begun aPhase = false ∧
    ((notBegun [] 1).hw.fw.phase = some { aPhase with running := false, start := 1 } ∧ fwRuns (notBegun [] 1).begun = true ∧
      nbit ((notBegun [] 1).hw.reg 0x300018).toNat 0 = false ∧ 1 ≤ (notBegun [] 1).hw.frame) ∧
    (notBegun [] 0).hw.frame < 1 ∧
    nbit ((notBegun [(0x300018, 1#32)] 1).hw.reg 0x300018).toNat 0 = true := by
  (repeat' with_reducible apply And.intro) <;> decide +kernel

/-! ### Witnesses: the control core and firmware -/

def kcW (op imm : Nat) : W32 := wR 0x1F 0 0 op imm
def inTrapRegs (occ sp : Nat) : List (Nat × W32) := [(0xD00000, BitVec.ofNat 32 (occ * 16 + sp * 65536)), (KCP_TSTAT, 1#32), (KCP_WSP, 0x1000#32), (KCP_WSP + 4, 0x20#32)]
/-- What KC finds, and its stack pointer before a spill. -/
def kf (regs : List (Nat × W32)) (w : W32) : Hw := kcFinds (runKc regs w id)
def spillAt (h : Hw) : Nat := (h.reg64 KCP_WSP + 2 ^ 64 - 128) % 2 ^ 64
def spillBytes (h : Hw) : List Byte := (frameRegs ((kcCur h + 9 - kcOcc h) % 8)).flatMap (fun p => leBytes (kcWindow h.kc p.1 p.2).toNat 8)
/-- The stack in BM, in an odd cycle, in which it has no slot; and in the register space. -/
def bmStack (occ sp : Nat) : List (Nat × W32) := [(0xD00000, BitVec.ofNat 32 (occ * 16 + sp * 65536)), (KCP_TSTAT, 1#32), (KCP_WSP, 0x1000#32), (KCP_WSP + 4, 0x10#32)]
def regStack (occ sp : Nat) : List (Nat × W32) := [(0xD00000, BitVec.ofNat 32 (occ * 16 + sp * 65536)), (KCP_TSTAT, 1#32), (KCP_WSP, 0x1000#32), (KCP_WSP + 4, 0x40#32)]
def oddKc (regs : List (Nat × W32)) (w : W32) : State := runKc regs w (fun h => { h with now := 1 })
/-- The accesses `todo` of KC are served, with the failure `bad` if they had one. -/
def askedBad (h : Hw) (todo : List BgAcc) : Option (Option Nat) := (bgDone (kcAsked 0 todo h) (.kc 0)).map (fun b => b.bad)
def badStack : Hw := kcFinds (runKc (inTrapRegs 6 1) (kcW 4 0) (fun h => { h with bad := [wordOf (physOf h 0x2000001000)] }))

theorem witness_control_core_windows :
    (KcRuns (runKc [] (kcW 0 16) id) (kcW 0 16) .wpush ∧ kcInTrap (kf [] (kcW 0 16)) = false ∧ kcOcc (kf [] (kcW 0 16)) ≠ 7) ∧
    (KcRuns (runKc [(0xD00000, 0x70#32)] (kcW 0 16) id) (kcW 0 16) .wpush ∧ kcInTrap (kf [(0xD00000, 0x70#32)] (kcW 0 16)) = false ∧
      kcOcc (kf [(0xD00000, 0x70#32)] (kcW 0 16)) = 7 ∧ kcFatal (kf [(0xD00000, 0x70#32)] (kcW 0 16)) = false) ∧
    (KcRuns (runKc [(0xD00000, 0x20#32)] (kcW 1 0) id) (kcW 1 0) .wpop ∧ 1 < kcOcc (kf [(0xD00000, 0x20#32)] (kcW 1 0))) ∧
    (KcRuns (runKc [(0xD00000, 0x10010#32)] (kcW 1 0) id) (kcW 1 0) .wpop ∧ kcOcc (kf [(0xD00000, 0x10010#32)] (kcW 1 0)) ≤ 1 ∧
      kcSpilled (kf [(0xD00000, 0x10010#32)] (kcW 1 0)) ≠ 0) ∧
    (kcOcc (kf [(0xD00000, 0x10#32)] (kcW 1 0)) ≤ 1 ∧ kcSpilled (kf [(0xD00000, 0x10#32)] (kcW 1 0)) = 0) ∧
    (KcRuns (runKc (inTrapRegs 2 0) (kcW 2 0) id) (kcW 2 0) .tret ∧ kcInTrap (kf (inTrapRegs 2 0) (kcW 2 0)) = true) ∧
    (KcRuns (runKc [] (kcW 2 0) id) (kcW 2 0) .tret ∧ kcInTrap (kf [] (kcW 2 0)) = false) ∧
    (KcRuns (runKc (inTrapRegs 2 0) (kcW 3 0) id) (kcW 3 0) .wspill ∧ kcInTrap (kf (inTrapRegs 2 0) (kcW 3 0)) = true ∧ 1 <
      kcOcc (kf (inTrapRegs 2 0) (kcW 3 0)) ∧ kcSpilled (kf (inTrapRegs 2 0) (kcW 3 0)) ≠ 0xFFFF ∧
      kcPlace (kf (inTrapRegs 2 0) (kcW 3 0)) (spillAt (kf (inTrapRegs 2 0) (kcW 3 0))) 128 = .mem ∧
      (askedBad (kf (inTrapRegs 2 0) (kcW 3 0)) (writeAccs (kf (inTrapRegs 2 0) (kcW 3 0)) (spillAt (kf (inTrapRegs 2 0) (kcW 3 0))) (spillBytes
      (kf (inTrapRegs 2 0) (kcW 3 0))))).isSome = true) ∧
    (KcRuns (oddKc (bmStack 2 0) (kcW 3 0)) (kcW 3 0) .wspill ∧ kcPlace (kcFinds (oddKc (bmStack 2 0) (kcW 3 0))) (spillAt (kcFinds (oddKc
      (bmStack 2 0) (kcW 3 0)))) 128 = .mem ∧ KcStays (kcFinds (oddKc (bmStack 2 0) (kcW 3 0))) 0 (writeAccs (kcFinds (oddKc (bmStack 2 0) (kcW 3
      0))) (spillAt (kcFinds (oddKc (bmStack 2 0) (kcW 3 0)))) (spillBytes (kcFinds (oddKc (bmStack 2 0) (kcW 3 0)))))) ∧
    kcPlace (kf (regStack 2 0) (kcW 3 0)) (spillAt (kf (regStack 2 0) (kcW 3 0))) 128 = .reg 0xF80 ∧
    (KcRuns (runKc (inTrapRegs 6 1) (kcW 4 0) id) (kcW 4 0) .wfill ∧ kcInTrap (kf (inTrapRegs 6 1) (kcW 4 0)) = true ∧
      kcSpilled (kf (inTrapRegs 6 1) (kcW 4 0)) ≠ 0 ∧ kcOcc (kf (inTrapRegs 6 1) (kcW 4 0)) ≠ 7 ∧
      kcPlace (kf (inTrapRegs 6 1) (kcW 4 0)) 0x2000001000 128 = .mem ∧ (kf (inTrapRegs 6 1) (kcW 4 0)).reg64 KCP_WSP = 0x2000001000 ∧
      askedBad (kf (inTrapRegs 6 1) (kcW 4 0)) (readAccs (kf (inTrapRegs 6 1) (kcW 4 0)) 0x2000001000 128) = some none) ∧
    (askedBad badStack (readAccs badStack 0x2000001000 128)).map (fun b => b.isSome) = some true ∧
    KcStays (kcFinds (oddKc (bmStack 6 1) (kcW 4 0))) 0 (readAccs (kcFinds (oddKc (bmStack 6 1) (kcW 4 0))) 0x1000001000 128) ∧
    kcPlace (kf (regStack 6 1) (kcW 4 0)) ((kf (regStack 6 1) (kcW 4 0)).reg64 KCP_WSP) 128 = .reg 0x1000 := by
  (repeat' with_reducible apply And.intro) <;> first
    | decide +kernel
    | (unfold KcRuns; decide +kernel)
    | (unfold KcRuns KcStays; decide +kernel)
    | (unfold KcStays; decide +kernel)

/-- A KC word of class `cls` and op `op` with rd 8 and base s1, which holds `a`. -/
def kcM (cls op : Nat) : W32 := word cls [(22, 8), (17, 1), (14, op)]
def kcAt (cls op a now : Nat) (bad : Bool) : State := runKc [(0xD00000, 0x10#32)] (kcM cls op) (fun h =>
  { h.modKc (fun k => { k with s := k.s.set 1 (BitVec.ofNat 64 a) }) with now := now, bad := if bad then [wordOf (physOf h a)] else [] })
def kcHw (cls op a now : Nat) (bad : Bool) : Hw := kcFinds (kcAt cls op a now bad)
def loadOps : List (Nat × Mn × Nat) := [(0, .ldb, 1), (1, .ldh, 2), (2, .ldw, 4), (3, .ldd, 8), (4, .ldbu, 1), (5, .ldhu, 2), (6, .ldwu, 4)]
def storeOps : List (Nat × Mn × Nat) := [(0, .stb, 1), (1, .sth, 2), (2, .stw, 4), (3, .std, 8)]

/-- A request of a lower unit waits too, so that KC's access of a register is not served in its cycle. -/
def crowded (h : Hw) : Hw := { h with bg := [bgNew h 0 [.rd 0x2000000000 4] (.code 0)] }
/-- KC comes to a word of code at `a` that is uncorrectable. -/
def badCode (a : Nat) : State := st [(4, 4#32)] (fun h =>
  { (h.modKc (fun k => { k with on := true, pc := a })).store a (leBytes (kcW 7 0).toNat 4) with bad := [wordOf (physOf h a)] })
theorem witness_control_core_accesses :
    (∀ r ∈ loadOps, KcRuns (kcAt 2 r.1 0x2000001000 0 false) (kcM 2 r.1) r.2.1 ∧ kcEa (kcHw 2 r.1 0x2000001000 0 false) (kcM 2 r.1) % r.2.2 =
      0 ∧ kcPlace (kcHw 2 r.1 0x2000001000 0 false) 0x2000001000 r.2.2 = .mem ∧
      askedBad (kcHw 2 r.1 0x2000001000 0 false) (readAccs (kcHw 2 r.1 0x2000001000 0 false) 0x2000001000 r.2.2) = some none) ∧
    (∀ r ∈ loadOps, (askedBad (kcHw 2 r.1 0x2000001000 0 true) (readAccs (kcHw 2 r.1 0x2000001000 0 true) 0x2000001000 r.2.2)).map (fun b =>
      b.isSome) = some true) ∧
    (∀ r ∈ loadOps, KcRuns (kcAt 2 r.1 0x1000001000 1 false) (kcM 2 r.1) r.2.1 ∧
      KcStays (kcHw 2 r.1 0x1000001000 1 false) 0 (readAccs (kcHw 2 r.1 0x1000001000 1 false) 0x1000001000 r.2.2)) ∧
    kcEa (kcHw 2 1 0x2000001001 0 false) (kcM 2 1) % 2 ≠ 0 ∧
    kcPlace (kcHw 2 1 0x5000000000 0 false) 0x5000000000 2 = .none ∧
    (kcPlace (kcHw 2 2 0x4000000000 0 false) 0x4000000000 4 = .reg 0 ∧ kcPlace (kcHw 2 3 0x4000000000 0 false) 0x4000000000 8 = .reg 0) ∧
    (askedBad (kcHw 2 2 0x4000000000 0 false) [.rd 0x4000000000 4] = some none ∧ askedBad (kcHw 3 2 0x4000000000 0 false) [.rd 0x4000000000 4] =
      some none) ∧
    (KcStays (crowded (kcHw 2 2 0x4000000000 0 false)) 0 [.rd 0x4000000000 4] ∧
      kcPlace (crowded (kcHw 2 2 0x4000000000 0 false)) 0x4000000000 4 = .reg 0) ∧
    (∀ a ∈ [0x3C00000000, 0x2000000000], kcReady (badCode a).hw = true ∧ (kcComes (badCode a)).kc.pc = a ∧ (kcComes (badCode a)).num a 4 =
      (kcW 7 0).toNat ∧ (kcComes (badCode a)).isBad a = true) ∧
    (regionOf (kcComes (badCode 0x3C00000000)) 0x3C00000000 = .tcm ∧
      fwRuns (kcFault 4 (some 0x3C00000000) (countBad (wordOf (physOf (kcComes (badCode 0x3C00000000)) 0x3C00000000)) (kcComes (badCode
      0x3C00000000)))) = true) ∧
    regionOf (kcComes (badCode 0x2000000000)) 0x2000000000 = .csm ∧
    (∀ r ∈ storeOps, KcRuns (kcAt 3 r.1 0x2000001000 0 false) (kcM 3 r.1) r.2.1 ∧ kcPlace (kcHw 3 r.1 0x2000001000 0 false) 0x2000001000 r.2.2 =
      .mem ∧ askedBad (kcHw 3 r.1 0x2000001000 0 false) (writeAccs (kcHw 3 r.1 0x2000001000 0 false) 0x2000001000 (leBytes 0 r.2.2)) = some none) ∧
    (∀ r ∈ storeOps, KcRuns (kcAt 3 r.1 0x1000001000 1 false) (kcM 3 r.1) r.2.1 ∧
      KcStays (kcHw 3 r.1 0x1000001000 1 false) 0 (writeAccs (kcHw 3 r.1 0x1000001000 1 false) 0x1000001000 (leBytes 0 r.2.2))) ∧
    (∀ p ∈ [(0, Mn.beq), (1, .bne), (2, .blt), (3, .bge), (4, .bltu), (5, .bgeu)], KcRuns (kcAt 4 p.1 0 0 false) (kcM 4 p.1) p.2) ∧
    branchRows.map (fun r => r.2.2 (kcGet (kcHw 4 0 0 0 false) 8) (kcGet (kcHw 4 0 0 0 false) 1)) = [true, false, false, true, false, true] ∧
    branchRows.map (fun r => r.2.2 (kcGet (kcHw 4 0 1 0 false) 8) (kcGet (kcHw 4 0 1 0 false) 1)) = [false, true, true, false, true, false] ∧
    KcRuns (runKc [] (word 5 [(22, 8)]) id) (word 5 [(22, 8)]) .jal ∧
    KcRuns (runKc [] (wR 0 8 1 0 0x40) id) (wR 0 8 1 0 0x40) .jalr := by
  (repeat' with_reducible apply And.intro) <;> first
    | decide +kernel
    | (unfold KcRuns; decide +kernel)
    | (unfold KcRuns KcStays; decide +kernel)
    | (unfold KcStays; decide +kernel)

def takesIrq : List (Nat × W32) := [(KCP_TSTAT, 2#32), (0xD00050, 8#32), (0xD00040, 8#32)]

theorem witness_control_core_traps :
    (KcRuns (runKc [] (kcW 8 4095) id) (kcW 8 4095) .ktrap ∧ kcInTrap (kf [] (kcW 8 4095)) = false ∧ kcFatal (kf [] (kcW 8 4095)) = false) ∧
    (KcRuns (runKc [(0xD00050, 1#32)] (kcW 7 0) id) (kcW 7 0) .wfi ∧ (kf [(0xD00050, 1#32)] (kcW 7 0)).reg 0xD00050 ≠ 0#32 ∧
      irqSource (kf [(0xD00050, 1#32)] (kcW 7 0)) = none) ∧
    (irqSource (kf [(0xD00050, 8#32), (0xD00040, 8#32)] (kcW 7 0)) = some 3 ∧ pwrState (kf [(0xD00050, 8#32), (0xD00040, 8#32)] (kcW 7 0)) ≠ 2) ∧
    (KcRuns (runKc [] (kcW 7 0) id) (kcW 7 0) .wfi ∧ ∀ i, i < 4 → (kf [] (kcW 7 0)).reg (0xD00050 + 4 * i) = 0#32) ∧
    (kcIe (runKc takesIrq (kcW 7 0) id).hw = true ∧ kcInTrap (runKc takesIrq (kcW 7 0) id).hw = false ∧
      kcBusy (runKc takesIrq (kcW 7 0) id).hw = false ∧ kcFatal (runKc takesIrq (kcW 7 0) id).hw = false ∧
      irqSource (runKc takesIrq (kcW 7 0) id).hw = some 3 ∧ (runKc takesIrq (kcW 7 0) id).hw.kc.wfi = false) ∧
    (kcIe (runKc [] (kcW 7 0) id).hw = false ∧ (runKc [] (kcW 7 0) id).hw.kc.wfi = false) ∧
    (nbit ((st [(0xD00030, 1#32)] id).hw.reg 0xD00030).toNat 0 = true ∧ (st [(0xD00030, 1#32)] id).hw.reg64 0xD00028 =
      (st [(0xD00030, 1#32)] id).hw.frame) ∧
    (st [(0xD00028, 1#32)] id).hw.reg64 0xD00028 ≠ (st [(0xD00028, 1#32)] id).hw.frame ∧
    (Reaches .kc (st [] id) ∧ fieldOf 0xC864#32 0 16 = 0xC864 ∧ fieldOf 0xC865#32 0 16 ≠ 0xC864) ∧
    ((runKc [] 0#32 id).hw.kc.on = true ∧ (runKc [] 0#32 id).hw.kc.halted = false ∧ pwrState (runKc [] 0#32 id).hw ≠ 2 ∧
      kcFatal (runKc [] 0#32 id).hw = false ∧ (runKc [] 0#32 id).hw.kc.missed = false) ∧
    (runKc [] 0#32 (fun h => h.modKc (fun k => { k with missed := true }))).hw.kc.missed = true ∧
    kcFatal (runKc [(KCP_TSTAT, 8#32)] 0#32 id).hw = true ∧
    (offAccepted (runKc [] 0#32 id).hw = false ∧ offAccepted (runKc [(KCP_TSTAT, 8#32)] 0#32 id).hw = false ∧
      offAccepted (runKc [(0x200034, 8#32)] 0#32 id).hw = true) ∧
    (kcInTrap (runKc [(KCP_TSTAT, 1#32)] 0#32 id).hw = true ∧ kcFatal (runKc [(KCP_TSTAT, 1#32)] 0#32 id).hw = false) ∧
    (st [] id).hw.kc.on = false := by
  (repeat' with_reducible apply And.intro) <;> first
    | decide +kernel
    | (unfold KcRuns; decide +kernel)
    | (unfold Reaches; decide +kernel)

def copyKc (w : W32) (n : Nat) : State := runKc [(0xD00000, 0x10#32)] w (fun h => h.modKc (fun k => { k with
  outs := ((k.outs.set 0 (BitVec.ofNat 64 0x2000002000)).set 1 (BitVec.ofNat 64 0x2000001000)).set 2 (BitVec.ofNat 64 n) }))
def outKc (w : W32) (dst src n : Nat) (micro : Bool) : State := runKc [(0xD00000, 0x10#32)] w (fun h => h.modKc (fun k => { k with
  micro := micro
  outs := ((k.outs.set 0 (BitVec.ofNat 64 dst)).set 1 (BitVec.ofNat 64 src)).set 2 (BitVec.ofNat 64 n) }))
def movesIn (regs : List (Nat × W32)) (now : Nat) (bad : Bool) : Hw := (st regs (fun h => { h with now := now, bad := if bad then [wordOf (physOf h 0x2000001000)] else [] })).hw
def copyTodo (h : Hw) (src dst : Nat) : List BgAcc := readAccs h src 64 ++ copyAccs h dst 64
/-- The same where the accesses of the element that KC copies have been served. -/
def copyDone (bad : Option Nat) : Hw := let h := movesIn [] 0 false; { h with bg := [{ bgNew h 0x18 [] (.kc 0) with bad := bad }] }

theorem witness_micro_routines :
    (KcRuns (copyKc (kcW 5 0) 64) (kcW 5 0) .bcopy ∧ (kcFinds (copyKc (kcW 5 0) 64)).kc.micro = false ∧
      nbit ((kcFinds (copyKc (kcW 5 0) 64)).reg KCP_PROG).toNat 31 = false ∧ kcO (kcFinds (copyKc (kcW 5 0) 64)) 0 % 64 = 0 ∧
      kcO (kcFinds (copyKc (kcW 5 0) 64)) 1 = 0x2000001000 ∧ kcO (kcFinds (copyKc (kcW 5 0) 64)) 2 = 64) ∧
    kcO (kcFinds (copyKc (kcW 5 0) (2 ^ 30))) 2 = 2 ^ 30 ∧
    (KcRuns (outKc (kcW 5 0) 1 0 64 true) (kcW 5 0) .bcopy ∧ (kcFinds (outKc (kcW 5 0) 1 0 64 true)).kc.micro = true) ∧
    (KcRuns (outKc (kcW 5 0) 1 0 64 false) (kcW 5 0) .bcopy ∧ (kcFinds (outKc (kcW 5 0) 1 0 64 false)).kc.micro = false ∧
      kcO (kcFinds (outKc (kcW 5 0) 1 0 64 false)) 0 % 64 ≠ 0) ∧
    (KcRuns (copyKc (kcW 6 0) 4096) (kcW 6 0) .csave ∧ kcO (kcFinds (copyKc (kcW 6 0) 4096)) 2 = 4096 ∧
      kcO (kcFinds (copyKc (kcW 6 0) 4096)) 0 % 4 = 0 ∧ kcO (kcFinds (copyKc (kcW 6 0) 4096)) 1 % 4 = 0) ∧
    (KcRuns (outKc (kcW 6 0) 0 0 1 true) (kcW 6 0) .csave ∧ (kcFinds (outKc (kcW 6 0) 0 0 1 true)).kc.micro = true) ∧
    (KcRuns (copyKc (kcW 6 0) 4097) (kcW 6 0) .csave ∧ 4096 < kcO (kcFinds (copyKc (kcW 6 0) 4097)) 2) ∧
    (KcRuns (outKc (kcW 6 0) 0 1 1 false) (kcW 6 0) .csave ∧ kcO (kcFinds (outKc (kcW 6 0) 0 1 1 false)) 1 % 4 ≠ 0 ∧
      kcO (kcFinds (outKc (kcW 6 0) 0 1 1 false)) 2 = 1) ∧
    (KcRuns (outKc (kcW 6 0) 1 0 1 false) (kcW 6 0) .csave ∧ kcO (kcFinds (outKc (kcW 6 0) 1 0 1 false)) 1 % 4 = 0 ∧
      kcO (kcFinds (outKc (kcW 6 0) 1 0 1 false)) 0 % 4 ≠ 0) ∧
    (match bcopyElement 0x2000001000 0x2000002000 (copyDone none) with | .done _ => true | .fail _ _ => false | .wait _ => false) = true ∧
    (match bcopyElement 0x5000000000 0x2000002000 (movesIn [] 0 false) with | .done _ => 0 | .fail a _ => a | .wait _ => 0) = 0x5000000000 ∧
    (match bcopyElement 0x1000001000 0x2000002000 (movesIn [] 1 false) with | .done _ => false | .fail _ _ => false | .wait _ => true) = true ∧
    (bgWaits (copyDone none) (.kc 1) = false ∧ kcPlace (copyDone none) 0x2000001000 64 = .mem ∧ kcPlace (copyDone none) 0x2000002000 64 = .mem ∧
      askedBad (copyDone none) (copyTodo (copyDone none) 0x2000001000 0x2000002000) = some none) ∧
    (askedBad (copyDone (some 0x2000001000)) (copyTodo (copyDone (some 0x2000001000)) 0x2000001000 0x2000002000)).map (fun b => b.isSome) =
      some true ∧
    (KcStays (movesIn [] 1 false) 0 (copyTodo (movesIn [] 1 false) 0x1000001000 0x2000002000) ∧ kcPlace (movesIn [] 1 false) 0x1000001000 64 =
      .mem) ∧
    (kcPlace (movesIn [] 0 false) 0x2000001000 64 = .mem ∧ kcPlace (movesIn [] 0 false) 0x4000000000 64 = .reg 0 ∧
      askedBad (movesIn [] 0 false) (readAccs (movesIn [] 0 false) 0x2000001000 64) = some none) ∧
    kcPlace (movesIn [] 0 false) 0x5000000000 64 = .none ∧
    askedBad (movesIn [] 0 false) (readAccs (movesIn [] 0 false) 0x2000001000 4) = some none ∧
    (askedBad (movesIn [] 0 true) (readAccs (movesIn [] 0 true) 0x2000001000 4)).map (fun b => b.isSome) = some true ∧
    KcStays (movesIn [] 1 false) 0 (readAccs (movesIn [] 1 false) 0x1000001000 4) ∧
    bgDone (kcAsked 1 (writeAccs (movesIn [] 0 false) 0x2000001000 [1, 2, 3, 4]) (movesIn [] 0 false)) (.kc 1) ≠ none ∧
    KcStays (movesIn [] 1 false) 1 (writeAccs (movesIn [] 1 false) 0x1000001000 [1, 2, 3, 4]) ∧
    kcPlace (movesIn [] 0 false) (0x4000000000 + 4 * (leNat [0, 0, 0, 0] % 2 ^ 23)) 4 = .reg 0 ∧
    kcPlace (movesIn [] 0 false) (0x4000000000 + 4 * (leNat [0xFF, 0xFF, 0x7F, 0] % 2 ^ 23)) 4 = .none ∧
    (kcIrqDue (setProg true 1 1 (movesIn [] 0 false)) = false ∧ kcIrqDue (setProg true 1 1 (movesIn takesIrq 0 false)) = true) ∧
    (bgDone (microAsked 1 [1, 2, 3, 4] [.rd 0x4000000000 4] (movesIn [] 0 false)) (.kc 1) ≠ none ∧
      MicroStays (crowded (movesIn [] 0 false)) 1 [1, 2, 3, 4] [.rd 0x4000000000 4] ∧ kcPlace (movesIn [] 0 false) 0x4000000000 4 = .reg 0) ∧
    (bgWaits (microAsked 1 [1, 2, 3, 4] [.rd 0x4000000000 4] (crowded (movesIn [] 0 false))) (.kc 1) = true ∧
      KcStays (microAsked 1 [1, 2, 3, 4] [.rd 0x4000000000 4] (crowded (movesIn [] 0 false))) 1 []) ∧
    bgDone (kcAsked 1 [] (microAsked 1 [1, 2, 3, 4] [.rd 0x4000000000 4] (movesIn [] 0 false))) (.kc 1) ≠ none ∧
    ((askedBad (movesIn [] 0 true) (readAccs (movesIn [] 0 true) 0x2000001000 64)).map (fun b => b.isSome) = some true ∧
      KcStays (movesIn [] 1 false) 0 (readAccs (movesIn [] 1 false) 0x1000001000 64)) ∧
    (askedBad (movesIn [] 0 false) [.rd 0x4000000000 64] = some none ∧ KcStays (crowded (movesIn [] 0 false)) 0 [.rd 0x4000000000 64] ∧
      bgWaits (crowded (movesIn [] 0 false)) (.kc 1) = false) ∧
    (bgWaits (microAsked 2 [0, 0, 0, 0] [.rd 0x4000000000 4] (crowded (movesIn [] 0 false))) (.kc 2) = true ∧
      bgWaits (microAsked 2 [0, 0, 0, 0] [.rd 0x4000000000 4] (crowded (movesIn [] 0 false))) (.kc 1) = false ∧
      KcStays (microAsked 2 [0, 0, 0, 0] [.rd 0x4000000000 4] (crowded (movesIn [] 0 false))) 2 []) ∧
    (bgDone (kcAsked 2 [] (microAsked 2 [0, 0, 0, 0] [.rd 0x4000000000 4] (movesIn [] 0 false))) (.kc 2) ≠ none ∧
      MicroStays (crowded (movesIn [] 0 false)) 2 [0, 0, 0, 0] [.rd 0x4000000000 4]) ∧
    askedBad (movesIn [] 0 false) [.rd 0x4000000000 4] = some none := by
  (repeat' with_reducible apply And.intro) <;> first
    | decide +kernel
    | (unfold KcRuns; decide +kernel)
    | (unfold KcStays; decide +kernel)
    | (unfold MicroStays; decide +kernel)

/-! ### Witnesses: mailboxes, images, start-up, faults, resets, power, debug -/

/-- A message waits in mailbox `m`: its type, its words after word 0. -/
def mailed (m typ : Nat) (ws : List W32) (regs : List (Nat × W32)) : State :=
  runFw ((mbox m + 0x204, 2#32) :: (mbox m + 0x100, BitVec.ofNat 32 (typ + (ws.length + 1) * 0x10000)) ::
    (ws.mapIdx (fun i w => (mbox m + 0x104 + 4 * i, w))) ++ regs) id
/-- An image header that passes stands in slot `k`. -/
def imaged (k : Nat) (regs : List (Nat × W32)) (f : Hw → Hw) : State :=
  runFw regs (fun h => f (h.store (slotBase k) ([0x43465731, 1, 0x100, 0x100, 1, 0, 0, 12].flatMap (fun w => leBytes w 4))))
/-- EPOCH 7 for frame 534; firmware with what the power loop uses, in frame `fr`. -/
def epochMail : State := mailed 2 0x10 [7, 534, 0, 0x1000, 0x20] []
def looping (fr : Nat) (f : Fw → Fw) : Hw := (runFw [] (fun h => { h with frame := fr, fw := f h.fw })).hw
def updated (step : Nat) (regs : List (Nat × W32)) : State := imaged 1 ((0xD000D4, BitVec.ofNat 32 step) :: regs) id
/-- The hardware as a write of UPD_CTL finds it. -/
def updHw (s : State) : Hw := irq 0x09 s.begun
def updIn (s : State) : Hw := settle (updHw s).now (updHw s)
def setHw (s : State) : Hw := settle s.hw.now s.begun

theorem witness_mail_and_epochs :
    (Reaches (.host 0) (runFw [(0xD00204, 1#32)] id) ∧ outBusy (runFw [(mbox 0 + 0x204, 1#32)] id).hw 0 = true) ∧
    outBusy (runFw [] id).hw 0 = false ∧
    nbit ((mailed 1 1 [100] []).hw.reg (mbox 1 + 0x204)).toNat 1 = true ∧
    nbit ((runFw [] id).hw.reg (mbox 1 + 0x204)).toNat 1 = false ∧
    ((runFw [] id).hw.fw.mailq = [] ∧ (runFw [] id).hw.sync.schq = []) ∧
    ((runFw [] (fun h => { h with fw := { h.fw with mailq := [(0, 0x80, [5])] } })).hw.fw.mailq.find? (fun x => decide (x.1 = 0)) =
      some (0, 0x80, [5]) ∧ outBusy (runFw [] id).hw 0 = false) ∧
    (runFw [] id).hw.fw.mailq.find? (fun x => decide (x.1 = 1)) = none ∧
    (runFw [] (fun h => h.modSync (fun y => { y with schq := [(1, 2)] }))).hw.sync.schq = [(1, 2)] ∧
    ((runFw [] (fun h => { h with fw := { h.fw with mailq := [(1, 0x80, [5])] } })).hw.fw.mailq = [(1, 0x80, [5])] ∧
      (runFw [] (fun h => { h with fw := { h.fw with mailq := [(1, 0x80, [5])] } })).hw.sync.schq = []) ∧
    (fwRuns (mailed 1 1 [80] []).hw = true ∧ MailWaits (mailed 1 1 [80] []).hw 1 1 ∧ nbits (inWord (mailed 1 1 [80] []).hw 1 1) 0 9 = 80) ∧
    (fwRuns (mailed 1 1 [] []).hw = true ∧ nbit ((mailed 1 1 [] []).hw.reg (mbox 1 + 0x204)).toNat 1 = true ∧
      inLength 1 (nbits (inWord (mailed 1 1 [] []).hw 1 0) 0 8) ≠ some (nbits (inWord (mailed 1 1 [] []).hw 1 0) 16 7)) ∧
    nbits (inWord (mailed 1 1 [320] []).hw 1 1) 0 9 = 320 ∧
    (MailWaits (mailed 1 1 [79] []).hw 1 1 ∧ nbits (inWord (mailed 1 1 [79] []).hw 1 1) 0 9 = 79) ∧
    nbits (inWord (mailed 1 1 [321] []).hw 1 1) 0 9 = 321 ∧
    (fwRuns (mailed 1 2 [0x8000] []).hw = true ∧ MailWaits (mailed 1 2 [0x8000] []).hw 1 2) ∧
    (fwRuns (mailed 1 3 [1] []).hw = true ∧ MailWaits (mailed 1 3 [1] []).hw 1 3) ∧
    MailWaits (mailed 2 0x11 [63] []).hw 2 0x11 ∧
    (fwRuns epochMail.hw = true ∧ MailWaits epochMail.hw 2 0x10 ∧ nbit (epochMail.hw.reg 0xD0018C).toNat 0 = false ∧ epochMail.hw.frame + 534 ≤
      inWord epochMail.hw 2 2 + 2 ^ 32 * inWord epochMail.hw 2 3) ∧
    inWord (mailed 2 0x10 [7, 533, 0, 0x1000, 0x20] []).hw 2 2 + 2 ^ 32 * inWord (mailed 2 0x10 [7, 533, 0, 0x1000, 0x20] []).hw 2 3 <
      (mailed 2 0x10 [7, 533, 0, 0x1000, 0x20] []).hw.frame + 534 ∧
    nbit ((runFw [(0xD0018C, 1#32)] id).hw.reg 0xD0018C).toNat 0 = true ∧
    (runFw [] (fun h => { h with rcd := { h.rcd with phaseSeen := true } })).hw.rcd.phaseSeen = true ∧
    (runFw [] id).hw.rcd.phaseSeen = false ∧
    fwRuns (st [] id).hw = false := by
  (repeat' with_reducible apply And.intro) <;> first
    | decide +kernel
    | (unfold Reaches; decide +kernel)
    | (unfold MailWaits; decide +kernel)

theorem witness_the_power_loop :
    ((looping 266667 id).frame ≤ (looping 266667 id).fw.budgetAt + msFrames ∧ (looping 266667 id).fw.budget = none) ∧
    ((looping 266668 id).fw.budgetAt + msFrames < (looping 266668 id).frame ∧ (looping 266668 id).fw.budget = none) ∧
    (looping 0 (fun x => { x with budget := some 80 })).fw.budget = some 80 ∧
    ((looping 0 (fun x => { x with temp := some 1359 })).fw.temp = some 1359 ∧ (1359 : Int) < 85 * 16 ∧ (looping 0 id).frame ≤
      (looping 0 id).fw.tempAt + msFrames) ∧
    ((looping 0 (fun x => { x with temp := some 1360 })).fw.temp = some 1360 ∧ (85 : Int) * 16 ≤ 1360) ∧
    ((looping 266668 id).fw.tempAt + msFrames < (looping 266668 id).frame ∧ (looping 266668 id).fw.temp = none) := by
  (repeat' with_reducible apply And.intro) <;> decide +kernel

theorem witness_images :
    (Reaches (.host 0) (imaged 0 [(4, 3#32)] id) ∧ cluState (setHw (imaged 0 [(4, 3#32)] id)) = 3 ∧
      (setHw (imaged 0 [(4, 3#32)] id)).fld 0xD000C4 0 3 = 0 ∧ headerOk (setHw (imaged 0 [(4, 3#32)] id)) 0 = true) ∧
    (cluState (setHw (runFw [(4, 3#32)] id)) = 3 ∧ headerOk (setHw (runFw [(4, 3#32)] id)) 0 = false) ∧
    cluState (setHw (runFw [] id)) = 4 ∧
    (setHw (runFw [(0xD000C4, 1#32)] id)).fld 0xD000C4 0 3 = 1 ∧
    ((setHw (updated 2 [])).fld 0xD000D4 0 3 = 2 ∧ (setHw (updated 2 [])).fld 0xD000C4 0 3 = 0) ∧
    (MailWaits (mailed 0 0x20 [1] [(0xD000C4, 2#32)]).hw 0 0x20 ∧ (mailed 0 0x20 [1] [(0xD000C4, 2#32)]).hw.fld 0xD000C4 0 3 = 2 ∧
      nbit (inWord (mailed 0 0x20 [1] [(0xD000C4, 2#32)]).hw 0 1) 0 = true) ∧
    (nbit (inWord (mailed 0 0x20 [0] [(0xD000C4, 2#32)]).hw 0 1) 0 = false ∧ MailWaits (mailed 0 0x20 [0] [(0xD000C4, 2#32)]).hw 0 0x20) ∧
    (MailWaits (mailed 0 0x20 [1] [(0xD000D4, 3#32)]).hw 0 0x20 ∧ (mailed 0 0x20 [1] [(0xD000D4, 3#32)]).hw.fld 0xD000D4 0 3 = 3 ∧
      (mailed 0 0x20 [1] [(0xD000D4, 3#32)]).hw.fld 0xD000C4 0 3 ≠ 2) ∧
    (nbit (inWord (mailed 0 0x20 [1] [(0xD000D4, 3#32)]).hw 0 1) 0 = true ∧ nbit (inWord (mailed 0 0x20 [0] [(0xD000D4, 3#32)]).hw 0 1) 0 =
      false) ∧
    ((updated 3 []).hw.fld 0xD000D4 0 3 = 3 ∧ (updated 3 []).hw.fld 0xD000C4 0 3 ≠ 2) ∧
    (Writer.host 0 ≠ .kc ∧ Reaches (.host 0) (updated 0 []) ∧ cluState (updHw (updated 0 [])) = 4 ∧ updStep (updHw (updated 0 [])) = 0 ∧
      fwRuns (updHw (updated 0 [])) = true) ∧
    (cluState (updHw (st [(4, 4#32)] id)) = 4 ∧ updStep (updHw (st [(4, 4#32)] id)) = 0 ∧ fwRuns (updHw (st [(4, 4#32)] id)) = false) ∧
    updStep (updHw (updated 1 [])) ≠ 0 ∧
    (updStep (updIn (updated 1 [])) = 1 ∧ headerOk ((updIn (updated 1 [])).clrReg 0xD000D4 8) 1 = true) ∧
    (updStep (updIn (runFw [(0xD000D4, 1#32)] id)) = 1 ∧ headerOk ((updIn (runFw [(0xD000D4, 1#32)] id)).clrReg 0xD000D4 8) 1 = false) ∧
    (updStep (updHw (updated 3 [])) < 4 ∧ 4 ≤ updStep (updHw (updated 4 []))) ∧
    (updStep (setHw (updated 4 [])) = 4 ∧ nbit ((setHw (updated 4 [])).reg 0x300018).toNat 0 = false ∧
      nbit ((setHw (updated 4 [])).reg KCP_PROG).toNat 31 = false ∧ kcInTrap (setHw (updated 4 [])) = false) ∧
    (updStep (updated 5 []).hw = 5 ∧ updStep (setHw (updated 5 [])) = 5) ∧
    updStep (setHw (updated 0 [])) ≠ 5 := by
  (repeat' with_reducible apply And.intro) <;> first
    | decide +kernel
    | (unfold Reaches; decide +kernel)
    | (unfold MailWaits; decide +kernel)

/-- Out of power-on reset, STRAP and CLU_STATE as given, changed by `f`. -/
def bootSt (strap state cat : Nat) (f : Hw → Hw) : State :=
  st [(8, BitVec.ofNat 32 strap), (4, BitVec.ofNat 32 state), (0xE00000, BitVec.ofNat 32 cat)] (fun h => f { h with boot := { h.boot with porst := true } })
def catReqd (gnt : Bool) (h : Hw) : Hw := { h with boot := { h.boot with catReq := true, catGnt := gnt } }
def checked (h : Hw) : Hw := { h with boot := { h.boot with checkbits := true } }
def locked (h : Hw) : Hw := { h with clk := { h.clk with lock := true } }
def lockedReq (gnt : Bool) (h : Hw) : Hw := locked (catReqd gnt h)
/-- An SFDP image with one table at 0x10, the basic one, of a 1-bit part. -/
def anSfdp : List Byte := leBytes 0x50444653 4 ++ [6, 1, 0, 0xFF, 0, 0, 1, 1, 0x10, 0, 0, 0xFF] ++ leBytes 0 4
def aDir : List Byte := leBytes 0x43444952 4 ++ leBytes 1 4 ++ List.replicate 8 0 ++ leBytes 0x1000 4
/-- A record of 256 bytes for a cluster of eight cores and one layer: no repairs, groups in place, SAFE 80. -/
def aRecord : List Byte :=
  let b := bytesAt (leBytes 0x43415431 4 ++ leBytes 1 2 ++ leBytes 256 2 ++ leBytes 0 8 ++ leBytes 0x1C864 4 ++ leBytes 0xFF 4 ++ leBytes 80 4 ++
    leBytes 0x4240 4 ++ List.replicate 32 0 ++ (List.range 64).map (BitVec.ofNat 8)) 0 252
  b ++ leBytes (crc32 b) 4

theorem witness_start_up :
    (st [] id).hw.boot.porst = false ∧
    ((bootSt 0 0 0 id).hw.boot.porst = true ∧ (unlocked (bootSt 0 0 0 id)).hw.clk.lock = false) ∧
    strapBoot (bootSt 0x300 1 0 id).hw = 3 ∧
    (strapBoot (bootSt 0 1 0 id).hw ≠ 3 ∧ strapLayers (bootSt 0 1 0 id).hw = 0 ∧ strapLayers (bootSt 0xC00 1 0 id).hw = 3) ∧
    (strapLayers (bootSt 0x400 1 0 id).hw = 1 ∧ strapLayers (bootSt 0x800 1 0 id).hw = 2) ∧
    (strapBoot (bootSt 0x600 1 0 id).hw = 2 ∧ strapLayers (bootSt 0x600 1 0 id).hw = 1) ∧
    (strapBoot (bootSt 0x500 1 0 id).hw = 1 ∧ strapBoot (bootSt 0x400 1 0 id).hw = 0) ∧
    (strapCatsel (bootSt 0x1400 1 0 id).hw = true ∧ strapCatsel (bootSt 0x400 1 0 id).hw = false) ∧
    ((bootSt 0x1400 1 1 (lockedReq true)).hw.clk.lock = true ∧ (bootSt 0x1400 1 1 (lockedReq true)).hw.boot.checkbits = false ∧
      (bootSt 0x1400 1 1 (lockedReq true)).hw.boot.catReq = true ∧ (bootSt 0x1400 1 1 (lockedReq true)).hw.boot.catGnt = true ∧
      (bootSt 0x1400 1 1 (lockedReq true)).hw.fld 0xE00000 0 4 = 1) ∧
    ((bootSt 0x1400 1 1 (lockedReq false)).hw.boot.catGnt = false ∧ (bootSt 0x1400 1 1 (lockedReq false)).hw.boot.catReq = true) ∧
    ((bootSt 0x400 1 0 locked).hw.clk.lock = true ∧ (bootSt 0x400 1 0 locked).hw.boot.checkbits = false ∧
      (bootSt 0x400 1 0 locked).hw.boot.catReq = false ∧ cluState (bootSt 0x400 1 0 locked).hw = 1 ∧ strapBoot (bootSt 0x400 1 0 locked).hw = 0 ∧
      strapCatsel (bootSt 0x400 1 0 locked).hw = false ∧ (bootSt 0x400 1 0 locked).hw.fld 0xE00000 0 4 = 0 ∧
      (bootSt 0x400 1 0 locked).hw.fld 0xE00000 8 8 = 0) ∧
    cluState (bootSt 0x400 2 0 locked).hw ≠ 1 ∧
    ((bootSt 0x1400 1 1 (fun h => checked (catReqd false h))).hw.boot.checkbits = true ∧
      (bootSt 0x1400 1 1 (fun h => checked (catReqd false h))).hw.boot.catReq = true ∧
      (bootSt 0x1400 1 1 (fun h => checked (catReqd false h))).hw.fld 0xE00000 0 4 = 1) ∧
    (bootSt 0x1400 1 1 id).hw.boot.checkbits = false ∧
    ((bootSt 0x1400 1 1 (catReqd false)).hw.boot.catReq = true ∧ (bootSt 0x1400 1 1 (catReqd false)).hw.fld 0xE00000 0 4 = 1 ∧
      (bootSt 0x1400 1 1 (catReqd false)).hw.boot.catGnt = false) ∧
    (bootSt 0x400 1 2 id).hw.boot.catReq = false ∧
    (cluState (bootSt 0x400 1 2 id).hw = 1 ∧ strapBoot (bootSt 0x400 1 2 id).hw = 0 ∧ (bootSt 0x400 1 2 id).hw.fld 0xE00000 0 4 = 2) ∧
    (sfdpMode (strapSafe (bootSt 0x400 1 2 id).hw) ([].take 256) = none ∧ (bootSt 0x400 1 2 id).hw.fld 0xE00000 8 8 = 0) ∧
    (sfdpMode (strapSafe (bootSt 0x400 1 2 id).hw) (anSfdp.take 256) = some (0, false) ∧ dirOffset (bootSt 0x400 1 2 id).hw [] false = none) ∧
    dirOffset (bootSt 0x400 1 2 id).hw aDir false = some 0x1000 ∧
    (bootSt 0x400 1 8 id).hw.fld 0xE00000 0 4 ≠ 2 ∧
    ((bootSt 0x400 1 0x102 id).hw.fld 0xE00000 8 8 ≠ 0 ∧ strapSafe (bootSt 0x2400 1 2 id).hw = true ∧ sfdpMode true (anSfdp.take 256) =
      some (0, false)) ∧
    recordCause (bootSt 0x400 1 2 id).hw [] ≠ 0 ∧
    recordCause (bootSt 0x400 1 2 id).hw aRecord = 0 ∧
    (Reaches (.host 0) (bootSt 0x600 1 7 id) ∧ strapBoot (setHw (bootSt 0x600 1 7 id)) = 2 ∧ cluState (setHw (bootSt 0x600 1 7 id)) = 1 ∧
      (setHw (bootSt 0x600 1 7 id)).fld 0xE00000 0 4 = 7) ∧
    (strapBoot (setHw (bootSt 0x600 1 8 id)) = 2 ∧ (setHw (bootSt 0x600 1 8 id)).fld 0xE00000 0 4 ≠ 7) ∧
    strapBoot (setHw (bootSt 0x400 1 2 id)) ≠ 2 ∧
    cluState (bootSt 0x400 2 8 id).hw = 2 ∧
    cluState (bootSt 0x400 1 2 id).hw ≠ 2 ∧
    ((bootSt 0x300 1 8 locked).hw.clk.lock = true ∧ strapBoot (bootSt 0x300 1 8 locked).hw = 3 ∧ cluState (bootSt 0x300 1 8 locked).hw = 1) ∧
    (unlocked (bootSt 0x300 1 8 id)).hw.clk.lock = false := by
  (repeat' with_reducible apply And.intro) <;> first
    | decide +kernel
    | (unfold Reaches; decide +kernel)

def aQueued : QueuedRec := ⟨0, 0, 0, 0, { cls := cILLEGAL_INSTR, sev := 1, unit := 0 }⟩
def recorded (ring fail : Bool) (bg : List BgReq) : State := st [] (fun h => { h with
  rcd := { h.rcd with queue := [aQueued], ringOn := ring }
  boot := { h.boot with pwrfail := fail }
  bg := bg })
/-- The recorder's request for its head record, with what is still to be written, and one for another record. -/
def ringReq (todo : List BgAcc) : BgReq := { bgNew hwCold 0 todo .ring with got := recBytes ((recorded true false []).hw.reg FLT_WIDX).toNat aQueued }

theorem witness_records_and_states :
    ((raisedRec (st [(0xB00080, 1#32)] id).hw).cls ≠ 0 ∧ canAccept (st [(0xB00080, 1#32)] id).hw (raisedRec (st [(0xB00080, 1#32)] id).hw) =
      true) ∧
    (raisedRec (st [] id).hw).cls = 0 ∧
    (Writer.host 0 ≠ .kc ∧ Reaches (.host 0) (st [] id)) ∧
    ((recorded true true []).hw.rcd.queue = [aQueued] ∧ (recorded true true []).hw.rcd.ringOn = true ∧ (recorded true true []).hw.boot.pwrfail =
      true) ∧
    ((recorded true false []).hw.boot.pwrfail = false ∧ (recorded true false []).hw.bg.find? (fun b => decide (b.what = .ring)) = none) ∧
    ((recorded true false [ringReq []]).hw.bg.find? (fun b => decide (b.what = .ring)) = some (ringReq []) ∧ (ringReq []).todo = []) ∧
    ((recorded true false [ringReq [.rd 0 1]]).hw.bg.find? (fun b => decide (b.what = .ring)) = some (ringReq [.rd 0 1]) ∧
      (ringReq [.rd 0 1]).todo ≠ []) ∧
    ((recorded true false [{ ringReq [] with got := [] }]).hw.bg.find? (fun b => decide (b.what = .ring)) = some { ringReq [] with got := [] } ∧
      [] ≠ (ringReq []).got) ∧
    (st [] id).hw.rcd.queue = [] ∧
    (cluState (st [(4, 8#32), (0xB00310, 0#32)] id).hw = 8 ∧ (st [(4, 8#32), (0xB00310, 0#32)] id).hw.reg64 0xB00308 + ((st [(4, 8#32),
      (0xB00310, 0#32)] id).hw.reg 0xB00310).toNat ≤ (st [(4, 8#32), (0xB00310, 0#32)] id).hw.frame) ∧
    (st [(4, 8#32), (0xB00310, 1#32)] id).hw.frame < (st [(4, 8#32), (0xB00310, 1#32)] id).hw.reg64 0xB00308 + ((st [(4, 8#32), (0xB00310,
      1#32)] id).hw.reg 0xB00310).toNat ∧
    (cluState (st [(4, 2#32)] id).hw = 2 ∧ (st [(4, 2#32)] id).hw.boot.pwrfail = false) ∧
    cluState (st [(4, 4#32)] id).hw ≠ 2 ∧
    (stateMay (cluState (runFw [(4, 3#32)] id).hw) (fieldOf 4#32 0 4) = true ∧ fieldOf 4#32 0 4 = 4 ∧ cluState (runFw [(4, 3#32)] id).hw = 3 ∧
      (runFw [(4, 3#32)] id).hw.kc.on = true ∧ (runFw [(4, 3#32)] id).hw.kc.halted = false) ∧
    (st [(4, 3#32)] id).hw.kc.on = false ∧
    (stateMay 3 (fieldOf 8#32 0 4) = true ∧ fieldOf 8#32 0 4 = 8) ∧
    (stateMay 8 (fieldOf 9#32 0 4) = true ∧ fieldOf 9#32 0 4 = 9) ∧
    (stateMay 4 (fieldOf 5#32 0 4) = true ∧ fieldOf 5#32 0 4 < 8) ∧
    stateMay 4 (fieldOf 1#32 0 4) = false ∧
    hwCold.fw.firstReady = false := by
  (repeat' with_reducible apply And.intro) <;> first
    | decide +kernel
    | (unfold Reaches; decide +kernel)

def aFlow (regs : List (Nat × W32)) (f : Boot → Boot) : State := runFw regs (fun h => { h with boot := f h.boot })
def draining (f : Hw → Hw) : State := st [] (fun h => f { h with boot := { h.boot with drain := some 0 } })
/-- The hardware of a drain's end, of every core or of core `n`; a power request as it is judged. -/
def drainHw (own : Nat → Bool) (s : State) : Hw := sendsDue (settle (drainEnd own s.begun) (s.begun.at (drainEnd own s.begun)))
def asked (k : Nat) (s : State) : Hw := settle s.hw.now (s.begun.setFld 0x200030 0 2 k)
/-- A SEND of core 0 whose beats wait in its output queue. -/
def sendsIn (h : Hw) : Hw := h.setCore 0 { coreFresh with sends := [⟨1, 0, 5, 5, false, 0, 2 ^ 41, false, false, 0, 0, 0, [(5, 0x1000, [1])], 0⟩] }

/-- A reset of core 0 was asked for in cycle 0, and it is cycle `now`. -/
def resetting (now : Nat) (f : Hw → Hw) : State := runFw [(0x10000C, 0x10000#32)] (fun h => (f { h with boot := { h.boot with coreReq := [(0, 0)] } }).at now)
theorem witness_resets_and_power :
    Reaches .kc (runFw [] id) ∧
    (fieldOf 0x5A00#32 8 8 = 0x5A ∧ fieldOf 0#32 8 8 ≠ 0x5A) ∧
    cluState (runFw [(4, 1#32)] id).hw = 1 ∧
    (cluState (runFw [] id).hw ≠ 1 ∧ cluState (runFw [] id).hw ≠ 2 ∧ cluState (runFw [] id).hw ≠ 8 ∧ fencedSince (runFw [] id).hw = false ∧
      pwrState (runFw [] id).hw = 0 ∧ (runFw [] id).hw.boot.drain = none) ∧
    fencedSince (runFw [(4, 0x14#32)] id).hw = true ∧
    pwrState (runFw [(0x200034, 1#32)] id).hw ≠ 0 ∧
    ((draining id).hw.boot.drain = some 0 ∧ drainEnd (fun _ => true) (draining id).begun ≤ 0 + drainLimit (draining id).hw ∧
      sendsWait (fun _ => true) (drainHw (fun _ => true) (draining id)) = false) ∧
    (∀ k, k < 64 → ((draining id).hw.te k).flights = []) ∧
    0 + drainLimit (draining id).hw < drainEnd (fun _ => true) (draining (fun h => h.at 3201)).begun ∧
    sendsWait (fun _ => true) (drainHw (fun _ => true) (draining sendsIn)) = true ∧
    ((63 : Nat) < 64 ∧ aFlight true ∈ ((draining (fun h => h.modTe 63 (fun c => { c with flights := [aFlight true] }))).hw.te 63).flights ∧
      (aFlight true).phase = 0) ∧
    (coreOn (runFw [] id).hw 7 = true ∧ atRest ((runFw [] id).hw.core 7) = true ∧ ((runFw [] id).hw.core 7).range = none) ∧
    coreOn (runFw [] (fun h => { h with coreEn := 0x7F })).hw 7 = false ∧
    atRest ((run0 0 id).hw.core 0) = false ∧
    (nbit ((runFw [(0x10000C, 0x800000#32)] id).hw.reg 0x10000C).toNat (16 + 7) = true ∧ coreOn (runFw [(0x10000C, 0x800000#32)] id).hw 7 =
      true) ∧
    (drainEnd (fun m => m == 0) (resetting 0 id).begun ≤ coreReqAt (resetting 0 id).hw 0 + drainLimit (resetting 0 id).hw ∧
      sendsWait (fun m => m == 0) (drainHw (fun m => m == 0) (resetting 0 id)) = false) ∧
    (sendsWait (fun m => m == 0) (drainHw (fun m => m == 0) (resetting 0 sendsIn)) = true ∧ (resetting 0 sendsIn).hw.now <
      coreReqAt (resetting 0 sendsIn).hw 0 + drainLimit (resetting 0 sendsIn).hw) ∧
    (coreReqAt (resetting 3201 id).hw 0 + drainLimit (resetting 3201 id).hw < drainEnd (fun m => m == 0) (resetting 3201 id).begun ∧
      coreReqAt (resetting 3201 id).hw 0 + drainLimit (resetting 3201 id).hw ≤ (resetting 3201 id).hw.now) ∧
    (nbit ((runFw [(0x10000C, 0x10000#32)] id).hw.reg 0x10000C).toNat (16 + 0) = true ∧
      sendsWait (fun m => m == 0) (drainHw (fun m => m == 0) (runFw [(0x10000C, 0x10000#32)] id)) = false) ∧
    (nbit ((runFw [(0x10000C, 0x800000#32)] id).hw.reg 0x10000C).toNat (16 + 7) = true ∧ nbit ((runFw [] id).hw.reg 0x10000C).toNat (16 + 7) =
      false) ∧
    pwrRefuse (asked 1 (run0 0 id)) 1 = 2 ∧
    (∀ k ∈ [1, 2], pwrRefuse (asked k (runFw [] id)) k = 0 ∧ nbit ((asked k (runFw [] id)).reg 0x200034).toNat 2 = false ∧
      nbit ((asked k (runFw [] id)).reg 0x200034).toNat 3 = false ∧ (asked k (runFw [] id)).boot.drain = none ∧ pwrState (asked k (runFw [] id)) =
      0) ∧
    pwrRefuse (asked 3 (runFw [(4, 7#32)] id)) 3 = 0 ∧
    (pwrRefuse (asked 1 (runFw [(0x200034, 4#32)] id)) 1 = 0 ∧ nbit ((asked 1 (runFw [(0x200034, 4#32)] id)).reg 0x200034).toNat 2 = true) ∧
    pwrState ((runFw [] id).begun.setFld 0x200030 0 2 0) = 0 ∧
    (pwrState ((runFw [(0x200034, 2#32)] id).begun.setFld 0x200030 0 2 0) ≠ 0 ∧
      ((runFw [(0x200034, 2#32)] id).begun.setFld 0x200030 0 2 0).boot.drain = none) ∧
    ((aFlow [] (fun b => { b with pwrReq := some 1 })).hw.boot.pwrReq = some 1 ∧
      pwrRefuse (aFlow [] (fun b => { b with pwrReq := some 1 })).begun 1 = 0) ∧
    ((aFlow [(0x300018, 1#32)] (fun b => { b with pwrReq := some 2 })).hw.boot.pwrReq = some 2 ∧
      pwrRefuse (aFlow [(0x300018, 1#32)] (fun b => { b with pwrReq := some 2 })).begun 2 ≠ 0) ∧
    pwrRefuse (aFlow [(4, 7#32)] (fun b => { b with pwrReq := some 3 })).begun 3 = 0 ∧
    ((aFlow [] (fun b => { b with pwrReq := some 2 })).hw.kc.on = true ∧ (aFlow [] (fun b => { b with pwrReq := some 2 })).hw.kc.halted =
      false ∧ (aFlow [] (fun b => { b with pwrReq := some 2 })).hw.kc.wfi = false ∧
      pwrRefuse (aFlow [] (fun b => { b with pwrReq := some 2 })).begun 2 = 0) ∧
    ((runFw [] (fun h => { h.modKc (fun k => { k with wfi := true }) with boot := { h.boot with pwrReq := some 2 } })).hw.kc.wfi = true ∧
      pwrRefuse (runFw [] (fun h => { h.modKc (fun k => { k with wfi := true }) with boot := { h.boot with pwrReq := some 2 } })).begun 2 = 0) ∧
    (runFw [] id).hw.boot.pwrReq = none ∧
    (pwrState (aFlow [(0x200034, 1#32)] (fun b => { b with exitReq := some 0 })).hw = 1 ∧
      (aFlow [(0x200034, 1#32)] (fun b => { b with exitReq := some 0 })).hw.boot.exitReq.isSome = true) ∧
    (pwrState (aFlow [(0x200034, 2#32)] (fun b => { b with exitReq := some 0 })).hw = 2 ∧
      (aFlow [(0x200034, 2#32)] (fun b => { b with exitReq := some 0 })).hw.frame % 520 = 0) ∧
    ((runFw [] id).hw.boot.exitReq = none ∧ (runFw [] id).hw.boot.warmAfter = false) ∧
    (aFlow [] (fun b => { b with warmAfter := true })).hw.boot.warmAfter = true := by
  (repeat' with_reducible apply And.intro) <;> first
    | decide +kernel
    | (unfold Reaches; decide +kernel)

def snapping (f : Hw → Hw) : State := st [(DBG_SNAP_CTL, 2#32)] f
def tapped (ir : Nat) : State := st [] (fun h => { h with tap := { h.tap with ir := ir } })

theorem witness_debug_and_registers :
    Reaches (.host 0) (snapping id) ∧
    (snapArmed (snapping id).hw = true ∧ (snapping id).hw.reg64 0xC00000 = (snapping id).hw.frame) ∧
    (snapArmed (st [(0xC00000, 1#32)] id).hw = false ∧ (st [(0xC00000, 1#32)] id).hw.frame < (st [(0xC00000, 1#32)] id).hw.reg64 0xC00000) ∧
    (snapArmed (st [] id).hw = false ∧ (st [] id).hw.reg64 0xC00000 ≤ (st [] id).hw.frame) ∧
    ((true = true ↔ (tapped 8).hw.tap.ir = 8) ∧ (false = true ↔ (tapped 1).hw.tap.ir = 8) ∧ ¬(true = true ↔ (tapped 1).hw.tap.ir = 8)) ∧
    (regionOf (st [] id).hw (0x4000000000#41).toNat = .regs 0 ∧ regionOf (st [] id).hw (0x4000A80000#41).toNat = .regs 0xA80000) ∧
    regionOf (st [] id).hw (0x20FFFFFFFF#41).toNat = .unpopulated ∧
    (Reaches .kc (runKc [] 0#32 id) ∧ regionOf (runKc [] 0#32 id).hw (0x20FFFFFFFF#41).toNat = .unpopulated ∧ (runKc [] 0#32 id).hw.kc.on =
      true ∧ (runKc [] 0#32 id).hw.kc.halted = false) ∧
    regionOf (st [] id).hw (0x2000000000#41).toNat = .csm := by
  (repeat' with_reducible apply And.intro) <;> first
    | decide +kernel
    | (unfold Reaches; decide +kernel)

theorem witness_constant_registers :
    Issues (run0 (wR 0 0 1 2 0) id) 0 (wR 0 0 1 2 0) .add ∧
    Quiet (run0 (wR 0 0 1 2 0) id) (iss (run0 (wR 0 0 1 2 0) id) (wR 0 0 1 2 0)) ∧
    ReadsLanded (cr (run0 (wR 0 0 1 2 0) id) (wR 0 0 1 2 0)) (cy (run0 (wR 0 0 1 2 0) id) (wR 0 0 1 2 0)) [(0, 1), (0, 2)] ∧
    rdOf (wR 0 0 1 2 0) = 0 ∧
    (vecRows.any (fun r => decide (r.file = 2 ∧ r.mn = .pand)) = true) ∧
    Registers.wf (iss (vecState (wR 0xB 0 1 2 0x10)) (wR 0xB 0 1 2 0x10)) ∧
    Issues (vecState (wR 0xB 0 1 2 0x10)) 0 (wR 0xB 0 1 2 0x10) .pand ∧
    ReadsLanded (cr (vecState (wR 0xB 0 1 2 0x10)) (wR 0xB 0 1 2 0x10)) (cy (vecState (wR 0xB 0 1 2 0x10)) (wR 0xB 0 1 2 0x10)) [(2, 1), (2, 2)] ∧
    rdOf (wR 0xB 0 1 2 0x10) = 0 ∧
    Quiet (vecState (wR 0xB 0 1 2 0x10)) (charged (wR 0xB 0 1 2 0x10) 1) := by
  (repeat' with_reducible apply And.intro) <;> first
    | decide +kernel
    | (unfold Issues; decide +kernel)
    | exact quiet_of (by unfold Tables.wf MeterFits; decide +kernel)
    | (unfold ReadsLanded; decide +kernel)

theorem witness_register_pairs :
    ((shapeOf 0xC00000).pos = 1 ∧ (shapeOf 0xC00000).rw ≠ 0 ∧ (shapeOf (0xC00000 + 4)).pos = 2 ∧ (shapeOf (0xC00000 + 4)).rw ≠ 0) ∧
    Tables.wf hwCold ∧
    (hwCold.wlatch = [] ∧ (shapeOf 0xC00008).pos = 0) ∧
    ((shapeOf 0xC00000).plain = false ∧ (shapeOf (0xC00000 + 4)).plain = false) ∧
    (List.range 0x100).any (fun k => decide ((shapeOf (0x200000 + 4 * k)).rc ≠ 0)) = true := by
  (repeat' with_reducible apply And.intro) <;> first
    | decide +kernel
    | (unfold Tables.wf; decide +kernel)

/-! ### Ill-formed commands are refused, one for each check of WellFormed -/

theorem test_wf_flits : (Instr.meshSignal 0 (aFlit 4 0 false []) [{ aFlit 4 0 false [] with typ := 16 }]).wf = false ∧ (Instr.meshSignal 0 { aFlit 4 0 false [] with typ := 16 } []).wf = false ∧
    (Instr.meshSignal 0 { aFlit 4 0 false [] with dst := 2 ^ 18 } []).wf = false ∧
    (Instr.meshSignal 0 { aFlit 4 0 false [] with src := 2 ^ 18 } []).wf = false ∧ (Instr.meshSignal 0 (aFlit 4 (2 ^ 41) false []) []).wf = false ∧
    (Instr.meshSignal 0 (aFlit 4 4 false []) []).wf = false ∧ (Instr.meshSignal 0 { aFlit 4 0 false [] with len8 := 17 } []).wf = false ∧
    (Instr.meshSignal 0 { aFlit 4 0 false [] with txid := 2048 } []).wf = false ∧
    (Instr.meshSignal 0 (aFlit 4 0 false (List.replicate 129 0)) []).wf = false ∧ (Instr.meshSignal 0 (aFlit 4 0 false []) []).wf = true := by
  decide +kernel

theorem test_wf_packets : (Instr.lfcSignal 0 [] [] 0#32).wf = false ∧ (Instr.lfcSignal 0 (List.replicate 124 0) [1] 0#32).wf = false ∧
    (Instr.lfcSignal 0 (List.replicate 124 0) (List.replicate (33 * 128) 0) 0#32).wf = false ∧
    (Instr.lfcSignal 0 (List.replicate 124 0) [] 0#32).wf = true := by
  decide +kernel

theorem test_wf_messages : (Instr.mntHeartbeat 0 (2 ^ 18)).wf = false ∧ (Instr.mntHeartbeat 0 (2 ^ 18 - 1)).wf = true ∧
    (Instr.upArrival 0 (.mesh (2 ^ 18))).wf = false ∧ (Instr.upArrival 0 (.far 32)).wf = false ∧ (Instr.upArrival 0 (.far 31)).wf = true := by
  decide +kernel

theorem test_wf_numbers : (∀ b, (Instr.mntCredit 0 1024 b).wf = false ∧ (Instr.mntCredit 0 1023 b).wf = true) ∧ (∀ b, (Instr.mntAck 0 2048 b).wf = false) ∧
    (∀ n, (Instr.arraySkewParity n 128).wf = false) ∧ (Instr.svcSend 0 []).wf = false ∧ (Instr.svcSend 0 (List.replicate 65 0)).wf = false ∧
    (Instr.registerWrite .kc 0 0 0).wf = false ∧ (Instr.registerWrite .kc 0 129 0).wf = false ∧ (Instr.registerWrite .kc 0 4 0).wf = true ∧
    (Instr.dispatchPhase (2 ^ 64)).wf = false ∧ (Instr.trainingDone (some 68)).wf = false ∧ (Instr.trainingDone (some 67)).wf = true ∧ (Instr.bistDone [] []).wf = false ∧
    (Instr.bistDone (List.replicate 28 0) [1]).wf = false := by
  decide +kernel

/-! ### Commands on small states -/

/-- R77, R78: 5 and 7 make 12 in g3, and the pc goes on by four bytes. -/
theorem test_add : after (exec (.add (.core 0) (wR 0 3 1 2 0)) addState) (fun h => ((h.core 0).gr 3, (h.core 0).pc)) = some (12, 4) := by decide +kernel

/-- R79: a write to g0 is discarded. -/
theorem test_add_g0 : after (exec (.add (.core 0) (wR 0 0 1 2 0)) (run0 (wR 0 0 1 2 0) (withG 5 7))) (fun h => ((h.core 0).gr 0, (h.core 0).pc)) =
    some (0, 4) := by decide +kernel

/-- The command at the front of the queue is the one that runs; those behind it wait. -/
theorem test_step_takes_the_front :
    (match step { addState with pending := [.add (.core 0) (wR 0 3 1 2 0), .coreStop 1 .kc] } with
     | .next t => decide (t.pending = [.coreStop 1 .kc] ∧ (t.hw.core 0).gr 3 = 12)
     | .fault _ | .refused _ => false) = true := by decide +kernel

/-- R444, R450: the straps' register keeps bits 5:0 and 13:8 of the pins. -/
theorem test_porst_straps : after (exec (.porstNRise 0xFFFFFFFF#32) State.reset) (fun h => h.reg 8) = some 0x3F3F#32 := by decide +kernel

/-- R500: ARM for a frame that has passed is refused and arms nothing. -/
theorem test_snap_late : after (exec (.snapArm (.host 0)) (st [] id)) (fun h => snapArmed h) = some false := by decide +kernel

theorem test_no_word_spells_a_command : decodeTableWord 32 0xFFFFFFFF = none := rfl
end Sys2Proof.Machine.Tests
end

/-!
Register pairs and access codes (R7, R8, R12): what a write of each word of a pair does, what a write does to each bit by its access code,
and what a read returns, latches and clears. One lemma per case of `pairWrite`, `plainWrite`, `readRegister` and `clearRead`.
-/
namespace Sys2Proof.Machine

/-! ### Tables and bits -/

/-- A key reads as what was last written to it, in any table, where that is not what an unlisted key reads as. -/
theorem tabGet_tabPut_of_ne_default {α : Type} [DecidableEq α] (d : Nat → α) {a : Nat} {v : α} (hv : v ≠ d a) (l : List (Nat × α)) :
    tabGet d (tabPut d a v l) a = v := by
  induction l with
  | nil => simp [tabPut, hv, tabGet]
  | cons p l ih =>
    obtain ⟨k, w⟩ := p
    by_cases hlt : a < k
    · simp [tabPut, hlt, hv, tabGet]
    · by_cases heq : a = k
      · simp [tabPut, heq, heq ▸ hv, tabGet]
      · simp [tabPut, hlt, heq, tabGet, ih]

/-- What a requester's latch was given it holds: a latched word is never the empty latch's `none`. -/
theorem latch_holds (k : Nat) (x : W32) (l : List (Nat × Option W32)) :
    tabGet (fun _ => none) (tabPut (fun _ => none) k (some x) l) k = some x :=
  tabGet_tabPut_of_ne_default _ (by simp) l

theorem nbit_eq_testBit (n i : Nat) : nbit n i = n.testBit i := by
  simp [nbit, Nat.testBit_eq_decide_div_mod_eq, Nat.shiftRight_eq_div_pow]

/-- Bit `i` of a mask as a register word. -/
theorem getLsbD_mask {i : Nat} (hi : i < 32) (m : Nat) : (BitVec.ofNat 32 m).getLsbD i = nbit m i := by
  rw [BitVec.getLsbD_ofNat, nbit_eq_testBit]
  simp [hi]

/-! ### Writes of one register by access code (R12, R75, R311) -/

/-- A write of one register leaves every other one. -/
theorem plainWrite_reg_ne {off p : Nat} (hp : p ≠ off) (v : W32) (h : Hw) : (plainWrite off v h).reg p = h.reg p :=
  Hw.setReg_reg_ne h hp _

/-- The latches of writers have no part in the write of a register. -/
theorem plainWrite_wlatch (off : Nat) (v : W32) (h : Hw) (l : List (Nat × Option W32)) :
    plainWrite off v { h with wlatch := l } = { plainWrite off v h with wlatch := l } := rfl

/-- What each bit of a register comes to by a write: a flag set in this cycle is set, a W1C bit written as 1 clears, an RW bit takes the
value, every other bit stays (R12, R75, R311). -/
theorem plainWrite_bit {h : Hw} (hwf : Registers.wf h) (off : Nat) (v : W32) {i : Nat} (hi : i < 32) :
    ((plainWrite off v h).reg off).getLsbD i =
      (if nbit (setNow off h ||| irqNow off h) i then true
       else if nbit (shapeOf off).w1c i && v.getLsbD i then false
       else if nbit ((shapeOf off).rw + (shapeOf off).wo) i then v.getLsbD i else (h.reg off).getLsbD i) := by
  rw [plainWrite, Hw.setReg_reg h hwf]
  simp only [BitVec.getLsbD_or, BitVec.getLsbD_and, BitVec.getLsbD_not, getLsbD_mask hi, hi, decide_true, Bool.true_and]
  rw [Bool.and_comm (v.getLsbD i) (nbit (shapeOf off).w1c i)]
  by_cases hset : nbit (setNow off h ||| irqNow off h) i = true
  · simp only [hset, Bool.or_true, if_true]
  by_cases hclear : (nbit (shapeOf off).w1c i && v.getLsbD i) = true
  · simp only [hset, hclear, Bool.not_true, Bool.and_false, Bool.or_false, Bool.false_eq_true, if_false, if_true]
  by_cases hrw : nbit ((shapeOf off).rw + (shapeOf off).wo) i = true
  · simp only [hset, hclear, hrw, Bool.not_true, Bool.not_false, Bool.and_false, Bool.and_true, Bool.false_or, Bool.or_false,
      Bool.false_eq_true, if_false, if_true]
  · simp only [hset, hclear, hrw, Bool.not_false, Bool.and_false, Bool.and_true, Bool.or_false, Bool.false_eq_true, if_false]

/-! ### Writes of a pair (R8) -/

/-- A register that is not a word of an RW pair is written at once, or the write is refused. -/
theorem pairWrite_single {unit off : Nat} (hs : (shapeOf off).rw = 0 ∨ (shapeOf off).pos = 0) (v : W32) (ok : Bool) (h : Hw) :
    pairWrite unit off v ok h = if ok then plainWrite off v h else refuse unit h := by
  rw [pairWrite, if_pos hs]

/-- The low word of an RW pair goes to its writer's latch, or the write is refused. -/
theorem pairWrite_low {unit off : Nat} (hpos : (shapeOf off).pos = 1) (hrw : (shapeOf off).rw ≠ 0) (v : W32) (ok : Bool) (h : Hw) :
    pairWrite unit off v ok h =
      if ok then { h with wlatch := tabPut (fun _ => none) (latchKey unit off) (some v) h.wlatch } else refuse unit h := by
  simp [pairWrite, hpos, hrw]

section
variable {unit off : Nat} (hpos : (shapeOf (off + 4)).pos = 2) (hrw : (shapeOf (off + 4)).rw ≠ 0) (v : W32) (h : Hw)
include hpos hrw

/-- The high word of an RW pair takes the low word along that waits. -/
theorem pairWrite_high_latched {x : W32} (hx : tabGet (fun _ => none) h.wlatch (latchKey unit off) = some x) :
    pairWrite unit (off + 4) v true h = plainWrite (off + 4) v (plainWrite off x
      { h with wlatch := tabPut (fun _ => none) (latchKey unit off) none h.wlatch }) := by
  simp [pairWrite, hpos, hrw, hx]

/-- The high word of an RW pair goes alone where no low word waits. -/
theorem pairWrite_high_alone (hx : tabGet (fun _ => none) h.wlatch (latchKey unit off) = none) :
    pairWrite unit (off + 4) v true h =
      plainWrite (off + 4) v { h with wlatch := tabPut (fun _ => none) (latchKey unit off) none h.wlatch } := by
  simp [pairWrite, hpos, hrw, hx]

/-- A refused high word leaves the latch empty (log entry 93). -/
theorem pairWrite_high_refused :
    pairWrite unit (off + 4) v false h =
      refuse unit { h with wlatch := tabPut (fun _ => none) (latchKey unit off) none h.wlatch } := by
  simp [pairWrite, hpos, hrw]

end

/-! ### Reads (R7, R12) -/

/-- A register that latches nothing reads as its value. -/
theorem readRegister_single {off : Nat} (hs : (shapeOf off).pos = 0 ∨ (shapeOf off).plain = true) (unit : Nat) (h : Hw) :
    (readRegister unit off h).1 = regValue (regSettle off h) off := by
  have hnone : (if (shapeOf off).plain then 0 else (shapeOf off).pos) = 0 := by
    rcases hs with hs | hs <;> simp [hs]
  simp only [readRegister, hnone]

/-- The low word of a pair latches the high word for its requester. -/
theorem readRegister_low {off : Nat} (hpos : (shapeOf off).pos = 1) (hpl : (shapeOf off).plain = false) (unit : Nat) (h : Hw) :
    readRegister unit off h = (regValue (regSettle off h) off, clearRead off { regSettle off h with
      rlatch := tabPut (fun _ => none) (latchKey unit off) (some (regValue (regSettle off h) (off + 4))) (regSettle off h).rlatch }) := by
  simp only [readRegister, hpl, hpos, Bool.false_eq_true, if_false]

/-- The high word of a pair reads as what was latched for its requester. -/
theorem readRegister_high {off : Nat} (hpos : (shapeOf (off + 4)).pos = 2) (hpl : (shapeOf (off + 4)).plain = false) {unit : Nat} {h : Hw}
    {x : W32} (hx : tabGet (fun _ => none) (regSettle (off + 4) h).rlatch (latchKey unit off) = some x) :
    (readRegister unit (off + 4) h).1 = x := by
  simp only [readRegister, hpl, hpos, Bool.false_eq_true, if_false, Nat.add_sub_cancel, hx, Option.getD_some]

/-- What a read clears leaves the requesters' latches. -/
@[simp] theorem clearRead_rlatch (off : Nat) (h : Hw) : (clearRead off h).rlatch = h.rlatch := by
  simp only [clearRead]
  split
  · rfl
  · split <;> rfl

/-- Whatever a read latches, it clears the register's RC fields, and only they are taken from the register. -/
theorem readRegister_cleared (unit off : Nat) (h : Hw) :
    ∃ l, (readRegister unit off h).2 = clearRead off { regSettle off h with rlatch := l } := by
  simp only [readRegister]
  split
  · exact ⟨_, rfl⟩
  · exact ⟨_, rfl⟩
  · exact ⟨(regSettle off h).rlatch, rfl⟩

/-- A read clears the RC bits of every register but TEN_TRK (R12, R317). -/
theorem clearRead_bit {h : Hw} (hwf : Registers.wf h) {off : Nat} (ht : off ≠ 0x601008) {i : Nat} (hi : i < 32)
    (hrc : nbit (shapeOf off).rc i = true) : ((clearRead off h).reg off).getLsbD i = false := by
  have hm : (shapeOf off).rc ≠ 0 := by
    intro h0
    simp [h0, nbit] at hrc
  rw [clearRead, if_neg hm, if_neg ht, Hw.clrReg_reg h hwf]
  simp [getLsbD_mask hi, hrc]

/-! ### The obligation -/

/-- Settles O60: a write of each word of a pair by the lemmas of `pairWrite`, each bit by `plainWrite_bit`, and reads by the lemmas of
`readRegister` and `clearRead`. -/
theorem registerPairsAndAccessCodes : Obligations.RegisterPairsAndAccessCodes := by
  intro unit off lo hi h
  refine ⟨?pair, ?single, fun hwf i hi => plainWrite_bit hwf.2.1 off lo hi, fun p hp => plainWrite_reg_ne hp lo h, ?single_read,
    ?pair_read, ?clear⟩
  case pair =>
    intro hpos hrw hpos4 hrw4 _
    rw [pairWrite_low hpos hrw, pairWrite_low hpos hrw]
    refine ⟨fun _ => rfl, rfl, rfl, rfl, fun p => ?_, fun hempty => ?_, pairWrite_high_refused hpos4 hrw4 hi _⟩
    · rw [pairWrite_high_latched hpos4 hrw4 hi _ (latch_holds _ lo h.wlatch)]
      rfl
    · rw [pairWrite_high_alone hpos4 hrw4 hi h (by rw [hempty]; rfl)]
      exact ⟨rfl, plainWrite_reg_ne (by omega) hi _⟩
  case single =>
    intro hs
    rw [pairWrite_single hs, pairWrite_single hs]
    exact ⟨rfl, rfl⟩
  case single_read => exact fun hs => readRegister_single hs unit h
  case pair_read =>
    intro hpos hpl hpos4 hpl4
    rw [readRegister_low hpos hpl]
    refine ⟨rfl, fun x hx => readRegister_high hpos4 hpl4 ?_⟩
    rw [hx, clearRead_rlatch]
    exact latch_holds _ _ _
  case clear =>
    intro hwf ht i hi hrc
    obtain ⟨l, hl⟩ := readRegister_cleared unit off h
    rw [hl]
    exact clearRead_bit (h := { regSettle off h with rlatch := l }) hwf.2.1 ht hi hrc

end Sys2Proof.Machine

/-!
The DBG block, the test ports and writes of the register space (R6, R190, R500, R501, R518–R520): one lemma per case of each function.
-/
namespace Sys2Proof.Machine

/-! ### The snapshot (R500, R501) -/

theorem snapArm_refused {u : Writer} {h : Hw} (hr : snapArmed h = true ∨ h.reg64 0xC00000 ≤ h.frame) :
    snapArm u h = refuse u.unit h := if_pos hr

theorem snapArm_armed {u : Writer} {h : Hw} (ha : snapArmed h = false) (hf : h.frame < h.reg64 0xC00000) :
    snapArm u h = h.orReg DBG_SNAP_CTL 2 := by
  rw [snapArm, if_neg (by simp [ha, hf])]

theorem dbgSnapshot_taken {h : Hw} (ha : snapArmed h = true) (hf : h.reg64 0xC00000 = h.frame) :
    dbgSnapshot h = ((((List.finRange 64).foldl (fun g c => g.setReg (0xC00100 + 4 * c.val) (BitVec.ofNat 32 (snapCar (h.cars.get c))))
      ((List.finRange 8).foldl (fun g n => g.setReg64 (0xC00040 + 8 * n.val) (if coreOn h n.val then (h.core n).pc else 0)) h)).clrReg
        DBG_SNAP_CTL 2).orReg DBG_SNAP_CTL 4) := if_pos ⟨ha, hf⟩

theorem dbgSnapshot_not_due {h : Hw} (hn : snapArmed h = false ∨ h.reg64 0xC00000 ≠ h.frame) : dbgSnapshot h = h := by
  rw [dbgSnapshot, if_neg]
  rintro ⟨ha, hf⟩
  rcases hn with hn | hn
  · exact Bool.noConfusion (hn.symm.trans ha)
  · exact hn hf

/-! ### The wrapper's instruction register (R519, R520) -/

/-- The side that has the wrapper, the TAP or the serial port, loads its instruction register; but for BYPASS this isolates the cluster. -/
theorem wrapper_loaded {via : Bool} {h : Hw} (hv : via = true ↔ h.tap.ir = 8) (code : Nat) (iso : Bool) :
    wrapper code via iso h =
      if iso then isolate (h.modTap (fun t => { t with wir := code })) else h.modTap (fun t => { t with wir := code }) := by
  rw [wrapper, if_pos (Bool.eq_iff_iff.mpr (by rw [hv, decide_eq_true_iff]))]

/-- The other side loads nothing. -/
theorem wrapper_other_side {via : Bool} {h : Hw} (hv : ¬(via = true ↔ h.tap.ir = 8)) (code : Nat) (iso : Bool) :
    wrapper code via iso h = h := by
  rw [wrapper, if_neg]
  rintro rfl
  exact hv (decide_eq_true_iff)

/-! ### Register writes (R6, R190) -/

section
variable {u : Writer} {a : BitVec 41} {width : Nat} {v : W32} {h : Hw}

theorem registerWrite_aligned_word {off : Nat} (hr : regionOf h a.toNat = .regs off) (hw : width = 4) (ho : off % 4 = 0) :
    registerWrite u a width v h = writeRegister u off v h := by
  simp [registerWrite, hr, hw, ho]

theorem registerWrite_refused {off : Nat} (hr : regionOf h a.toNat = .regs off) (hw : width ≠ 4 ∨ off % 4 ≠ 0) :
    registerWrite u a width v h = refuse u.unit h := by
  simp only [registerWrite, hr, if_pos hw]

theorem registerWrite_unpopulated (hr : regionOf h a.toNat = .unpopulated) :
    registerWrite u a width v h = unpopulatedWrite u a.toNat h := by
  simp only [registerWrite, hr]

/-- An address of memory names no register. -/
theorem registerWrite_memory (hn : regionOf h a.toNat ≠ .unpopulated) (hm : ∀ off, regionOf h a.toNat ≠ .regs off) :
    registerWrite u a width v h = h := by
  rw [registerWrite]
  split
  · next off hr => exact absurd hr (hm off)
  · next hr => exact absurd hr hn
  · rfl

/-- An ingress write in an unpopulated block leaves an informational record. -/
theorem unpopulatedWrite_ingress (hu : u ≠ .kc) (x : Nat) :
    unpopulatedWrite u x h = raise { cls := cACCESS_RANGE, sev := 0, unit := u.unit, q := .none, addr := x } h := by
  cases u with
  | kc => exact absurd rfl hu
  | host p => rfl

/-- KC's write in an unpopulated block is a data-access error. -/
theorem unpopulatedWrite_kc (hon : h.kc.on = true) (hh : h.kc.halted = false) (x : Nat) :
    unpopulatedWrite .kc x h = kcFault 4 (some x) h := by
  rw [unpopulatedWrite, if_pos (by simp [hon, hh]), kcFault]

end

/-- Where an address lies does not depend on the pins. -/
theorem begun_regionOf (s : State) (x : Nat) : regionOf s.begun x = regionOf s.hw x := rfl

/-! ### The obligation -/

/-- Settles O58: each clause is the row's function on the hardware as the command finds it, by the lemma of its case. -/
theorem debugTestPortsAndRegisterWrites : Obligations.DebugTestPortsAndRegisterWrites := by
  intro u s
  refine ⟨?refused, ?armed, ?disarm, ?taken, ?not_due, fun _ => does_of rfl rfl, fun _ => does_of rfl rfl, does_of rfl rfl,
    does_of rfl rfl, does_of rfl rfl, does_of rfl rfl, ⟨does_of rfl rfl, ?wrapper_loads, ?wrapper_idle⟩, ?regs, ?unpopulated, ?memory⟩
  case refused => exact fun hr h => does_by rfl hr (snapArm_refused h)
  case armed => exact fun hr ha hf => does_by rfl hr (snapArm_armed ha hf)
  case disarm => exact fun hr => does_by rfl hr rfl
  case taken => exact fun ha hf => does_of rfl (dbgSnapshot_taken ha hf)
  case not_due => exact fun hn => does_of rfl (dbgSnapshot_not_due hn)
  case wrapper_loads =>
    intro via hv
    have hb : via = true ↔ s.begun.tap.ir = 8 := hv
    exact ⟨does_of rfl (wrapper_loaded hb 0 false), does_of rfl (wrapper_loaded hb 1 true), does_of rfl (wrapper_loaded hb 2 true),
      does_of rfl (wrapper_loaded hb 3 true)⟩
  case wrapper_idle =>
    intro via hv
    have hb : ¬(via = true ↔ s.begun.tap.ir = 8) := hv
    simp only [List.forall_mem_cons, List.not_mem_nil, false_implies, implies_true, and_true]
    exact ⟨does_of rfl (wrapper_other_side hb 0 false), does_of rfl (wrapper_other_side hb 1 true),
      does_of rfl (wrapper_other_side hb 2 true), does_of rfl (wrapper_other_side hb 3 true)⟩
  case regs =>
    intro a width v off hr hreg
    rw [← begun_regionOf] at hreg
    exact ⟨fun hw ho => does_by rfl hr (registerWrite_aligned_word hreg hw ho),
      fun hw => does_by rfl hr (registerWrite_refused hreg hw)⟩
  case unpopulated =>
    intro a width v hr hun
    rw [← begun_regionOf] at hun
    refine ⟨fun hu => does_by rfl hr ((registerWrite_unpopulated hun).trans (unpopulatedWrite_ingress hu _)), fun hu hon hh => ?_⟩
    subst hu
    exact does_by rfl hr ((registerWrite_unpopulated hun).trans (unpopulatedWrite_kc (h := s.begun) hon hh _))
  case memory =>
    intro a width v hr hn hm
    simp only [← begun_regionOf] at hn hm
    exact does_by rfl hr (registerWrite_memory hn hm)

end Sys2Proof.Machine

/-!
How KC issues, asks for its accesses and takes its traps (R190, R196, R197, R406, R412–R416, R486, R490): one lemma per case of `kcIssue`,
`kcAsk`, `kcRead`, `kcWrite` and `kcTrap`.
-/
namespace Sys2Proof.Machine

/-! ### Issue -/

section
variable {s : State} {w : W32} {m : Mn}

/-- KC executes the word at its pc on the hardware that the instruction finds. -/
theorem kcIssue_of_runs (h : KcRuns s w m) (k : Hw → Hw) : kcIssue m w s.begun k = k (kcFinds s) := by
  obtain ⟨hready, hword, hgood, hdecode⟩ := h
  have hready' : kcReady s.begun = true := hready
  have hcomes : settle s.begun.now s.begun = kcComes s := rfl
  simp only [kcIssue, hready', hcomes, hword, hgood, hdecode, Bool.not_true, Bool.false_eq_true, if_false, ne_eq, not_true_eq_false,
    if_true]
  rfl

/-- A bad code word at KC's pc is no instruction, whatever it would decode to. -/
theorem kcIssue_of_bad (hready : kcReady s.hw = true) (hword : (kcComes s).num (kcComes s).kc.pc 4 = w.toNat)
    (hbad : (kcComes s).isBad (kcComes s).kc.pc = true) (k : Hw → Hw) : kcIssue m w s.begun k = kcCodeBad (kcComes s) := by
  have hready' : kcReady s.begun = true := hready
  have hcomes : settle s.begun.now s.begun = kcComes s := rfl
  simp only [kcIssue, hready', hcomes, hword, hbad, Bool.not_true, Bool.false_eq_true, if_false, ne_eq, not_true_eq_false, if_true]

/-- A row of KC does what its instruction's body makes of the hardware that it finds. -/
theorem does_kc {i : Instr} {k : Hw → Hw} {b : Hw} (he : exec i s = run (fun hw => kcIssue m w hw k) s) (hr : KcRuns s w m)
    (hb : k (kcFinds s) = b) : Does i s b := does_of he ((kcIssue_of_runs hr k).trans hb)

end

/-- What each value row of KC runs. -/
theorem exec_kcRows : ∀ r ∈ kcRows, ∀ (w : W32) (s : State),
    exec (r.make w) s = run (fun hw => kcIssue r.mn w hw (fun h => kcSet (rdOf w) (r.value h w) (kcAdvance h))) s := by
  simp only [kcRows, List.forall_mem_append, List.forall_mem_cons, List.not_mem_nil, false_implies, implies_true, and_true]
  and_intros <;> exact fun _ _ => rfl

/-! ### Traps (R412–R415) -/

/-- Outside the trap window a trap enters it. -/
theorem kcFault_enters {h : Hw} (hf : kcFatal h = false) (ht : kcInTrap h = false) (cause : Nat) (a : Option Nat) :
    kcFault cause a h = kcEnters cause h ((kcSave h.kc.pc a h).setFld KCP_TSTAT 16 5 cause) := by
  simp only [kcFault, kcTrap, hf, ht, Bool.false_eq_true, if_false]
  rfl

/-- After the fatal entry a trap halts KC. -/
theorem kcFault_halts {h : Hw} (hf : kcFatal h = true) (cause : Nat) (a : Option Nat) : kcFault cause a h = kcHalt h := by
  rw [kcFault, kcTrap, if_pos hf]

/-- A trap in the trap window is the fatal one. -/
theorem kcFault_double {h : Hw} (hf : kcFatal h = false) (ht : kcInTrap h = true) (cause : Nat) (a : Option Nat) :
    kcFault cause a h = kcDouble cause h.kc.pc a h := by
  simp only [kcFault, kcTrap, hf, ht, Bool.false_eq_true, if_false, if_true]

/-- An interrupt's entry notes its source. -/
theorem kcTrap_interrupt {h : Hw} (hf : kcFatal h = false) (ht : kcInTrap h = false) (j : Nat) :
    kcTrap 0x10 h.kc.pc none (some j) none h =
      kcEnters 0x10 h (((h.setReg64 0xD00008 h.kc.pc).setFld KCP_TSTAT 16 5 0x10).setFld KCP_TSTAT 24 8 j) := by
  simp only [kcTrap, hf, ht, Bool.false_eq_true, if_false]
  rfl

/-- KTRAP's entry notes its code. -/
theorem kcTrap_ktrap {h : Hw} (hf : kcFatal h = false) (ht : kcInTrap h = false) (tpc c : Nat) :
    kcTrap 6 tpc none none (some c) h =
      kcEnters 6 h (((h.setReg64 0xD00008 tpc).setFld KCP_TSTAT 16 5 6).setFld KCP_TSTAT 4 12 c) := by
  simp only [kcTrap, hf, ht, Bool.false_eq_true, if_false]
  rfl

/-- A bad code word in firmware's TCM is fatal to the cluster while firmware runs. -/
theorem kcCodeBad_tcm {g t : Hw} (ht : t = kcFault 4 (some g.kc.pc) (countBad (wordOf (physOf g g.kc.pc)) g))
    (hr : regionOf g g.kc.pc = .tcm) (hfw : fwRuns t = true) : kcCodeBad g = enterArchiving
      (raise { cls := cSRAM_UNCORRECTABLE, sev := 3, unit := 0x18, q := .none, addr := g.kc.pc } t) := by
  subst ht
  simp only [kcCodeBad, hr, hfw, and_self, if_true]

/-- A bad code word elsewhere is a data-access error. -/
theorem kcCodeBad_elsewhere {g t : Hw} (ht : t = kcFault 4 (some g.kc.pc) (countBad (wordOf (physOf g g.kc.pc)) g))
    (hn : regionOf g g.kc.pc ≠ .tcm ∨ fwRuns t = false) : kcCodeBad g = t := by
  subst ht
  rw [kcCodeBad, if_neg]
  rintro ⟨hr, hfw⟩
  rcases hn with hn | hn
  · exact hn hr
  · exact Bool.noConfusion (hn.symm.trans hfw)

/-! ### Accesses (R190, R196, R197) -/

/-- An instruction whose accesses have been served goes on. -/
theorem kcAsk_served {h g : Hw} {i : Nat} {todo : List BgAcc} {b : BgReq} (hs : KcServed h i todo b g) (k : BgReq → Hw → Hw) :
    kcAsk i todo h k = k b g := by
  obtain ⟨hdone, rfl⟩ := hs
  rw [kcAsked] at hdone
  simp only [kcAsk, hdone, kcAsked]

/-- An instruction whose accesses have not been served stays. -/
theorem kcAsk_stays {h : Hw} {i : Nat} {todo : List BgAcc} (hs : KcStays h i todo) (k : BgReq → Hw → Hw) :
    kcAsk i todo h k = kcAsked i todo h := by
  rw [KcStays, kcAsked] at hs
  simp only [kcAsk, hs, kcAsked]

section
variable {h : Hw} {i a n : Nat} {k : Option (List Byte) → Hw → Hw}

theorem kcRead_none (hp : kcPlace h a n = .none) : kcRead i a n h k = k none h := by simp only [kcRead, hp]

theorem kcRead_mem (hp : kcPlace h a n = .mem) :
    kcRead i a n h k = kcAsk i (readAccs h a n) h (fun b g => k (if b.bad.isSome then none else some b.got) g) := by
  simp only [kcRead, hp]

/-- Bytes of good memory come as they were read. -/
theorem kcRead_mem_good (hp : kcPlace h a n = .mem) {b : BgReq} {g : Hw} (hs : KcServed h i (readAccs h a n) b g) (hb : b.bad = none) :
    kcRead i a n h k = k (some b.got) g := by
  rw [kcRead_mem hp, kcAsk_served hs]
  simp [hb]

/-- A bad word is a data-access error. -/
theorem kcRead_mem_bad (hp : kcPlace h a n = .mem) {b : BgReq} {g : Hw} (hs : KcServed h i (readAccs h a n) b g) (hb : b.bad ≠ none) :
    kcRead i a n h k = k none g := by
  rw [kcRead_mem hp, kcAsk_served hs]
  simp [Option.isSome_iff_ne_none.mpr hb]

theorem kcRead_mem_stays (hp : kcPlace h a n = .mem) (hs : KcStays h i (readAccs h a n)) :
    kcRead i a n h k = kcAsked i (readAccs h a n) h := by rw [kcRead_mem hp, kcAsk_stays hs]

/-- An aligned word of the register space is read once the access has its cycle. -/
theorem kcRead_reg_word {o : Nat} (hn : n = 4) (hp : kcPlace h a n = .reg o) (ho : o % 4 = 0) :
    kcRead i a n h k = kcAsk i [.rd a 4] h (fun _ g =>
      k (some (leBytes (readRegister 0x18 o g).1.toNat 4)) (readRegister 0x18 o g).2) := by
  subst hn
  simp only [kcRead, hp, ho, and_self, if_true]

/-- An access of another width is refused, and reads a free value (R6; log entry 19). -/
theorem kcRead_reg_refused {o : Nat} (hp : kcPlace h a n = .reg o) (hn : n ≠ 4) :
    kcRead i a n h k = k (some (leBytes (Config.freeNat h.free) n)) (refuse 0x18 h.draw) := by
  simp only [kcRead, hp, hn, false_and, if_false, kcWrongWidth]

end

section
variable {h : Hw} {i a : Nat} {l : List Byte} {k : Hw → Hw}

theorem kcWrite_mem (hp : kcPlace h a l.length = .mem) :
    kcWrite i a l h k = kcAsk i (writeAccs h a l) h (fun b g => k (kcWriteBad b g)) := by simp only [kcWrite, hp]

theorem kcWrite_reg_word {o : Nat} (hp : kcPlace h a l.length = .reg o) (hl : l.length = 4) (ho : o % 4 = 0) :
    kcWrite i a l h k = kcAsk i [.rd a 4] h (fun _ g => writeRegister .kc o (BitVec.ofNat 32 (leNat l)) (k g)) := by
  rw [kcWrite, hp]
  exact if_pos ⟨hl, ho⟩

theorem kcWrite_reg_refused {o : Nat} (hp : kcPlace h a l.length = .reg o) (hl : l.length ≠ 4) :
    kcWrite i a l h k = k (refuse 0x18 h) := by
  simp only [kcWrite, hp, hl, false_and, if_false]

end

@[simp] theorem leBytes_length (n k : Nat) : (leBytes n k).length = k := by
  induction k generalizing n with
  | zero => rfl
  | succ k ih => simp [leBytes, ih]

theorem length_flatMap_leBytes {α : Type} (g : α → Nat) (k : Nat) (l : List α) :
    (l.flatMap (fun p => leBytes (g p) k)).length = l.length * k := by
  induction l with
  | nil => exact (Nat.zero_mul k).symm
  | cons p l ih => rw [List.flatMap_cons, List.length_append, leBytes_length, ih, List.length_cons, Nat.succ_mul, Nat.add_comm]

/-- A frame is 16 doublewords (R410). -/
theorem frameBytes_length (x : Kc) (b : Nat) :
    ((frameRegs b).flatMap (fun p => leBytes (kcWindow x p.1 p.2).toNat 8)).length = 128 := by
  rw [length_flatMap_leBytes, frameRegs, List.length_append, List.length_map, List.length_map, List.length_range]

/-! ### Window instructions (R408–R410, R413) -/

section
variable {s : State} {w : W32}

/-- Outside the trap window, an instruction that traps enters it with the instruction's address (R412). -/
theorem does_entry {i : Instr} {cause : Nat} {h : Hw} (hf : kcFatal h = false) (ht : kcInTrap h = false)
    (hd : Does i s (kcFault cause none h)) :
    Does i s (kcEnters cause h ((h.setReg64 0xD00008 h.kc.pc).setFld KCP_TSTAT 16 5 cause)) :=
  kcFault_enters hf ht cause none ▸ hd

theorem does_wpush (hr : KcRuns s w .wpush) (ht : kcInTrap (kcFinds s) = false) (ho : kcOcc (kcFinds s) ≠ 7) :
    Does (.wpush w) s (kcSet 23 (kcGet (kcFinds s) 23 - BitVec.ofNat 64 (8 * imm12Of w))
      (setWin (kcCur (kcFinds s) + 1) (kcOcc (kcFinds s) + 1) (kcSpilled (kcFinds s)) (kcAdvance (kcFinds s)))) :=
  does_kc rfl hr (by simp only [ht, ho, Bool.false_eq_true, if_false])

theorem does_wpush_overflow (hr : KcRuns s w .wpush) (ht : kcInTrap (kcFinds s) = false) (ho : kcOcc (kcFinds s) = 7) :
    Does (.wpush w) s (kcFault 1 none (kcFinds s)) :=
  does_kc rfl hr (by simp only [ht, ho, Bool.false_eq_true, if_false, if_true])

theorem does_wpop (hr : KcRuns s w .wpop) (ht : kcInTrap (kcFinds s) = false) (ho : 1 < kcOcc (kcFinds s)) :
    Does (.wpop w) s (setWin (kcCur (kcFinds s) + 7) (kcOcc (kcFinds s) - 1) (kcSpilled (kcFinds s)) (kcAdvance (kcFinds s))) :=
  does_kc rfl hr (by simp only [ht, Nat.not_le.mpr ho, Bool.false_eq_true, if_false])

theorem does_wpop_underflow (hr : KcRuns s w .wpop) (ht : kcInTrap (kcFinds s) = false) (ho : kcOcc (kcFinds s) ≤ 1)
    (hs : kcSpilled (kcFinds s) ≠ 0) : Does (.wpop w) s (kcFault 2 none (kcFinds s)) :=
  does_kc rfl hr (by simp only [ht, ho, hs, ne_eq, not_false_eq_true, Bool.false_eq_true, if_false, if_true])

theorem does_wpop_last (hr : KcRuns s w .wpop) (ht : kcInTrap (kcFinds s) = false) (ho : kcOcc (kcFinds s) ≤ 1)
    (hs : kcSpilled (kcFinds s) = 0) : Does (.wpop w) s (kcFault 3 none (kcFinds s)) :=
  does_kc rfl hr (by simp only [ht, ho, hs, ne_eq, not_true_eq_false, Bool.false_eq_true, if_false, if_true])

theorem does_tret (hr : KcRuns s w .tret) (ht : kcInTrap (kcFinds s) = true) :
    Does (.tret w) s ((((kcFinds s).setFld KCP_TSTAT 1 1 ((kcFinds s).fld KCP_TSTAT 2 1)).clrReg KCP_TSTAT 1).modKc (fun k =>
      { k with pc := (kcFinds s).reg64 0xD00008, micro := nbit ((kcFinds s).reg KCP_PROG).toNat 31 })) :=
  does_kc rfl hr (by simp only [ht, Bool.not_true, Bool.false_eq_true, if_false])

theorem does_tret_outside (hr : KcRuns s w .tret) (ht : kcInTrap (kcFinds s) = false) :
    Does (.tret w) s (kcFault 3 none (kcFinds s)) :=
  does_kc rfl hr (by simp only [ht, Bool.not_false, if_true])

theorem does_ktrap (hr : KcRuns s w .ktrap) :
    Does (.ktrap w) s (kcTrap 6 (((kcFinds s).kc.pc + 4) % 2 ^ 64) none none (some (imm12Of w)) (kcFinds s)) :=
  does_kc rfl hr rfl

end

/-- The frame that WSPILL stores (R410): locals and ins of the oldest window. -/
def wspillBytes (h : Hw) : List Byte :=
  (frameRegs ((kcCur h + 9 - kcOcc h) % 8)).flatMap (fun p => leBytes (kcWindow h.kc p.1 p.2).toNat 8)

/-- The address at which WSPILL stores it: 128 bytes below KCP_WSP. -/
def wspillAddr (h : Hw) : Nat := (h.reg64 KCP_WSP + 2 ^ 64 - 128) % 2 ^ 64

/-- The end of WSPILL in `g`, which found `h`. -/
def wspillDone (h g : Hw) : Hw :=
  setWin (kcCur h) (kcOcc h - 1) (kcSpilled h + 1) ((kcAdvance g).setReg64 KCP_WSP (wspillAddr h))

/-- The end of WFILL in `g`, which found `h` and has read the frame `l`. -/
def wfillDone (h : Hw) (l : List Byte) (g : Hw) : Hw :=
  setWin (kcCur h) (kcOcc h + 1) (kcSpilled h - 1) (((kcAdvance g).modKc (fun k =>
    ((frameRegs ((kcCur h + 8 - kcOcc h) % 8)).mapIdx (fun i p => (i, p))).foldl
      (fun k x => Kc.put x.2.1 x.2.2 (BitVec.ofNat 64 (leAt l (8 * x.1) 8)) k) k)).setReg64 KCP_WSP ((h.reg64 KCP_WSP + 128) % 2 ^ 64))

section
variable {s : State} {w : W32} (hr : KcRuns s w .wspill) (ht : kcInTrap (kcFinds s) = true) (ho : 1 < kcOcc (kcFinds s))
  (hs : kcSpilled (kcFinds s) ≠ 0xFFFF)
include hr ht ho hs

/-- WSPILL stores its frame in memory and then lets go of the window. -/
theorem does_wspill_mem (hp : kcPlace (kcFinds s) (wspillAddr (kcFinds s)) 128 = .mem) {b : Hw}
    (hb : kcWrite 0 (wspillAddr (kcFinds s)) (wspillBytes (kcFinds s)) (kcFinds s) (wspillDone (kcFinds s)) = b) : Does (.wspill w) s b := by
  refine does_kc rfl hr (Eq.trans ?_ hb)
  have hp' : kcPlace (kcFinds s) (((kcFinds s).reg64 KCP_WSP + 2 ^ 64 - 128) % 2 ^ 64) 128 = .mem := hp
  simp only [ht, Nat.not_le.mpr ho, hs, hp', Bool.not_true, Bool.false_eq_true, or_self, if_false]
  rfl

theorem does_wspill_refused {o : Nat} (hp : kcPlace (kcFinds s) (wspillAddr (kcFinds s)) 128 = .reg o) :
    Does (.wspill w) s (wspillDone (kcFinds s) (frameRefused (kcFinds s))) := by
  refine does_kc rfl hr ?_
  have hp' : kcPlace (kcFinds s) (((kcFinds s).reg64 KCP_WSP + 2 ^ 64 - 128) % 2 ^ 64) 128 = .reg o := hp
  simp only [ht, Nat.not_le.mpr ho, hs, hp', Bool.not_true, Bool.false_eq_true, or_self, if_false]
  rfl

end

section
variable {s : State} {w : W32} (hr : KcRuns s w .wfill) (ht : kcInTrap (kcFinds s) = true) (hs : kcSpilled (kcFinds s) ≠ 0)
  (ho : kcOcc (kcFinds s) ≠ 7)
include hr ht hs ho

theorem does_wfill_refused {o : Nat} (hp : kcPlace (kcFinds s) ((kcFinds s).reg64 KCP_WSP) 128 = .reg o) :
    Does (.wfill w) s (wfillDone (kcFinds s) (leBytes (Config.freeNat (kcFinds s).free) 128) (frameRefused (kcFinds s).draw)) := by
  refine does_kc rfl hr ?_
  simp only [ht, hs, ho, hp, Bool.not_true, Bool.false_eq_true, or_self, if_false]
  rfl

/-- WFILL whose stack is in memory reads its frame there; what it goes on to is the common end of a read. -/
theorem does_wfill_mem (hp : kcPlace (kcFinds s) ((kcFinds s).reg64 KCP_WSP) 128 = .mem) {b : Hw}
    (hb : ∀ k, (∀ l g, k (some l) g = wfillDone (kcFinds s) l g) → (∀ g, k none g = kcFault 4 (some ((kcFinds s).reg64 KCP_WSP)) g) →
      kcRead 0 ((kcFinds s).reg64 KCP_WSP) 128 (kcFinds s) k = b) : Does (.wfill w) s b := by
  refine does_kc rfl hr ?_
  simp only [ht, hs, ho, hp, Bool.not_true, Bool.false_eq_true, or_self, if_false]
  exact hb _ (fun _ _ => rfl) (fun _ => rfl)

end

/-! ### WFI (R416) -/

section
variable {h : Hw}

/-- KC goes on waiting while no enabled source is pending. -/
theorem kcWake_stays (hi : irqSource h = none) : kcWake h = h := by
  rw [kcWake, if_neg]
  simp [hi]

/-- A pending source that is enabled ends WFI, but in SHELVED (R474). -/
theorem kcWake_wakes {j : Nat} (hw : h.kc.wfi = true) (hi : irqSource h = some j) (hp : pwrState h ≠ 2) :
    kcWake h = h.modKc (fun k => { k with wfi := false }) := by
  rw [kcWake, if_pos]
  simp [hw, hi, hp]

/-- KC that does not wait needs no waking. -/
theorem kcWake_running (hw : h.kc.wfi = false) : kcWake h = h := by
  rw [kcWake, if_neg]
  simp [hw]

end

/-- KC `h` that has begun to wait behind its WFI. -/
def wfiBegun (h : Hw) : Hw := (kcAdvance h).modKc (fun k => { k with wfi := true })

/-- What is pending, and the power state, do not depend on KC's own state. -/
theorem wfiBegun_irqSource (h : Hw) : irqSource (wfiBegun h) = irqSource h := rfl
theorem wfiBegun_pwrState (h : Hw) : pwrState (wfiBegun h) = pwrState h := rfl

theorem wfiBegun_woken (h : Hw) :
    (wfiBegun h).modKc (fun k => { k with wfi := false }) = (kcAdvance h).modKc (fun k => { k with wfi := false }) := rfl

section
variable {s : State} {w : W32} (hr : KcRuns s w .wfi)
include hr

theorem does_wfi_illegal (hn : ∀ i, i < 4 → (kcFinds s).reg (0xD00050 + 4 * i) = 0#32) : Does (.wfi w) s (kcFault 3 none (kcFinds s)) := by
  refine does_kc rfl hr (if_pos ?_)
  simpa using hn

section
variable (hn : ∃ i, i < 4 ∧ (kcFinds s).reg (0xD00050 + 4 * i) ≠ 0#32)
include hn

/-- With an enabled source WFI begins to wait, and ends at once where one is pending. -/
theorem does_wfi : Does (.wfi w) s (kcWake (wfiBegun (kcFinds s))) := by
  refine does_kc rfl hr (if_neg ?_)
  simpa using hn

theorem does_wfi_waits (hi : irqSource (kcFinds s) = none) : Does (.wfi w) s (wfiBegun (kcFinds s)) := by
  rw [← kcWake_stays ((wfiBegun_irqSource _).trans hi)]
  exact does_wfi hr hn

theorem does_wfi_goes_on {j : Nat} (hi : irqSource (kcFinds s) = some j) (hp : pwrState (kcFinds s) ≠ 2) :
    Does (.wfi w) s ((kcAdvance (kcFinds s)).modKc (fun k => { k with wfi := false })) := by
  have hp' : pwrState (wfiBegun (kcFinds s)) ≠ 2 := by rwa [wfiBegun_pwrState]
  rw [← wfiBegun_woken, ← kcWake_wakes rfl ((wfiBegun_irqSource _).trans hi) hp']
  exact does_wfi hr hn

end

end

/-! ### Control transfers -/

section
variable {s : State} {w : W32} {m : Mn} {i : Instr} {f : W64 → W64 → Bool} (he : exec i s = run (kcBranch m f w) s) (hr : KcRuns s w m)
include he hr

theorem does_branch_taken (hc : f (kcGet (kcFinds s) (rdOf w)) (kcGet (kcFinds s) (rs1Of w)) = true) :
    Does i s (kcGoto ((((kcFinds s).kc.pc : Int) + 4 * imm14Of w) % (2 ^ 64 : Int)).toNat (kcFinds s)) :=
  does_kc he hr (if_pos hc)

theorem does_branch_not_taken (hc : f (kcGet (kcFinds s) (rdOf w)) (kcGet (kcFinds s) (rs1Of w)) = false) :
    Does i s (kcAdvance (kcFinds s)) := does_kc he hr (if_neg (by simp [hc]))

end

theorem does_jal {s : State} {w : W32} (hr : KcRuns s w .jal) :
    Does (.jal .kc w) s (kcSet (rdOf w) (BitVec.ofNat 64 ((kcFinds s).kc.pc + 4))
      (kcGoto ((((kcFinds s).kc.pc : Int) + 4 * imm22Of w) % (2 ^ 64 : Int)).toNat (kcFinds s))) :=
  does_of (f := kcJal w) rfl (kcIssue_of_runs hr _)

theorem does_jalr {s : State} {w : W32} (hr : KcRuns s w .jalr) :
    Does (.jalr .kc w) s (kcSet (rdOf w) (BitVec.ofNat 64 ((kcFinds s).kc.pc + 4))
      (kcGoto ((kcGet (kcFinds s) (rs1Of w)).toNat - (kcGet (kcFinds s) (rs1Of w)).toNat % 4) (kcFinds s))) :=
  does_of (f := kcJalr w) rfl (kcIssue_of_runs hr _)

theorem exec_branchRows : ∀ r ∈ branchRows, ∀ (w : W32) (s : State), exec (r.1 .kc w) s = run (kcBranch r.2.1 r.2.2 w) s := by
  simp only [branchRows, List.forall_mem_cons, List.not_mem_nil, false_implies, implies_true, and_true]
  and_intros <;> exact fun _ _ => rfl

/-! ### Loads and stores (R189, R190, R196, R197) -/

section
variable {s : State} {w : W32} {m : Mn} {i : Instr} {k : Nat} {sg : Bool} (he : exec i s = run (kcLoad m k sg w) s) (hr : KcRuns s w m)
include he hr

theorem does_load_misaligned (ha : kcEa (kcFinds s) w % k ≠ 0) : Does i s (kcFault 5 (some (kcEa (kcFinds s) w)) (kcFinds s)) :=
  does_kc he hr (if_pos ha)

/-- A load reads at its address; what it goes on to is the common end of a read. -/
theorem does_load (ha : kcEa (kcFinds s) w % k = 0) {b : Hw}
    (hb : ∀ c, (∀ l g, c (some l) g = kcSet (rdOf w) (xLoad l sg) (kcAdvance g)) →
      (∀ g, c none g = kcFault 4 (some (kcEa (kcFinds s) w)) g) → kcRead 0 (kcEa (kcFinds s) w) k (kcFinds s) c = b) : Does i s b :=
  does_kc he hr ((if_neg (not_not_intro ha)).trans (hb _ (fun _ _ => rfl) (fun _ => rfl)))

end

section
variable {s : State} {w : W32} {m : Mn} {i : Instr} {k : Nat} (he : exec i s = run (kcStore m k w) s) (hr : KcRuns s w m)
include he hr

theorem does_store_misaligned (ha : kcEa (kcFinds s) w % k ≠ 0) : Does i s (kcFault 5 (some (kcEa (kcFinds s) w)) (kcFinds s)) :=
  does_kc he hr (if_pos ha)

theorem does_store_nowhere (ha : kcEa (kcFinds s) w % k = 0) (hp : kcPlace (kcFinds s) (kcEa (kcFinds s) w) k = .none) :
    Does i s (kcFault 4 (some (kcEa (kcFinds s) w)) (kcFinds s)) :=
  does_kc he hr ((if_neg (not_not_intro ha)).trans (if_pos hp))

theorem does_store (ha : kcEa (kcFinds s) w % k = 0) (hp : kcPlace (kcFinds s) (kcEa (kcFinds s) w) k ≠ .none) {b : Hw}
    (hb : kcWrite 0 (kcEa (kcFinds s) w) (leBytes (kcGet (kcFinds s) (rdOf w)).toNat k) (kcFinds s) kcAdvance = b) : Does i s b :=
  does_kc he hr (((if_neg (not_not_intro ha)).trans (if_neg hp)).trans hb)

end

theorem exec_kcLoadRows : ∀ r ∈ kcLoadRows, ∀ (w : W32) (s : State), exec (r.1 w) s = run (kcLoad r.2.1 r.2.2.1 r.2.2.2 w) s := by
  simp only [kcLoadRows, List.forall_mem_cons, List.not_mem_nil, false_implies, implies_true, and_true]
  and_intros <;> exact fun _ _ => rfl

theorem exec_kcStoreRows : ∀ r ∈ kcStoreRows, ∀ (w : W32) (s : State), exec (r.1 w) s = run (kcStore r.2.1 r.2.2 w) s := by
  simp only [kcStoreRows, List.forall_mem_cons, List.not_mem_nil, false_implies, implies_true, and_true]
  and_intros <;> exact fun _ _ => rfl

/-! ### Interrupts, the timer and the watchdog (R416, R431, R432) -/

section
variable {h : Hw}

theorem kcInterrupt_taken {j : Nat} (hon : h.kc.on = true) (hh : h.kc.halted = false) (hw : h.kc.wfi = false) (hie : kcIe h = true)
    (ht : kcInTrap h = false) (hb : kcBusy h = false) (hj : irqSource h = some j) :
    kcInterrupt h = kcTrap 0x10 h.kc.pc none (some j) none h := by
  simp [kcInterrupt, kcWake_running hw, hon, hh, hw, hie, ht, hb, hj]

theorem kcInterrupt_not_taken (hn : kcIe h = false ∨ kcInTrap h = true ∨ kcBusy h = true ∨ irqSource h = none) (hw : h.kc.wfi = false) :
    kcInterrupt h = h := by
  rw [kcInterrupt, kcWake_running hw]
  rcases hn with hn | hn | hn | hn
  · simp [hn]
  · simp [hn]
  · simp [hn]
  · simp [hn]

theorem kcTimer_match (hen : nbit (h.reg 0xD00030).toNat 0 = true) (hf : h.reg64 0xD00028 = h.frame) : kcTimer h = irq 0x04 h :=
  if_pos ⟨hen, hf⟩

theorem kcTimer_idle (hn : nbit (h.reg 0xD00030).toNat 0 = false ∨ h.reg64 0xD00028 ≠ h.frame) : kcTimer h = h := by
  rw [kcTimer, if_neg]
  rcases hn with hn | hn <;> simp [hn]

theorem wdtKick_key {v : W32} (hv : fieldOf v 0 16 = 0xC864) : wdtKick v h = h.modKc (fun k => { k with missed := false }) := if_pos hv

theorem wdtKick_other {v : W32} (hv : fieldOf v 0 16 ≠ 0xC864) : wdtKick v h = h.bump 0xD00088 16 8 := if_neg hv

/-- The watchdog pauses before KC's release, in SHELVED and once OFF is accepted. -/
theorem watchdogExpiry_paused (hn : h.kc.on = false ∨ pwrState h = 2 ∨ offAccepted h = true) : watchdogExpiry h = h := by
  rw [watchdogExpiry, if_pos]
  simpa using hn

section
variable (hon : h.kc.on = true) (hp : pwrState h ≠ 2) (ho : offAccepted h = false)
include hon hp ho

/-- The first expiry is an interrupt. -/
theorem watchdogExpiry_first (hf : kcFatal h = false) (hm : h.kc.missed = false) : watchdogExpiry h =
    irq 0x07 (((h.bump 0xD00088 8 8).orReg 0xD00088 1).modKc (fun k => { k with missed := true })) := by
  simp [watchdogExpiry, hon, hp, ho, hf, hm]

/-- The second is fatal. -/
theorem watchdogExpiry_second (hf : kcFatal h = false) (hm : h.kc.missed = true) : watchdogExpiry h = wdtFatal (h.bump 0xD00088 8 8) := by
  simp [watchdogExpiry, hon, hp, ho, hf, hm]

theorem watchdogExpiry_halts (hf : kcFatal h = true) : watchdogExpiry h = kcHalt (h.bump 0xD00088 8 8) := by
  simp [watchdogExpiry, hon, hp, ho, hf]

end

end

/-! ### The obligation -/

/-- Settles O52: each instruction on the hardware that it finds, by the lemma of its case; accesses by the lemmas of `kcRead` and
`kcWrite`. -/
theorem controlCoreWindowsAndTraps : Obligations.ControlCoreWindowsAndTraps := by
  refine ⟨fun w s => ⟨?wpush, ?wpop, fun hr ht => does_tret hr ht, ?tret_outside, ?wspill, ?wfill, ?ktrap, ?wfi,
    fun hr hn => does_wfi_illegal hr hn, ?branches, fun hr => does_jal hr, fun hr => does_jalr hr⟩,
    fun w s => ⟨?loads, ?stores⟩, ?bad_code,
    fun u v s => ⟨?interrupt, ?no_interrupt, ?timer, ?no_timer, ?kick, ?no_kick, ?expiry, ?halt, ?paused⟩,
    fun cause a h => ⟨?enters, ?halts, ?double⟩⟩
  case wpush => exact fun hr ht => ⟨does_wpush hr ht, fun ho hf => does_entry hf ht (does_wpush_overflow hr ht ho)⟩
  case wpop =>
    exact fun hr ht => ⟨does_wpop hr ht, fun ho hs hf => does_entry hf ht (does_wpop_underflow hr ht ho hs),
      fun ho hs hf => does_entry hf ht (does_wpop_last hr ht ho hs)⟩
  case tret_outside => exact fun hr ht hf => does_entry hf ht (does_tret_outside hr ht)
  case wspill =>
    intro hr ht ho hs
    refine ⟨fun hp => ⟨fun b g hserved => ?_, fun hstays => ?_⟩, fun o hp => does_wspill_refused hr ht ho hs hp⟩
    · refine does_wspill_mem hr ht ho hs hp ?_
      rw [kcWrite_mem (by rw [wspillBytes, frameBytes_length]; exact hp)]
      exact kcAsk_served hserved _
    · refine does_wspill_mem hr ht ho hs hp ?_
      rw [kcWrite_mem (by rw [wspillBytes, frameBytes_length]; exact hp)]
      exact kcAsk_stays hstays _
  case wfill =>
    intro hr ht hs ho
    exact ⟨fun hp => ⟨
        fun b g hserved hgood => does_wfill_mem hr ht hs ho hp (fun k hsome _ => (kcRead_mem_good hp hserved hgood).trans (hsome _ _)),
        fun b g hserved hbad => does_wfill_mem hr ht hs ho hp (fun k _ hnone => (kcRead_mem_bad hp hserved hbad).trans (hnone _)),
        fun hstays => does_wfill_mem hr ht hs ho hp (fun k _ _ => kcRead_mem_stays hp hstays)⟩,
      fun o hp => does_wfill_refused hr ht hs ho hp⟩
  case ktrap => exact fun hr ht hf => kcTrap_ktrap hf ht _ _ ▸ does_ktrap hr
  case wfi => exact fun hr hn => ⟨does_wfi_waits hr hn, fun j => does_wfi_goes_on hr hn⟩
  case branches =>
    intro r hm hr
    exact ⟨does_branch_taken (exec_branchRows r hm w s) hr, does_branch_not_taken (exec_branchRows r hm w s) hr⟩
  case loads =>
    intro r hm k ends hr
    have he := exec_kcLoadRows r hm w s
    exact ⟨does_load_misaligned he hr, fun ha hp => does_load he hr ha (fun c _ hnone => (kcRead_none hp).trans (hnone _)),
      fun ha hp => ⟨
        fun b g hserved hgood => does_load he hr ha (fun c hsome _ => (kcRead_mem_good hp hserved hgood).trans (hsome _ _)),
        fun b g hserved hbad => does_load he hr ha (fun c _ hnone => (kcRead_mem_bad hp hserved hbad).trans (hnone _)),
        fun hstays => does_load he hr ha (fun c _ _ => kcRead_mem_stays hp hstays)⟩,
      fun o ha hp => ⟨fun hk ho => ⟨
          fun b g hserved => does_load he hr ha (fun c hsome _ =>
            (kcRead_reg_word hk hp ho).trans ((kcAsk_served hserved _).trans (hsome _ _))),
          fun hstays => does_load he hr ha (fun c _ _ => (kcRead_reg_word hk hp ho).trans (kcAsk_stays hstays _))⟩,
        fun hk => does_load he hr ha (fun c hsome _ => (kcRead_reg_refused hp hk).trans (hsome _ _))⟩⟩
  case stores =>
    intro r hm k l hr
    have he := exec_kcStoreRows r hm w s
    have hl : l.length = k := leBytes_length _ _
    refine ⟨does_store_misaligned he hr, does_store_nowhere he hr, fun ha hp => ?memory, fun o ha hp => ?register⟩
    case memory =>
      have hwrite := kcWrite_mem (i := 0) (k := kcAdvance) (hl ▸ hp : kcPlace (kcFinds s) (kcEa (kcFinds s) w) l.length = .mem)
      have hsome : kcPlace (kcFinds s) (kcEa (kcFinds s) w) k ≠ .none := by simp [hp]
      exact ⟨fun b g hserved => does_store he hr ha hsome (hwrite.trans (kcAsk_served hserved _)),
        fun hstays => does_store he hr ha hsome (hwrite.trans (kcAsk_stays hstays _))⟩
    case register =>
      have hplace : kcPlace (kcFinds s) (kcEa (kcFinds s) w) l.length = .reg o := hl ▸ hp
      have hsome : kcPlace (kcFinds s) (kcEa (kcFinds s) w) k ≠ .none := by simp [hp]
      refine ⟨fun hk ho => ?_, fun hk => does_store he hr ha hsome (kcWrite_reg_refused hplace (hl ▸ hk))⟩
      have hwrite := kcWrite_reg_word (i := 0) (k := kcAdvance) hplace (hl.trans hk) ho
      exact ⟨fun b g hserved => does_store he hr ha hsome (hwrite.trans (kcAsk_served hserved _)),
        fun hstays => does_store he hr ha hsome (hwrite.trans (kcAsk_stays hstays _))⟩
  case bad_code =>
    intro w s g t hready hword hbad r hm
    have hdoes : Does (r.make w) s (kcCodeBad g) := does_of (exec_kcRows r hm w s) (kcIssue_of_bad hready hword hbad _)
    refine ⟨fun hr hfw => ?_, fun hn => ?_⟩
    · rwa [kcCodeBad_tcm rfl hr hfw] at hdoes
    · rwa [kcCodeBad_elsewhere rfl hn] at hdoes
  case interrupt =>
    intro j hon hh hw hie ht hb hf hj
    exact does_of rfl ((kcInterrupt_taken (h := s.begun) hon hh hw hie ht hb hj).trans (kcTrap_interrupt (h := s.begun) hf ht j))
  case no_interrupt => exact fun hn hw => does_of rfl (kcInterrupt_not_taken (h := s.begun) hn hw)
  case timer => exact fun hen hf => does_of rfl (kcTimer_match (h := s.begun) hen hf)
  case no_timer => exact fun hn => does_of rfl (kcTimer_idle (h := s.begun) hn)
  case kick => exact fun hr hv => does_by rfl hr (wdtKick_key hv)
  case no_kick => exact fun hr hv => does_by rfl hr (wdtKick_other hv)
  case expiry =>
    exact fun hon hp ho hf => ⟨fun hm => does_of rfl (watchdogExpiry_first (h := s.begun) hon hp ho hf hm),
      fun hm => does_of rfl (watchdogExpiry_second (h := s.begun) hon hp ho hf hm)⟩
  case halt => exact fun hon hp ho hf => does_of rfl (watchdogExpiry_halts (h := s.begun) hon hp ho hf)
  case paused => exact fun hn => does_of rfl (watchdogExpiry_paused (h := s.begun) hn)
  case enters => exact fun hf ht => kcFault_enters hf ht cause a
  case halts => exact fun hf => kcFault_halts hf cause a
  case double => exact fun hf ht => kcFault_double hf ht cause a

end Sys2Proof.Machine

/-!
Vector instructions of one shape (R73, R74, R79, R95, R97, R269): what their rows run, what they make of their core, and that their end,
with the flags of CORE_FPSTAT, touches nothing else. What a register write leaves of `Quiet` is said of any change of the registers that
keeps those below the cores' blocks.
-/
namespace Sys2Proof.Machine

/-! ### Registers outside the cores' blocks -/

section
variable {hw : Hw} {R : List (Nat × W32)} (hR : ∀ p, p < 0x1000000 → tabGet regReset R p = hw.reg p)
include hR

/-- The ledger points of a change look only at registers outside the cores' blocks (R439). -/
theorem noticePoints_regs (a : Hw) : noticePoints a { hw with regs := R } = noticePoints a hw := by
  have hreg : ∀ p, p < 0x1000000 → ({ hw with regs := R } : Hw).reg p = hw.reg p := hR
  have hfirm : fwRuns { hw with regs := R } = fwRuns hw := by
    simp only [fwRuns, kcFatal, hreg 0xD00004 (by decide)]
  have hports : (List.range 4).filter (fun p => decide (portState { hw with regs := R } p = 3 ∧ portState a p ≠ 3)) =
      (List.range 4).filter (fun p => decide (portState hw p = 3 ∧ portState a p ≠ 3)) := by
    refine List.filter_congr fun p hp => ?_
    have hlt := List.mem_range.mp hp
    rw [portState, Hw.fld, hreg (mshStat p) (by simp only [mshStat]; omega)]
    rfl
  have hchans : (List.range 32).filter (fun c => decide (chanState { hw with regs := R } c = 3 ∧ chanState a c ≠ 3)) =
      (List.range 32).filter (fun c => decide (chanState hw c = 3 ∧ chanState a c ≠ 3)) := by
    refine List.filter_congr fun c hc => ?_
    have hlt := List.mem_range.mp hc
    rw [chanState, Hw.fld, hreg (farReg c 8) (by simp only [farReg]; omega)]
    rfl
  simp only [noticePoints, hfirm, hports, hchans, hreg 0xD0018C (by decide)]

/-- The meter looks only at registers outside the cores' blocks (R271). -/
theorem meterFault_regs (f t : Nat) : meterFault { hw with regs := R } f t = meterFault hw f t := by
  have hreg : ∀ p, p < 0x1000000 → ({ hw with regs := R } : Hw).reg p = hw.reg p := hR
  have hcars : ∀ c, carCharge { hw with regs := R } c f t = carCharge hw c f t := fun _ => rfl
  have hmask : ∀ u, outsideMask { hw with regs := R } f t u = outsideMask hw f t u := by
    intro u
    simp only [outsideMask, Hw.reg64, hcars, hreg 0x200008 (by decide), hreg 0x200018 (by decide), hreg (0x200018 + 4) (by decide)]
    rfl
  have hpc : ∀ u, chargePc { hw with regs := R } f t u = chargePc hw f t u := by
    intro u
    simp only [chargePc, overCharge, hreg 0x200008 (by decide)]
    rfl
  simp only [meterFault, Hw.fld, hmask, hpc, hreg 0x200004 (by decide)]
  rfl

/-- The same of the first fault that it raises in a frame. -/
theorem meterFirst_regs (t : Nat) : meterFirst { hw with regs := R } t = meterFirst hw t := by
  simp only [meterFirst, meterFault_regs hR]
  rfl

/-- While a core runs, a change of registers in the cores' blocks is as quiet. -/
theorem quiet_regs {s : State} {n : Fin 8} (q : Quiet s hw) (hrun : (hw.core n).st = .run) (hwf : tabWf regReset R = true) :
    Quiet s { hw with regs := R } := by
  obtain ⟨⟨hmem, -, hactive, hshadow, hsems⟩, hpoints, hmeter, hpower, hrebuild⟩ := q
  exact ⟨⟨hmem, hwf, hactive, hshadow, hsems⟩, (noticePoints_regs hR s.hw).trans hpoints,
    hmeter.imp_right (meterFirst_regs hR _).trans, powerHolds_of_run hrun hpower rfl, hrebuild⟩

end

/-- A register outside the cores' blocks is none of a core's. -/
theorem ne_coreReg {p : Nat} (hp : p < 0x1000000) (n : Fin 8) (o : Nat) : p ≠ coreReg n o := by
  simp only [coreReg]; omega

/-! ### What a vector instruction makes of its core -/

/-- A core's own value put back changes nothing. -/
theorem Hw.setCore_self (hw : Hw) (n : Fin 8) : hw.setCore n (hw.core n) = hw := by
  have : hw.cores.set n.val (hw.cores.get n) n.isLt = hw.cores := Vector.set_getElem_self n.isLt
  rw [Hw.setCore, Hw.core, this]

/-- The scoreboard of a core with the landing of `r` entered; g0 and p0 have none (R79, R86). -/
def sbEntered (c : Core) (cyc lat : Nat) (r : Nat × Nat) : List (Nat × Land) :=
  if isFixed r then c.sb else tabPut (fun _ => landAt 0) (regKey r.1 r.2) (landAt (cyc + lat)) c.sb

/-- Entering a landing changes a core's scoreboard. -/
theorem enterLanding_eq (n : Fin 8) (cyc lat : Nat) (r : Nat × Nat) (hw : Hw) :
    enterLanding n cyc lat r hw = hw.setCore n { hw.core n with sb := sbEntered (hw.core n) cyc lat r } := by
  by_cases hfix : isFixed r = true
  · simp only [enterLanding, sbEntered, hfix, if_true]
    exact (hw.setCore_self n).symm
  · simp only [enterLanding, sbEntered, hfix]
    rfl

/-- Going on is `goneOn` of the core. -/
theorem advance_eq (n : Fin 8) (w : W32) (cyc : Nat) (hw : Hw) : advance n w cyc hw = hw.setCore n (goneOn (hw.core n) cyc w) := rfl

/-- A result goes to its register whatever the core's pc, pairing and scoreboard, and leaves the charges. -/
theorem out_goneOn (c : Core) (sb : List (Nat × Land)) (cyc : Nat) (w : W32) (i : Nat) (o : VOut) :
    (goneOn { c with sb := sb } cyc w).out i o =
      { c.out i o with
        pc := nextPc c, next := max c.next (cyc + 1), slot0 := if nbit c.pc 2 then none else some (cyc, w), idle := nextIdle c cyc
        sb := sb, charges := c.charges } := by
  cases o with
  | v x => rfl
  | p x =>
    simp only [Core.out, Core.setP]
    split <;> rfl
  | g x =>
    simp only [Core.out, Core.setG]
    split <;> rfl

/-- Core `c` after a vector instruction `w` that issues in cycle `cyc` with the result `o` for file `file`: the landing entered, the core
gone on, the result written, the vector unit charged (R82, R86, R95, R269). -/
def vecDone (c : Core) (cyc lat file : Nat) (w : W32) (o : VOut) : Core :=
  { (goneOn { c with sb := sbEntered c cyc lat (file, rdOf w) } cyc w).out (rdOf w) o with
    charges := c.charges ++ [⟨cyc, cyc + lat, 0, c.pc⟩] }

/-- The steps of a vector instruction, but for its flags, come to `vecDone`. -/
theorem chargeVec_out (n : Fin 8) (cyc lat file : Nat) (w : W32) (o : VOut) (h : Hw) :
    chargeVec n (h.core n).pc cyc lat ((advance n w cyc (enterLanding n cyc lat (file, rdOf w) h)).modCore n (fun c => c.out (rdOf w) o)) =
      h.setCore n (vecDone (h.core n) cyc lat file w o) := by
  simp only [chargeVec, Hw.modCore, advance_eq, enterLanding_eq, Hw.setCore_core, Hw.setCore_setCore, out_goneOn, vecDone]

/-! ### The flags (R73, R74) -/

/-- Outside strict mode, and without flags, nothing is set (R74). -/
theorem vFlags_silent {n : Fin 8} {f : FpFlags} {hw : Hw} (h : strict hw n = false ∨ f.bits * 256 = 0) (cyc : Nat) :
    vFlags n cyc f hw = hw ∧ fpstatAfter hw n f = hw.reg (coreReg n 0x404) := by
  rcases h with hoff | hnone
  · simp [vFlags, fpstatAfter, hoff]
  · simp [vFlags, setFp, fpstatAfter, hnone]

/-- Flags of strict mode are added to CORE_FPSTAT, and the core notes when (R73, R75). -/
theorem vFlags_strict {n : Fin 8} {f : FpFlags} {hw : Hw} (hstrict : strict hw n = true) (hbits : f.bits * 256 ≠ 0) (cyc : Nat) :
    vFlags n cyc f hw = (hw.orReg (coreReg n 0x404) (f.bits * 256)).setCore n
      { hw.core n with fpSet := setAt cyc (f.bits * 256) (hw.core n).fpSet } := by
  simp only [vFlags, hstrict, setFp, hbits, if_true, if_false]
  rfl

/-- Whatever flags there are, they change nothing but CORE_FPSTAT and when its flags were last set. -/
theorem vFlags_eq (n : Fin 8) (cyc : Nat) (f : FpFlags) (hw : Hw) :
    ∃ R x, vFlags n cyc f hw = ({ hw with regs := R } : Hw).setCore n { hw.core n with fpSet := x } ∧
      (∀ p, p ≠ coreReg n 0x404 → tabGet regReset R p = hw.reg p) ∧
      (Registers.wf hw → tabWf regReset R = true ∧ tabGet regReset R (coreReg n 0x404) = fpstatAfter hw n f) := by
  by_cases hset : strict hw n = false ∨ f.bits * 256 = 0
  · obtain ⟨hsame, hstat⟩ := vFlags_silent hset cyc
    exact ⟨hw.regs, (hw.core n).fpSet, hsame.trans (hw.setCore_self n).symm, fun _ _ => rfl, fun hwf => ⟨hwf, hstat.symm⟩⟩
  · obtain ⟨hon, hbits⟩ := not_or.mp hset
    have hstrict := eq_true_of_ne_false hon
    refine ⟨_, _, vFlags_strict hstrict hbits cyc, fun p hp => Hw.orReg_reg_ne hw hp _, fun hwf => ⟨Hw.orReg_wf hw hwf _ _, ?_⟩⟩
    rw [fpstatAfter, if_pos hstrict]
    exact Hw.orReg_reg hw hwf _ _

/-! ### The frame -/

/-- Where the charge of the vector unit is quiet, a command that leaves `h` but for core `n`, which it charges, and flags has the frame of
a vector instruction. -/
theorem vector_frame {s : State} {h : Hw} {n : Fin 8} {pc cyc lat : Nat} {c : Core} (hwf : Registers.wf h)
    (q : Quiet s (chargeVec n pc cyc lat h)) (hrun : (h.core n).st = .run)
    (hc : c.charges = (h.core n).charges ++ [⟨cyc, cyc + lat, 0, pc⟩]) (f : FpFlags) :
    let t : State := { s with hw := finish s.hw (vFlags n cyc f (h.setCore n c)) }
    VectorFrame n s h t ∧ t.hw.reg (coreReg n 0x404) = fpstatAfter h n f ∧ ∃ x, t.hw.core n = { c with fpSet := x } := by
  obtain ⟨R, x, hflags, hother, hstat⟩ := vFlags_eq n cyc f (h.setCore n c)
  obtain ⟨hRwf, hfpstat⟩ := hstat hwf
  have hbelow : ∀ p, p < 0x1000000 → tabGet regReset R p = h.reg p := fun p hp => hother p (ne_coreReg hp n _)
  have hcharged : (chargeVec n pc cyc lat h).core n = { h.core n with charges := (h.core n).charges ++ [⟨cyc, cyc + lat, 0, pc⟩] } :=
    Hw.modCore_core h n _
  have hkept : ∀ m, m ≠ n → (chargeVec n pc cyc lat h).core m = h.core m := fun m hm => Hw.modCore_core_ne h hm _
  have hrun' : ((chargeVec n pc cyc lat h).core n).st = .run := by rw [hcharged]; exact hrun
  have hquiet : Quiet s { chargeVec n pc cyc lat h with regs := R } := quiet_regs (hw := chargeVec n pc cyc lat h) hbelow q hrun' hRwf
  have heffect : vFlags n cyc f (h.setCore n c) = ({ chargeVec n pc cyc lat h with regs := R } : Hw).setCore n { c with fpSet := x } := by
    rw [hflags, Hw.setCore_core]
    exact (Hw.setCore_setCore ({ h with regs := R } : Hw) n _ _).trans (Hw.setCore_setCore ({ h with regs := R } : Hw) n _ _).symm
  obtain ⟨⟨hothers, hregs, hbeats, hrest⟩, hcore⟩ :=
    setCore_frame (c := { c with fpSet := x }) hquiet hrun' (by rw [hc]; exact (congrArg Core.charges hcharged).symm)
  rw [← heffect] at hothers hregs hbeats hrest hcore
  refine ⟨⟨fun m hm => (hothers m hm).trans (hkept m hm), fun p hp hirq => (hregs p hirq).trans (hother p hp), hbeats,
    { hrest with memory := fun a => (hrest.memory a).trans (byte_of_regs (hbelow 0 (by decide)) a) }⟩,
    (hregs _ (ne_coreReg (by decide) n _).symm).trans hfpstat, x, hcore⟩

/-! ### The rows -/

/-- What each vector row runs. -/
theorem exec_vecRows : ∀ r ∈ vecRows, ∀ (n : Fin 8) (w : W32) (s : State),
    exec (r.make n w) s = run (vecOp r.mn (r.lat w) r.file (r.reads w) (fun c => r.value c w) n w) s := by
  simp only [vecRows, List.forall_mem_append, List.forall_mem_cons, List.not_mem_nil, false_implies, implies_true, and_true]
  and_intros <;> exact fun _ _ _ => rfl

/-- No vector row's value depends on the scoreboard. -/
theorem value_sb : ∀ r ∈ vecRows, ∀ (c : Core) (sb : List (Nat × Land)) (w : W32), r.value { c with sb := sb } w = r.value c w := by
  simp only [vecRows, List.forall_mem_append, List.forall_mem_cons, List.not_mem_nil, false_implies, implies_true, and_true]
  and_intros <;> exact fun _ _ _ => rfl

/-- A core that issues a word runs. -/
theorem issued_run {s : State} {n : Fin 8} {w : W32} {m : Mn} (hi : Issues s n w m) : ((issued s n w).core n).st = .run := by
  obtain ⟨-, hrun, -⟩ := hi
  have hsame := issued_core s n w n
  unfold SameCore at hsame
  rw [← hsame] at hrun
  exact hrun

/-- A vector instruction that issues with its sources landed and its destination free leaves `vecDone` of its core and its flags. -/
theorem vecOp_of_free {s : State} {n : Fin 8} {w : W32} {m : Mn} {lat file : Nat} {rs : List (Nat × Nat)} {f : Core → VOut × FpFlags}
    (hf : ∀ c sb, f { c with sb := sb } = f c) (hi : Issues s n w m)
    (hreads : ReadsLanded ((issued s n w).core n) (issueCyc ((issued s n w).core n) w) rs)
    (hfree : WriteFree ((issued s n w).core n) (issueCyc ((issued s n w).core n) w) (file, rdOf w) lat) :
    let h := issued s n w; let c := h.core n; let cyc := issueCyc c w
    vecOp m lat file rs f n w s.begun = vFlags n cyc (f c).2 (h.setCore n (vecDone c cyc lat file w (f c).1)) := by
  have hvalue : f ((enterLanding n (issueCyc ((issued s n w).core n) w) lat (file, rdOf w) (issued s n w)).core n) =
      f ((issued s n w).core n) := by rw [enterLanding_eq, Hw.setCore_core, hf]
  rw [vecOp, issue_reads hi hreads, withWrite_of_free hfree]
  simp only [hvalue, chargeVec_out]

/-! ### The obligation -/

/-- Settles O13: the row's function on the core that issues (`vecOp_of_free`), and the frame of its end (`vector_frame`). The flags stand
in CORE_FPSTAT from the issue cycle on, the model's choice (log entry 100). -/
theorem vectorInstructionsWriteTheirResult : Obligations.VectorInstructionsWriteTheirResult := by
  intro r hr n w s h c cyc hwf hi hreads hfree hquiet
  have hdoes := does_of (exec_vecRows r hr n w s) (vecOp_of_free (fun c sb => value_sb r hr c sb w) hi hreads hfree)
  obtain ⟨hframe, hfpstat, x, hcore⟩ := vector_frame (c := vecDone c cyc (r.lat w) r.file w (r.value c w).1) hwf hquiet (issued_run hi)
    rfl (r.value c w).2
  refine ⟨_, hdoes, hframe, hfpstat, ?_⟩
  rw [hcore, vecDone, out_goneOn]

end Sys2Proof.Machine

/-!
The sparse tables and memory (R188, R248, R250): every command ends in canonical tables, the reset state begins with them, and what one
written byte changes.
-/
namespace Sys2Proof.Machine

/-! ### The tables of every state -/

/-- Whatever the command, its row runs a function on the hardware; none stops, and none goes past the ending of `run`. -/
theorem exec_eq_run (i : Instr) (s : State) : ∃ f, exec i s = run f s := by
  cases i <;> exact ⟨_, rfl⟩

/-- What a command answers has canonical tables, whatever it found. -/
theorem exec_tables_wf {i : Instr} {s t : State} (h : exec i s = .next t) : Tables.wf t.hw := by
  obtain ⟨f, hrun⟩ := exec_eq_run i s
  rw [hrun] at h
  cases h
  exact tables_wf_finish _ _

/-- A step with a command at the front of the queue is safe from any state. -/
theorem safeStep_of_pending {s : State} {i : Instr} {rest : List Instr} (hp : s.pending = i :: rest) : SafeStep s := by
  obtain ⟨f, hrun⟩ := exec_eq_run i { s with pending := rest }
  exact ⟨_, by rw [step, hp]; exact hrun, tables_wf_finish _ _⟩

/-- An idle step is safe from canonical tables. -/
theorem safeStep_of_idle {s : State} (hp : s.pending = []) (hwf : Tables.wf s.hw) : SafeStep s :=
  ⟨s, by rw [step, hp], hwf⟩

/-- Settles O3 (the one form of the tables is the model's, log entry 32): a command ends in canonical tables by `exec_tables_wf`; a step runs
a command, or idles and keeps what it found. -/
theorem stepsKeepTablesCanonical : Obligations.StepsKeepTablesCanonical := by
  refine ⟨fun _ _ _ h => exec_tables_wf h, fun s hwf => ?_⟩
  cases hp : s.pending with
  | nil => exact safeStep_of_idle hp hwf
  | cons i rest => exact safeStep_of_pending hp

/-- Settles O4: every table of the reset state is empty. -/
theorem resetTablesCanonical : Obligations.ResetTablesCanonical := ⟨rfl, rfl, rfl, rfl, rfl⟩

/-! ### One written byte -/

/-- The migration state after a write of the byte at `a`: the row of a BM byte that a rebuild has copied is dirty (R250). -/
def bmcWritten (hw : Hw) (a : Nat) : Migration :=
  match regionOf hw a with
  | .bm g o => if g * 2 ^ 15 + rowOf o ∈ hw.bmc.copied then { hw.bmc with dirty := setIns (g * 2 ^ 15 + rowOf o) hw.bmc.dirty } else hw.bmc
  | _ => hw.bmc

theorem bmcWritten_copied {hw : Hw} {a g o : Nat} (hr : regionOf hw a = .bm g o) (hc : g * 2 ^ 15 + rowOf o ∈ hw.bmc.copied) :
    bmcWritten hw a = { hw.bmc with dirty := setIns (g * 2 ^ 15 + rowOf o) hw.bmc.dirty } := by
  simp only [bmcWritten, hr, if_pos hc]

theorem bmcWritten_not_copied {hw : Hw} {a : Nat} (hn : ∀ g o, regionOf hw a = .bm g o → g * 2 ^ 15 + rowOf o ∉ hw.bmc.copied) :
    bmcWritten hw a = hw.bmc := by
  rw [bmcWritten]
  split
  · next g o hr => exact if_neg (hn g o hr)
  · rfl

/-- A write of a byte changes memory at the byte's storage key, and the migration's marks. -/
theorem Hw.putByte_eq (hw : Hw) (a : Nat) (b : Byte) :
    hw.putByte a b = { hw with mem := tabPut memReset (physOf hw a) b hw.mem, bmc := bmcWritten hw a } := by
  unfold Hw.putByte
  dsimp only
  split
  · next g o hr =>
    by_cases hc : g * 2 ^ 15 + rowOf o ∈ hw.bmc.copied
    · rw [if_pos hc, bmcWritten_copied hr hc]
    · rw [if_neg hc, bmcWritten_not_copied (by rw [hr]; rintro _ _ ⟨⟩; exact hc)]
  · next hn => rw [bmcWritten_not_copied (fun g o hr => absurd hr (hn g o))]

/-- Where a byte is stored depends neither on what memory holds nor on the migration's marks. -/
theorem physOf_putByte (hw : Hw) (a x : Nat) (b : Byte) : physOf (hw.putByte a b) x = physOf hw x := by
  rw [Hw.putByte_eq]; rfl

/-- A byte of memory after a write: the byte written at its storage key, and what was there at every other key. -/
theorem Hw.putByte_byte {hw : Hw} (hwf : Memory.wf hw) (a x : Nat) (b : Byte) :
    (hw.putByte a b).byte x = if physOf hw x = physOf hw a then b else hw.byte x := by
  rw [Hw.byte, physOf_putByte, Hw.putByte_eq]
  exact tabGet_tabPut memReset hwf b

/-- Hardware whose rebuild has copied row 0 of group 0: the byte at address 0 lies in that row, and a write of it marks it. -/
theorem copied_row_marked :
    let hw : Hw := { hwCold with bmc := { hwCold.bmc with copied := [0] } }
    Memory.wf hw ∧ regionOf hw 0 = .bm 0 0 ∧ 0 * 2 ^ 15 + rowOf 0 ∈ hw.bmc.copied ∧ (hw.putByte 0 1).bmc.dirty = [0] := by
  decide

/-- Settles O5: reading after writing by storage key (`putByte_byte`), and the dirty mark by `bmcWritten`. -/
theorem memoryReadsWhatWasWritten : Obligations.MemoryReadsWhatWasWritten := by
  intro hw a b hwf
  refine ⟨by rw [Hw.putByte_byte hwf, if_pos rfl], fun x hx => by rw [Hw.putByte_byte hwf, if_neg hx], Hw.putByte_wf hwf a b, ?regs,
    fun g o hr hc => ?copied, fun hn => ?rest⟩
  case regs => rw [Hw.putByte_eq]
  case copied => rw [Hw.putByte_eq]; exact bmcWritten_copied hr hc
  case rest => rw [Hw.putByte_eq]; exact bmcWritten_not_copied hn

end Sys2Proof.Machine

/-!
TXQ (R195, R280, R297, R298, R486): what `enqueue` does with a record in each case, and the instruction that hands it one.
-/
namespace Sys2Proof.Machine

/-! ### Enqueuing a record (R297, R298) -/

/-- A channel that holds, or has in flight, eight records (R297). -/
abbrev ChannelFull (c : TeCh) : Prop := 8 ≤ c.held.length + (c.flights.filter (fun f => decide (f.phase = 0))).length

/-- A channel that stops or has stopped (R298). -/
abbrev ChannelStopped (c : TeCh) : Prop := c.st = .stopping ∨ c.st = .stoppedFault ∨ c.st = .stoppedReq

/-- The record that a channel is given, as its copy finds it: before any hold has moved it. -/
def copiedRecord (addr landed : Nat) (viaReg : Bool) (hw : Hw) : Desc := ⟨hw.bytes addr 64, addr, landed, viaReg, 0, badByte hw addr 64⟩

/-- The record as the channel holds it: one that starts from the phase start is moved by the hold that the phase has had, once it has
ended (R280, R313). -/
def shiftedRecord (hold : Hold) (d : Desc) : Desc := if dRef d = 2 ∧ !hold.held then { d with shift := 6 * hold.delta } else d

/-- A hold leaves the cycle in which a record lands. -/
theorem shiftedRecord_landed (hold : Hold) (d : Desc) : (shiftedRecord hold d).landed = d.landed := by
  rw [shiftedRecord]; split <;> rfl

/-- A channel holds one record more; as its head the record counts from its landing (R299). -/
def giveRecord (k : Nat) (d : Desc) (hw : Hw) : Hw :=
  hw.modTe k (fun c => toHead hw { c with held := c.held ++ [d], headAt := if c.held.isEmpty then d.landed else c.headAt })

/-- What the copy of a record leaves of the memory that it reads: counts of the errors that it meets (R195, R486). -/
def copyRead (addr : Nat) (hw : Hw) : Hw :=
  correct addr 64 (match badByte hw addr 64 with
    | some e => countBad (wordOf (physOf hw e)) hw
    | none => hw)

section
variable {k addr landed : Nat} {ok viaReg : Bool} {hw : Hw}

theorem enqueue_full (hf : ChannelFull (hw.te k)) : enqueue k ok addr landed viaReg hw = (hw, 1) := if_pos hf

theorem enqueue_stopped (hf : ¬ChannelFull (hw.te k)) (hs : ChannelStopped (hw.te k)) :
    enqueue k ok addr landed viaReg hw = (hw, 2) := by
  exact (if_neg hf).trans (if_pos hs)

theorem enqueue_misplaced (hf : ¬ChannelFull (hw.te k)) (hs : ¬ChannelStopped (hw.te k)) :
    enqueue k false addr landed viaReg hw = (hw, 3) := by
  exact (if_neg hf).trans (if_neg hs)

theorem enqueue_taken (hf : ¬ChannelFull (hw.te k)) (hs : ¬ChannelStopped (hw.te k)) :
    enqueue k true addr landed viaReg hw =
      (giveRecord k (shiftedRecord hw.hold (copiedRecord addr landed viaReg (settle hw.now hw))) (copyRead addr (settle hw.now hw)), 0) := by
  refine (if_neg hf).trans ((if_neg hs).trans ?_)
  rw [giveRecord, shiftedRecord_landed]
  rfl

end

/-! ### The instruction -/

/-- TXQ takes a record in the core's own LM or in CSM, 64-byte aligned (R298). -/
def RecordPlace (n : Fin 8) (hw : Hw) (a : Nat) : Prop :=
  a % 64 = 0 ∧ a < 2 ^ 41 ∧ (regionOf hw a = .lm n.val ∨ regionOf hw a = .csm)

/-- The same as the instruction checks it. -/
def recordPlace (n : Fin 8) (hw : Hw) (a : Nat) : Bool :=
  decide (a % 64 = 0 ∧ a < 2 ^ 41) && (match regionOf hw a with
    | .lm m => decide (m = n.val)
    | .csm => true
    | _ => false)

theorem recordPlace_iff (n : Fin 8) (hw : Hw) (a : Nat) : recordPlace n hw a = true ↔ RecordPlace n hw a := by
  rw [recordPlace, RecordPlace, Bool.and_eq_true, decide_eq_true_iff, and_assoc]
  cases regionOf hw a <;> simp

theorem enterLanding_gr (n : Fin 8) (cyc lat : Nat) (r : Nat × Nat) (hw : Hw) (i : Nat) :
    ((enterLanding n cyc lat r hw).core n).gr i = (hw.core n).gr i := by
  rw [enterLanding_eq, Hw.setCore_core]; rfl

theorem latMem_enterLanding (n : Fin 8) (cyc lat : Nat) (r : Nat × Nat) (hw : Hw) (a : Nat) :
    latMem (enterLanding n cyc lat r hw) a = latMem hw a := by
  rw [enterLanding_eq]; rfl

theorem recordPlace_enterLanding (n : Fin 8) (cyc lat : Nat) (r : Nat × Nat) (hw : Hw) (a : Nat) :
    recordPlace n (enterLanding n cyc lat r hw) a = recordPlace n hw a := by
  rw [enterLanding_eq]; rfl

/-- What TXQ does once its landing is entered: it offers the record that rs1 names to its channel, and the code goes to rd. -/
def txqOffer (n : Fin 8) (w : W32) (cyc : Nat) (hw : Hw) : Hw :=
  let a := ((hw.core n).gr (rs1Of w)).toNat
  let r := enqueue (imm12Of w % 64) (recordPlace n hw a) a (cyc + latMem hw a + 2) false (advance n w cyc hw)
  r.1.modCore n (fun c => c.setG (rdOf w) (BitVec.ofNat 64 r.2))

theorem coreTxq_eq (n : Fin 8) (w : W32) (hw : Hw) :
    coreTxq n w hw = withIssue n .txq w hw (fun cyc pc hw => withReads n pc cyc [(0, rs1Of w)] hw (fun hw =>
      withWrite n pc cyc (some (0, rdOf w)) 2 hw (txqOffer n w cyc))) := rfl

/-- The address that TXQ finds in rs1 as it issues. -/
abbrev txqAddr (s : State) (n : Fin 8) (w : W32) : Nat := (((issued s n w).core n).gr (rs1Of w)).toNat

/-- The cycle in which TXQ issues. -/
abbrev txqCyc (s : State) (n : Fin 8) (w : W32) : Nat := issueCyc ((issued s n w).core n) w

/-- The hardware once TXQ has issued: its landing entered, its core gone on. -/
def txqIssued (s : State) (n : Fin 8) (w : W32) : Hw :=
  advance n w (txqCyc s n w) (enterLanding n (txqCyc s n w) 2 (0, rdOf w) (issued s n w))

/-- Issuing changes nothing but the core. -/
theorem txqIssued_eq (s : State) (n : Fin 8) (w : W32) : ∃ c, txqIssued s n w = (issued s n w).setCore n c := by
  rw [txqIssued, advance_eq, enterLanding_eq, Hw.setCore_setCore]
  exact ⟨_, rfl⟩

/-- A change of a core leaves the channels. -/
theorem Hw.setCore_te (hw : Hw) (n : Fin 8) (c : Core) (k : Nat) : (hw.setCore n c).te k = hw.te k := rfl

/-- The channels stand as they were. -/
theorem txqIssued_te (s : State) (n : Fin 8) (w : W32) (k : Nat) : (txqIssued s n w).te k = (issued s n w).te k := by
  obtain ⟨c, hc⟩ := txqIssued_eq s n w
  rw [hc, Hw.setCore_te]

/-- The hold stands as it was. -/
theorem txqIssued_hold (s : State) (n : Fin 8) (w : W32) : (txqIssued s n w).hold = (issued s n w).hold := by
  obtain ⟨c, hc⟩ := txqIssued_eq s n w
  rw [hc, Hw.setCore_hold]

section
variable {n : Fin 8} {w : W32} {s : State} (hi : Issues s n w .txq)
  (hreads : ReadsLanded ((issued s n w).core n) (txqCyc s n w) [(0, rs1Of w)])
  (hfree : WriteFree ((issued s n w).core n) (txqCyc s n w) (0, rdOf w) 2)
include hi hreads hfree

/-- What the channel answers to the record goes to rd. -/
theorem does_txq {hw : Hw} {code : Nat}
    (he : enqueue (imm12Of w % 64) (recordPlace n (issued s n w) (txqAddr s n w)) (txqAddr s n w)
      (txqCyc s n w + latMem (issued s n w) (txqAddr s n w) + 2) false (txqIssued s n w) = (hw, code)) :
    Does (.txq n w) s (hw.setCore n ((hw.core n).setG (rdOf w) (BitVec.ofNat 64 code))) := by
  refine does_of (f := coreTxq n w) rfl ?_
  rw [coreTxq_eq, issue_reads hi hreads, withWrite_of_free hfree]
  simp only [txqOffer, enterLanding_gr, recordPlace_enterLanding, latMem_enterLanding]
  rw [txqIssued] at he
  rw [he]
  rfl

end

/-- Settles O19: TXQ gives rd what the channel answers (`does_txq`), which is by the cases of `enqueue`. -/
theorem coreEnqueuesTransfers : Obligations.CoreEnqueuesTransfers := by
  intro n w s h c cyc k a g full stopped place hi hreads hfree
  have hfull : ChannelFull (g.te k) ↔ full := by rw [show g.te k = h.te k from txqIssued_te s n w k]
  have hstopped : ChannelStopped (g.te k) ↔ stopped := by rw [show g.te k = h.te k from txqIssued_te s n w k]
  have hplace : recordPlace n h a = true ↔ place := recordPlace_iff n h a
  refine ⟨fun hf => ?full, fun hf hs => ?stopped, fun hf hs hp => ?misplaced, fun hf hs hp => ?taken⟩
  case full => exact does_txq hi hreads hfree (enqueue_full (hfull.mpr hf))
  case stopped => exact does_txq hi hreads hfree (enqueue_stopped (mt hfull.mp hf) (hstopped.mpr hs))
  case misplaced =>
    have hno : recordPlace n h a = false := eq_false_of_ne_true (mt hplace.mp hp)
    refine does_txq hi hreads hfree (code := 3) ?_
    rw [hno]
    exact enqueue_misplaced (mt hfull.mp hf) (mt hstopped.mp hs)
  case taken =>
    intro g1 d0 d read g2
    have hd : shiftedRecord g.hold (copiedRecord a (cyc + latMem h a + 2) false g1) = d := by
      rw [show g.hold = h.hold from txqIssued_hold s n w]
      simp only [shiftedRecord, Bool.not_eq_true', d, d0, copiedRecord]
    have htaken : enqueue k true a (cyc + latMem h a + 2) false g = (g2, 0) := by
      rw [enqueue_taken (mt hfull.mp hf) (mt hstopped.mp hs), hd]
      rfl
    exact does_txq hi hreads hfree (by rw [hplace.mpr hp]; exact htaken)

end Sys2Proof.Machine

/-!
The range engine of a core (R189, R205, R207, R208): when a range operation starts, what it leaves then, and how each one ends.
-/
namespace Sys2Proof.Machine

/-! ### Writes to a core's block -/

/-- A write to an enabled core's block that reaches the cluster takes place. -/
theorem does_byCore {i : Instr} {s : State} {n : Fin 8} {o : Nat} {u : Writer} {f : Hw → Hw} {b : Hw}
    (h : exec i s = run (byCoreWriter n o u f) s) (hr : CoreReaches u n s) (hf : f s.begun = b) : Does i s b := by
  obtain ⟨hreach, hon⟩ := hr
  refine does_of h ?_
  have hon' : coreOn s.begun n.val = true := hon
  rw [byCoreWriter, if_pos hon', byWriter_of_reaches hreach, hf]

/-! ### Starting a range operation (R205, R207, R208) -/

/-- The range operations that start, with their codes in CORE_RNG_CTL. -/
def rangeRows : List ((Fin 8 → Writer → Instr) × Nat) := [(.dinv, 0), (.dclean, 1), (.dclinv, 2), (.ipreload, 3), (.iinv, 4)]

theorem exec_rangeRows : ∀ p ∈ rangeRows, ∀ (n : Fin 8) (u : Writer) (s : State),
    exec (p.1 n u) s = run (byCoreWriter n 0x614 u (rangeGo p.2 n u.unit)) s := by
  simp only [rangeRows, List.forall_mem_cons, List.not_mem_nil, false_implies, implies_true, and_true]
  and_intros <;> exact fun _ _ _ => rfl

theorem rangeRows_lt : ∀ p ∈ rangeRows, p.2 < 5 := by
  simp only [rangeRows, List.forall_mem_cons, List.not_mem_nil, false_implies, implies_true, and_true]
  decide

/-- A range operation may start (R207). -/
def RangeMay (hw : Hw) (n : Fin 8) (op : Nat) : Prop :=
  (hw.core n).range = none ∧ rngBase hw n % 128 = 0 ∧ rngLen hw n ≠ 0 ∧
    (3 ≤ op → (hw.core n).st ≠ .armed ∧ (hw.core n).st ≠ .run ∧ (hw.core n).st ≠ .wait) ∧
    (op = 3 → rngLen hw n % 128 = 0 ∧ rngLen hw n ≤ 0x10000)

theorem rangeRefused_iff {op : Nat} (ho : op < 5) (hw : Hw) (n : Fin 8) : rangeRefused hw n op = true ↔ ¬RangeMay hw n op := by
  simp only [rangeRefused, RangeMay, inUse, Bool.or_eq_true, Bool.and_eq_true, decide_eq_true_iff, Option.isSome_iff_ne_none]
  grind

/-- The core's stores to lines of a range that DCLEAN and DCLINV wait for (R208). -/
def rangeStores (hw : Hw) (n : Fin 8) (op : Nat) : List Nat :=
  if op = 1 ∨ op = 2 then
    ((hw.core n).stores.filter (fun o => decide (hw.now ≤ o.ack) && o.lines.any (fun a =>
      rangeLines ⟨op, rngBase hw n, rngLen hw n, hw.now + 1, [], none, 0, 0⟩ (a / 128)))).map (fun o => o.id)
  else []

/-- The operation that a GO starts, in the cycle after it: the walk of DINV begins at once, that of DCLINV where no store is to wait for. -/
def rangeStarted (hw : Hw) (n : Fin 8) (op : Nat) : RangeOp :=
  ⟨op, rngBase hw n, rngLen hw n, hw.now + 1, rangeStores hw n op,
    if op = 0 ∨ (op = 2 ∧ rangeStores hw n op = []) then some (hw.now + 1) else none, 0, 0⟩

/-- The core BUSY with the operation, as CORE_RNG_CTL and CORE_RNG_STAT show it. -/
def rangeBusy (hw : Hw) (n : Fin 8) (op : Nat) : Hw :=
  (((hw.setReg (coreReg n 0x614) (BitVec.ofNat 32 (2 * op))).setFld (coreReg n 0x618) 2 8 0).setFld (coreReg n 0x618) 0 1 1).setCore n
    { hw.core n with range := some (rangeStarted hw n op) }

section
variable {hw : Hw} {n : Fin 8} {op : Nat} (u : Nat)

theorem rangeGo_refused (ho : op < 5) (hm : ¬RangeMay hw n op) : rangeGo op n u hw = refuse u hw :=
  if_pos ((rangeRefused_iff ho hw n).mpr hm)

/-- A GO that is not refused: IINV takes the resident code away, IPRELOAD requests what the core may read. -/
theorem rangeGo_taken (ho : op < 5) (hm : RangeMay hw n op) :
    rangeGo op n u hw =
      if op = 4 then (rangeBusy hw n op).clrReg (coreReg n 0x620) 1
      else if op = 3 ∧ codePlace hw n (rangeStarted hw n op) then
        bgAdd (bgNew (rangeBusy hw n op) n.val (readAccs (rangeBusy hw n op) (rngBase hw n) (rngLen hw n)) (.code n.val)) (rangeBusy hw n op)
      else rangeBusy hw n op :=
  if_neg (fun h => (rangeRefused_iff ho hw n).mp h hm)

theorem rangeGo_data (ho : op < 3) (hm : RangeMay hw n op) : rangeGo op n u hw = rangeBusy hw n op := by
  rw [rangeGo_taken u (by omega) hm, if_neg (by omega), if_neg (by omega)]

theorem rangeGo_iinv (ho : op = 4) (hm : RangeMay hw n op) : rangeGo op n u hw = (rangeBusy hw n op).clrReg (coreReg n 0x620) 1 :=
  (rangeGo_taken u (by omega) hm).trans (if_pos ho)

theorem rangeGo_ipreload (ho : op = 3) (hm : RangeMay hw n op) (hc : codePlace hw n (rangeStarted hw n op) = true) :
    rangeGo op n u hw = bgAdd (bgNew (rangeBusy hw n op) n.val (readAccs (rangeBusy hw n op) (rngBase hw n) (rngLen hw n)) (.code n.val))
      (rangeBusy hw n op) := by
  rw [rangeGo_taken u (by omega) hm, if_neg (by omega), if_pos ⟨ho, hc⟩]

theorem rangeGo_ipreload_denied (ho : op = 3) (hm : RangeMay hw n op) (hc : codePlace hw n (rangeStarted hw n op) = false) :
    rangeGo op n u hw = rangeBusy hw n op := by
  rw [rangeGo_taken u (by omega) hm, if_neg (by omega), if_neg (by simp [hc])]

end

/-- A change of a core leaves the registers. -/
theorem Hw.setCore_reg (hw : Hw) (n : Fin 8) (c : Core) (p : Nat) : (hw.setCore n c).reg p = hw.reg p := rfl

/-- What a core may read hangs on the catalogue and on CLU_IDENT alone (R189, R191). -/
theorem corePerm_congr {a b : Hw} (hreg : b.reg 0 = a.reg 0) (hen : b.coreEn = a.coreEn) (n : Fin 8) (x : Nat) :
    corePerm b n x = corePerm a n x := by
  have hgroup : groupSize b = groupSize a := by rw [groupSize, groupSize, twoLayers, twoLayers, Hw.fld, Hw.fld, hreg]
  have hon : coreOn b = coreOn a := by funext k; rw [coreOn, coreOn, hen]
  have hregion : regionOf b x = regionOf a x := by
    unfold regionOf
    rw [hgroup, hon]
  unfold corePerm reservedFrom
  rw [hregion, hgroup]

/-- A GO leaves what the core may read. -/
theorem codePlace_rangeBusy (hw : Hw) (n : Fin 8) (op : Nat) (r : RangeOp) : codePlace (rangeBusy hw n op) n r = codePlace hw n r := by
  have hne : ∀ o, (0 : Nat) ≠ coreReg n o := ne_coreReg (by decide) n
  have hreg : (rangeBusy hw n op).reg 0 = hw.reg 0 := by
    rw [rangeBusy, Hw.setCore_reg, Hw.setFld_reg_ne _ (hne _), Hw.setFld_reg_ne _ (hne _), Hw.setReg_reg_ne _ (hne _)]
  simp only [codePlace, corePerm_congr hreg rfl]

/-! ### The end of a range operation (R205, R208) -/

/-- The cycle in which the last marked fill lands, 0 of no operation. -/
theorem fillEnd_getD (o : Option RangeOp) : (o.map (fun x => x.fillEnd)).getD 0 = o.elim 0 (fun x => x.fillEnd) := by
  cases o <;> rfl

/-- None of the stores that an operation waits for stands in the core any more. -/
theorem no_store_waits {c : Core} {r : RangeOp} (hs : ∀ o ∈ c.stores, o.id ∉ r.stores) :
    c.stores.any (fun o => decide (o.id ∈ r.stores)) = false := by simpa using hs

section
variable {hw : Hw} {n : Fin 8}

theorem rangeDone_idle (hn : (hw.core n).range = none) : rangeDone n hw = hw := by
  simp only [rangeDone, hn]

variable {r : RangeOp} (hr : (hw.core n).range = some r)
include hr

theorem rangeDone_waits (hs : ∃ o ∈ (hw.core n).stores, o.id ∈ r.stores) : rangeDone n hw = hw := by
  have hany : (hw.core n).stores.any (fun o => decide (o.id ∈ r.stores)) = true := by simpa using hs
  simp only [rangeDone, hr, hany, if_true]

variable (hs : ∀ o ∈ (hw.core n).stores, o.id ∉ r.stores)
include hs

theorem rangeDone_dclean (hop : r.op = 1) : rangeDone n hw = rangeEnd n (hw.at r.start) := by
  simp only [rangeDone, hr, no_store_waits hs, hop, Bool.false_eq_true, if_false]

section
variable {t : Nat} (hop : r.op = 0 ∨ r.op = 2) (ht : r.walkAt = some t)
include hop ht

/-- The walk of DINV and DCLINV has come to its end; the operation ends once the fills that it marked have landed. -/
theorem rangeDone_walk :
    rangeDone n hw =
      let h := walkTo n (t + walkLen r - 1) (hw.at (t + walkLen r))
      if (h.core n).loads.any (markedFill h r) then hw
      else rangeEnd n (h.at ((h.core n).range.elim 0 (fun x => x.fillEnd))) := by
  rcases hop with hop | hop <;>
    simp only [rangeDone, hr, no_store_waits hs, hop, ht, Bool.false_eq_true, if_false, fillEnd_getD]

end

theorem rangeDone_iinv (hop : r.op = 4) :
    rangeDone n hw = rangeEnd n ((hw.at (r.start + 512)).modCore n (fun c => { c with icode := [], ibad := [], isoft := [] })) := by
  simp only [rangeDone, hr, no_store_waits hs, hop, Bool.false_eq_true, if_false]

theorem rangeDone_denied (hop : r.op = 3) (hc : codePlace hw n r = false) :
    rangeDone n hw = rangeEnd n (raiseBy { cls := cACCESS_RANGE, sev := 2, unit := n.val, addr := r.base } (hw.at r.start)) := by
  simp only [rangeDone, hr, no_store_waits hs, hop, hc, Bool.false_eq_true, if_false, Bool.not_false, if_true]

section
variable (hop : r.op = 3) (hc : codePlace hw n r = true)
include hop hc

theorem rangeDone_preloaded {b : BgReq} (hb : bgDone hw (.code n.val) = some b) :
    rangeDone n hw = rangeEnd n (preload n r b.got b.bads (bgDrop (.code n.val) hw)) := by
  simp only [rangeDone, hr, no_store_waits hs, hop, hc, hb, Bool.false_eq_true, if_false, Bool.not_true]

theorem rangeDone_reads (hb : bgDone hw (.code n.val) = none) : rangeDone n hw = hw := by
  simp only [rangeDone, hr, no_store_waits hs, hop, hc, hb, Bool.false_eq_true, if_false, Bool.not_true]

end

end

/-! ### The obligation -/

/-- Settles O22: a GO by the cases of `rangeGo`, the end of an operation by those of `rangeDone`. -/
theorem rangeOperationsStartAndEnd : Obligations.RangeOperationsStartAndEnd := by
  refine ⟨?starts, ?ends, fun n s r hr hs => ?waits, fun n s hn => ?idle⟩
  case starts =>
    intro p hp n u s hr c base len may own ids r h
    have hrow := exec_rangeRows p hp n u s
    have hlt := rangeRows_lt p hp
    refine ⟨fun hm => ?refused, fun hm ho => ?data, fun hm ho => ?empty, fun hm ho hc => ?unread, fun hm ho hc => ?read⟩
    case refused => exact does_byCore hrow hr (rangeGo_refused _ hlt hm)
    case data => exact does_byCore hrow hr (rangeGo_data _ ho hm)
    case empty => exact does_byCore hrow hr (rangeGo_iinv _ ho hm)
    case unread => exact does_byCore hrow hr (rangeGo_ipreload_denied _ ho hm ((codePlace_rangeBusy _ _ _ _).symm.trans hc))
    case read => exact does_byCore hrow hr (rangeGo_ipreload _ ho hm ((codePlace_rangeBusy _ _ _ _).symm.trans hc))
  case ends =>
    intro n s r hr hs past
    refine ⟨fun ho => ?dclean, fun t ho ht => ?walk, fun b ho hc hb => ?preloaded, fun ho hc hb => ?reads, fun ho hc => ?denied,
      fun ho => ?iinv⟩
    case dclean => exact does_of rfl (rangeDone_dclean (hw := s.begun) hr hs ho)
    case walk =>
      have hwalk := rangeDone_walk (hw := s.begun) hr hs ho ht
      refine ⟨fun hm => ?landed, fun hm => ?marked⟩
      case landed => exact does_of rfl (hwalk.trans (if_neg (by simpa using hm)))
      case marked => exact does_of rfl (hwalk.trans (if_pos (by simpa using hm)))
    case preloaded => exact does_of rfl (rangeDone_preloaded (hw := s.begun) hr hs ho hc hb)
    case reads => exact does_of rfl (rangeDone_reads (hw := s.begun) hr hs ho hc hb)
    case denied => exact does_of rfl (rangeDone_denied (hw := s.begun) hr hs ho hc)
    case iinv => exact does_of rfl (rangeDone_iinv (hw := s.begun) hr hs ho)
  case waits => exact does_of rfl (rangeDone_waits (hw := s.begun) hr hs)
  case idle => exact does_of rfl (rangeDone_idle (hw := s.begun) hn)

end Sys2Proof.Machine

/-!
Resets and power states (R210, R211, R213, R314, R464–R475): one lemma per case of each reset's and each request's function.
-/
namespace Sys2Proof.Machine

/-! ### Cold, warm and forced resets (R210, R211, R464–R467) -/

theorem coldWrite_key {v : W32} (hk : fieldOf v 8 8 = 0x5A) (u : Writer) (h : Hw) : coldWrite u v h = coldReset h := if_pos hk

theorem coldWrite_other {v : W32} (hk : fieldOf v 8 8 ≠ 0x5A) (u : Writer) (h : Hw) : coldWrite u v h = refuse u.unit h := if_neg hk

section
variable {h : Hw} (u : Writer)

theorem warmReset_refused (hr : cluState h = 1 ∨ cluState h = 2 ∨ cluState h = 8 ∨ fencedSince h = true) :
    warmReset u h = refuse u.unit h := if_pos hr

theorem forcedReset_refused (hr : cluState h = 1 ∨ cluState h = 2 ∨ fencedSince h = true) : forcedReset u h = refuse u.unit h := if_pos hr

theorem forcedReset_taken (hn : ¬(cluState h = 1 ∨ cluState h = 2 ∨ fencedSince h = true)) : forcedReset u h = hotReset true h := if_neg hn

section
variable (hn : ¬(cluState h = 1 ∨ cluState h = 2 ∨ cluState h = 8 ∨ fencedSince h = true))
include hn

/-- In IDLE or SHELVED a warm reset waits for the exit that it starts. -/
theorem warmReset_waits (hp : pwrState h ≠ 0) : warmReset u h = exitStart { h with boot := { h.boot with warmAfter := true } } :=
  (if_neg hn).trans (if_pos hp)

theorem warmReset_drains (hp : pwrState h = 0) (hd : h.boot.drain = none) : warmReset u h = drainStart h :=
  (if_neg hn).trans ((if_neg (not_not_intro hp)).trans (if_neg (by simp [hd])))

theorem warmReset_draining (hp : pwrState h = 0) (hd : h.boot.drain ≠ none) : warmReset u h = h :=
  (if_neg hn).trans ((if_neg (not_not_intro hp)).trans (if_pos (Option.isSome_iff_ne_none.mpr hd)))

end

end

/-- What a warm or forced reset leaves of the units (R152, R464, R483): nothing under way anywhere, every one of them fresh. -/
theorem hotReset_fresh (f : Bool) (h : Hw) :
    (hotReset f h).beats = [] ∧ (hotReset f h).bg = [] ∧ (∃ t, (hotReset f h).sync = { syncFresh with time := t }) ∧
      (hotReset f h).kc = kcFresh ∧ (hotReset f h).hold = holdFresh ∧ (hotReset f h).cars = Vector.replicate 64 carFresh ∧
      (hotReset f h).tes = Vector.replicate 64 teFresh ∧ (hotReset f h).fw.cmds = [] ∧ (hotReset f h).fw.phase = none ∧
      (hotReset f h).rcd.ringOn = true :=
  ⟨rfl, rfl, ⟨_, rfl⟩, rfl, rfl, rfl, rfl, rfl, rfl, rfl⟩

/-! ### The end of a drain (R210, R211, R314, R468) -/

/-- The hardware once every write of the cores that `p` names is done. -/
def drainedOf (p : Nat → Bool) (h : Hw) : Hw := sendsDue (settle (drainEnd p h) (h.at (drainEnd p h)))

/-- A warm reset requested in cycle `t` does not take effect: its drain takes more than 2 µs, a send's line waits, or a descriptor is in
flight (R210, R314). -/
def DrainWaits (h : Hw) (t : Nat) : Prop :=
  t + drainLimit h < drainEnd (fun _ => true) h ∨ sendsWait (fun _ => true) (drainedOf (fun _ => true) h) = true ∨
    ∃ k f, k < 64 ∧ f ∈ (h.te k).flights ∧ f.phase = 0

/-- A descriptor in flight, as the drain looks for one. -/
theorem some_flight_iff (h : Hw) :
    (!(List.range 64).all (fun k => (h.te k).flights.all (fun f => decide (f.phase ≠ 0)))) = true ↔
      ∃ k f, k < 64 ∧ f ∈ (h.te k).flights ∧ f.phase = 0 := by
  simp

section
variable {h : Hw}

theorem warmEffect_idle (hd : h.boot.drain = none) : warmEffect h = h := by
  rw [warmEffect, hd]

theorem warmTimeout_idle (hd : h.boot.drain = none) : warmTimeout h = h := if_neg (by simp [hd])

variable {t : Nat} (hd : h.boot.drain = some t)
include hd

theorem warmTimeout_forced : warmTimeout h = hotReset true h := if_pos (by simp [hd])

theorem warmEffect_waits (hw : DrainWaits h t) : warmEffect h = h := by
  rw [warmEffect, hd]
  exact if_pos (hw.imp_right (Or.imp_right (some_flight_iff h).mpr))

theorem warmEffect_resets (hw : ¬DrainWaits h t) : warmEffect h = hotReset false (drainedOf (fun _ => true) h) := by
  rw [warmEffect, hd]
  exact if_neg (mt (Or.imp_right (Or.imp_right (some_flight_iff h).mp)) hw)

end

section
variable {n : Fin 8} {h : Hw}

theorem coreRst_refused (u : Writer) (hr : coreOn h n.val = false ∨ atRest (h.core n) = false ∨ (h.core n).range ≠ none) :
    coreRst n u h = refuse u.unit h :=
  if_pos (by simpa [Option.isSome_iff_ne_none] using hr)

section
variable (u : Writer) (hon : coreOn h n.val = true) (hrest : atRest (h.core n) = true) (hrange : (h.core n).range = none)
include hon hrest hrange

theorem coreRst_requested (hb : nbit (h.reg 0x10000C).toNat (16 + n.val) = false) :
    coreRst n u h =
      { h.orReg 0x10000C (2 ^ (16 + n.val)) with boot := { h.boot with coreReq := h.boot.coreReq ++ [(n.val, h.now)] } } :=
  (if_neg (by simp [hon, hrest, hrange])).trans (if_neg (by simp [hb]))

theorem coreRst_under_way (hb : nbit (h.reg 0x10000C).toNat (16 + n.val) = true) : coreRst n u h = h :=
  (if_neg (by simp [hon, hrest, hrange])).trans (if_pos hb)

end

/-- Core `n` is reset and its request is done. -/
def coreResetEnd (n : Fin 8) (h : Hw) : Hw :=
  let h1 := (coreReset n h).clrReg 0x10000C (2 ^ (16 + n.val))
  { h1 with boot := { h1.boot with coreReq := h1.boot.coreReq.filter (fun x => decide (x.1 ≠ n.val)) } }

/-- The cycle by which the buffers of core `n` are to be empty: 2 µs after the request (R210). -/
def coreResetLimit (h : Hw) (n : Fin 8) : Nat := coreReqAt h n.val + drainLimit h

/-- The buffers of core `n` are empty in time. -/
abbrev CoreDrains (n : Fin 8) (h : Hw) : Prop :=
  drainEnd (fun m => m == n.val) h ≤ coreResetLimit h n ∧ !sendsWait (fun m => m == n.val) (drainedOf (fun m => m == n.val) h)

theorem coreRstDone_eq (n : Fin 8) (h : Hw) :
    coreRstDone n h =
      if !nbit (h.reg 0x10000C).toNat (16 + n.val) then h
      else if CoreDrains n h then coreResetEnd n (drainedOf (fun m => m == n.val) h)
      else if coreResetLimit h n ≤ h.now then coreResetEnd n (countLost n (settle h.now h)) else h := by
  unfold coreRstDone
  dsimp only [drainedOf]
  rfl

theorem coreRstDone_idle (hb : nbit (h.reg 0x10000C).toNat (16 + n.val) = false) : coreRstDone n h = h := by
  rw [coreRstDone_eq, if_pos (by rw [hb]; rfl)]

section
variable (hb : nbit (h.reg 0x10000C).toNat (16 + n.val) = true)
include hb

theorem coreRstDone_resets (hd : CoreDrains n h) : coreRstDone n h = coreResetEnd n (drainedOf (fun m => m == n.val) h) := by
  rw [coreRstDone_eq, if_neg (by simp [hb]), if_pos hd]

theorem coreRstDone_forced (hd : ¬CoreDrains n h) (hl : coreResetLimit h n ≤ h.now) :
    coreRstDone n h = coreResetEnd n (countLost n (settle h.now h)) := by
  rw [coreRstDone_eq, if_neg (by simp [hb]), if_neg hd, if_pos hl]

theorem coreRstDone_waits (hd : ¬CoreDrains n h) (hl : h.now < coreResetLimit h n) : coreRstDone n h = h := by
  rw [coreRstDone_eq, if_neg (by simp [hb]), if_neg hd, if_neg (Nat.not_le.mpr hl)]

end

end

/-! ### Requests for a power state (R470–R475) -/

section
variable {h : Hw} {k : Nat} (u : Writer)

/-- The hardware as a request for the power state `k` finds it, with the request shown. -/
def pwrAsked (k : Nat) (h : Hw) : Hw := settle h.now (h.setFld 0x200030 0 2 k)

/-- A request, a change or an exit is under way, or a reset, or the cluster is not ACTIVE. -/
def PwrBusy (h : Hw) : Prop :=
  nbit (h.reg 0x200034).toNat 2 = true ∨ nbit (h.reg 0x200034).toNat 3 = true ∨ h.boot.drain ≠ none ∨ pwrState h ≠ 0

theorem pwrDown_refused (hw : pwrRefuse (pwrAsked k h) k ≠ 0) :
    pwrDown k u h = pwrNo u (pwrRefuse (pwrAsked k h) k) (pwrAsked k h) := if_pos hw

section
variable (hw : pwrRefuse (pwrAsked k h) k = 0)
include hw

theorem pwrDown_busy (hb : PwrBusy (pwrAsked k h)) : pwrDown k u h = pwrNo u 6 (pwrAsked k h) :=
  (if_neg (not_not_intro hw)).trans (if_pos (by simpa [pwrAsked, PwrBusy, Option.isSome_iff_ne_none, or_assoc] using hb))

theorem pwrDown_taken (hb : ¬PwrBusy (pwrAsked k h)) :
    pwrDown k u h = { pwrAsked k h with boot := { (pwrAsked k h).boot with pwrReq := some k } }.setFld 0x200034 2 1 1 :=
  (if_neg (not_not_intro hw)).trans (if_neg (by simpa [pwrAsked, PwrBusy, Option.isSome_iff_ne_none, or_assoc] using hb))

end

theorem pwrActive_refused (hr : pwrState (h.setFld 0x200030 0 2 0) = 0 ∨ h.boot.drain ≠ none) :
    pwrActive u h = pwrNo u 6 (h.setFld 0x200030 0 2 0) := if_pos (hr.imp_right Option.isSome_iff_ne_none.mpr)

theorem pwrActive_exits (hp : pwrState (h.setFld 0x200030 0 2 0) ≠ 0) (hd : h.boot.drain = none) :
    pwrActive u h = exitStart (h.setFld 0x200030 0 2 0) := if_neg (by simp [hp, hd])

end

/-! ### A power state takes effect, and ends (R472–R475) -/

section
variable {h : Hw}

theorem powerEnter_idle (hn : h.boot.pwrReq = none) : powerEnter h = h := by
  rw [powerEnter, hn]

section
variable {k : Nat} (hk : h.boot.pwrReq = some k)
include hk

theorem powerHolds_of_request : powerHolds h = decide (k = 3 ∨ pwrRefuse h k = 0) := by
  rw [powerHolds, hk]

/-- A request whose conditions have ceased to hold lapses with its reason (R472). -/
theorem powerEnter_lapses (h3 : k ≠ 3) (hw : pwrRefuse h k ≠ 0) : powerEnter h = pwrDone (h.setFld 0x200034 8 8 (pwrRefuse h k)) := by
  have hno : powerHolds h = false := by simp [powerHolds_of_request hk, h3, hw]
  simp only [powerEnter, powerLapse, hk, hno, Bool.not_false, Bool.false_eq_true, if_true, if_false]

theorem powerEnter_off (h3 : k = 3) : powerEnter h = pwrDone (h.orReg 0x200034 8) := by
  have hyes : powerHolds h = true := by simp [powerHolds_of_request hk, h3]
  simp only [powerEnter, hk, hyes, h3, Bool.not_true, Bool.false_eq_true, if_true, if_false]

section
variable (hw : pwrRefuse h k = 0)
include hw

theorem powerEnter_to_idle (h1 : k = 1) : powerEnter h = pwrDone (h.setFld 0x200034 0 2 1) := by
  have hyes : powerHolds h = true := by simp [powerHolds_of_request hk, hw]
  simp [powerEnter, hk, hyes, h1]

/-- SHELVED waits for KC's WFI (R473). -/
theorem powerEnter_waits (h2 : k = 2) (hon : h.kc.on = true) (hh : h.kc.halted = false) (hwfi : h.kc.wfi = false) : powerEnter h = h := by
  have hyes : powerHolds h = true := by simp [powerHolds_of_request hk, hw]
  simp [powerEnter, hk, hyes, h2, hon, hh, hwfi]

theorem powerEnter_to_shelved (h2 : k = 2) (hq : h.kc.on = false ∨ h.kc.halted = true ∨ h.kc.wfi = true) :
    powerEnter h = pwrDone (((List.finRange 8).foldl (fun h i => coreReset i h) h).setFld 0x200034 0 2 2) := by
  have hyes : powerHolds h = true := by simp [powerHolds_of_request hk, hw]
  have hquiet : ¬(h.kc.on = true ∧ (!h.kc.halted) = true ∧ (!h.kc.wfi) = true) := by
    rcases hq with hq | hq | hq <;> simp [hq]
  subst h2
  simp only [powerEnter, hk, hyes, hquiet, Bool.not_true, Bool.false_eq_true, if_false, Nat.reduceEqDiff]

end

end

theorem idleExit_ends (hp : pwrState h = 1) (hx : h.boot.exitReq.isSome = true) : idleExit h = exitEnd h :=
  if_neg (by simp [hp, Option.isNone_eq_false_iff.mpr hx])

theorem idleExit_idle (hx : h.boot.exitReq = none) : idleExit h = h := if_pos (.inr (by rw [hx]; rfl))

theorem shelvedExit_ends (hp : pwrState h = 2) (hx : h.boot.exitReq.isSome = true) (hf : h.frame % 520 = 0) :
    shelvedExit h = exitEnd (h.modKc (fun k => { k with wfi := false })) :=
  if_neg (by simp [hp, hf, Option.isNone_eq_false_iff.mpr hx])

theorem shelvedExit_idle (hx : h.boot.exitReq = none) : shelvedExit h = h := if_pos (.inr (.inl (by rw [hx]; rfl)))

/-- The hardware ACTIVE again, its exit done (R474). -/
def exited (h : Hw) : Hw :=
  poolRequest ({ h with boot := { h.boot with exitReq := none } }.setReg 0x200034 (h.reg 0x200034 &&& 0xFF00#32))

theorem exitEnd_active (hw : h.boot.warmAfter = false) : exitEnd h = exited h := if_neg (by simp [hw])

theorem exitEnd_drains (hw : h.boot.warmAfter = true) :
    exitEnd h = warmEffect (drainStart { exited h with boot := { (exited h).boot with warmAfter := false } }) := if_pos hw

end

/-! ### The obligation -/

/-- Settles O57: each command by the lemma of its case. Which of R470's reasons comes first is the model's choice (log entry 52). -/
theorem resetsAndPowerStates : Obligations.ResetsAndPowerStates := by
  intro n u v s st idleTe
  refine ⟨fun hr hk => ?cold, fun hr hk => ?coldOther, fun hr hc => ?warmRefused, fun hr h1 h2 h8 hf => ?warm, fun t hd => ?drain,
    fun hd => ⟨?effectIdle, ?timeoutIdle⟩, fun hr hc => ?forcedRefused, fun hr h1 h2 hf => ?forced, hotReset_fresh,
    fun hr hon hrest hrange => ⟨fun hb => ?coreRequested, fun hb => ?coreUnderWay⟩, fun hr hc => ?coreRefused, ?coreDone,
    fun k hk hr => ?request, fun hr => ⟨fun hp => ?activeRefused, fun hp hd => ?active⟩, fun k hk => ?enter, fun hn => ?enterIdle,
    fun hp hx => ?idleExits, fun hp hx hf => ?shelvedExits, fun hx => ⟨?noIdleExit, ?noShelvedExit⟩,
    fun h => ⟨exitEnd_active, exitEnd_drains⟩⟩
  case cold => exact does_by rfl hr (coldWrite_key hk u _)
  case coldOther => exact does_by rfl hr (coldWrite_other hk u _)
  case warmRefused => exact does_by rfl hr (warmReset_refused u hc)
  case warm =>
    have hn : ¬(cluState s.begun = 1 ∨ cluState s.begun = 2 ∨ cluState s.begun = 8 ∨ fencedSince s.begun = true) := by
      rintro (h | h | h | h)
      · exact h1 h
      · exact h2 h
      · exact h8 h
      · exact Bool.noConfusion (hf.symm.trans h)
    exact ⟨fun hp => does_by rfl hr (warmReset_waits u hn hp), fun hp hd => does_by rfl hr (warmReset_drains u hn hp hd),
      fun hp hd => does_by rfl hr (warmReset_draining u hn hp hd)⟩
  case drain =>
    intro all e h
    have hd' : s.begun.boot.drain = some t := hd
    refine ⟨fun he hsend hte => ?ends, fun hw => ?goes_on, does_of rfl (warmTimeout_forced hd')⟩
    case ends =>
      refine does_of rfl (warmEffect_resets hd' ?_)
      rintro (hlate | hsends | hflight)
      · exact absurd hlate (Nat.not_lt.mpr he)
      · exact Bool.noConfusion (hsend.symm.trans hsends)
      · obtain ⟨k, f, hk, hf, hp⟩ := hflight
        exact hte k hk f hf hp
    case goes_on => exact does_of rfl (warmEffect_waits hd' hw)
  case effectIdle => exact does_of rfl (warmEffect_idle (h := s.begun) hd)
  case timeoutIdle => exact does_of rfl (warmTimeout_idle (h := s.begun) hd)
  case forcedRefused => exact does_by rfl hr (forcedReset_refused u hc)
  case forced =>
    refine does_by rfl hr (forcedReset_taken u ?_)
    rintro (h | h | h)
    · exact h1 h
    · exact h2 h
    · exact Bool.noConfusion (hf.symm.trans h)
  case coreRequested => exact does_by rfl hr (coreRst_requested u hon hrest hrange hb)
  case coreUnderWay => exact does_by rfl hr (coreRst_under_way u hon hrest hrange hb)
  case coreRefused => exact does_by rfl hr (coreRst_refused u hc)
  case coreDone =>
    intro own e h lim reset left
    have hleft : CoreDrains n s.begun ↔ left := and_congr_right' (by rw [Bool.not_eq_true']; rfl)
    have hdrained : drainedOf (fun m => m == n.val) s.begun = h := rfl
    have hreset : coreResetEnd n = reset := rfl
    rw [← hdrained, ← hreset]
    exact ⟨fun hb => ⟨fun hl => does_of rfl (coreRstDone_resets (h := s.begun) hb (hleft.mpr hl)),
        fun hl hlim => does_of rfl (coreRstDone_forced (h := s.begun) hb (mt hleft.mp hl) hlim),
        fun hl hlim => does_of rfl (coreRstDone_waits (h := s.begun) hb (mt hleft.mp hl) hlim)⟩,
      fun hb => does_of rfl (coreRstDone_idle (h := s.begun) hb)⟩
  case request =>
    intro cmd h busy
    have hcmd : exec cmd s = run (byWriter u (pwrDown k u)) s := by
      rcases hk with rfl | rfl | rfl <;> rfl
    exact ⟨fun hw => does_by hcmd hr (pwrDown_refused u hw), fun hw hb => does_by hcmd hr (pwrDown_busy u hw hb),
      fun hw hb => does_by hcmd hr (pwrDown_taken u hw hb)⟩
  case activeRefused => exact does_by rfl hr (pwrActive_refused u hp)
  case active => exact does_by rfl hr (pwrActive_exits u hp hd)
  case enter =>
    intro done why
    exact ⟨fun h3 => does_of rfl (powerEnter_off (h := s.begun) hk h3), fun h3 hw => does_of rfl (powerEnter_lapses (h := s.begun) hk h3 hw),
      fun hw => ⟨fun h1 => does_of rfl (powerEnter_to_idle (h := s.begun) hk hw h1),
        fun h2 hon hh hwfi => does_of rfl (powerEnter_waits (h := s.begun) hk hw h2 hon hh hwfi),
        fun h2 hq => does_of rfl (powerEnter_to_shelved (h := s.begun) hk hw h2 hq)⟩⟩
  case enterIdle => exact does_of rfl (powerEnter_idle (h := s.begun) hn)
  case idleExits => exact does_of rfl (idleExit_ends (h := s.begun) hp hx)
  case shelvedExits => exact does_of rfl (shelvedExit_ends (h := s.begun) hp hx hf)
  case noIdleExit => exact does_of rfl (idleExit_idle (h := s.begun) hx)
  case noShelvedExit => exact does_of rfl (shelvedExit_idle (h := s.begun) hx)

end Sys2Proof.Machine

/-!
How a carrel engine comes to its next record, issues it, and stops with a fault at its issue (R229–R238, R244, R247): one lemma per case of
`withCar`, `carEnter` and of each command's own part.
-/
namespace Sys2Proof.Machine

/-! ### Carrel engines -/

theorem Hw.car_eq_getElem (h : Hw) (c : Fin 64) : h.car c.val = h.cars[c.val] := by
  simp [Hw.car, Vector.getD]

/-- Engine `c` after a change of engine `c`. -/
@[simp] theorem Hw.modCar_car (h : Hw) (c : Fin 64) (f : Car → Car) : (h.modCar c.val f).car c.val = f (h.car c.val) := by
  rw [Hw.car_eq_getElem]
  simp [Hw.modCar]

/-- Another engine after a change of engine `g`. -/
theorem Hw.modCar_car_ne (h : Hw) {g : Nat} {c : Fin 64} (hg : g ≠ c.val) (f : Car → Car) : (h.modCar g f).car c.val = h.car c.val := by
  rw [Hw.car_eq_getElem, Hw.car_eq_getElem]
  exact Vector.getElem_setIfInBounds_ne c.isLt hg

/-- What a change leaves of every engine it leaves of each. -/
theorem Hw.modCar_keeps {α : Type} (q : Car → α) {f : Car → Car} (hq : ∀ e, q (f e) = q e) (h : Hw) (g : Nat) (c : Fin 64) :
    q ((h.modCar g f).car c.val) = q (h.car c.val) := by
  by_cases hg : g = c.val
  · rw [hg, Hw.modCar_car, hq]
  · rw [Hw.modCar_car_ne h hg]

/-- An engine but for the class of its last fault. -/
def Car.classless (e : Car) : Car := { e with lastClass := 0 }

theorem pc_of_classless {e x : Car} (h : e.classless = x.classless) : e.pc = x.pc :=
  (congrArg Car.pc h : e.classless.pc = x.classless.pc)

theorem car_of_cars {a b : Hw} (h : a.cars = b.cars) (c : Nat) : a.car c = b.car c := by rw [Hw.car, Hw.car, h]

theorem raise_cars (r : FaultRec) (h : Hw) : (raise r h).cars = h.cars := by
  unfold raise
  dsimp only
  repeat' split
  all_goals rfl

/-- A record that a unit raises changes at most the class of an engine's last fault. -/
theorem raiseBy_car (r : FaultRec) (h : Hw) (c : Fin 64) : ((raiseBy r h).car c.val).classless = (h.car c.val).classless := by
  have hraise : (raise r h).car c.val = h.car c.val := car_of_cars (raise_cars r h) _
  unfold raiseBy
  split
  · rw [car_of_cars (Hw.modCore_cars _ _ _), hraise]
  split
  · next hu =>
    rw [← hraise]
    simp only [Hw.car_eq_getElem]
    by_cases hc : r.unit - 0x40 = c.val
    · simp only [Vector.getElem_set, hc, if_true]
      rfl
    · simp only [Vector.getElem_set_ne _ _ hc]
  · rw [hraise]

/-- What two checker copies find changes at most the class of an engine's last fault (R276). -/
theorem resolveCopies_car (unit kind pc : Nat) (va vb : Bool) (fa fb : Nat) (ba bb : Bool) (h : Hw) (c : Fin 64) :
    ((resolveCopies unit kind pc va vb fa fb ba bb h).2.car c.val).classless = (h.car c.val).classless := by
  unfold resolveCopies
  dsimp only
  repeat' split
  · rfl
  · rfl
  · rfl
  all_goals
    simp only [Hw.car, showPort, Hw.setFld_cars, Hw.orReg_cars, Hw.bump_cars]
    exact raiseBy_car _ h c

/-- So does the check of the scratch operands of a command (R233). -/
theorem scratchEarly_car (c t0 : Nat) (r : CarRec) (h : Hw) (k : Fin 64) :
    ((scratchEarly c t0 r h).2.car k.val).classless = (h.car k.val).classless := by
  rw [scratchEarly]
  refine List.foldlRecOn (motive := fun x : Nat × Hw => (x.2.car k.val).classless = (h.car k.val).classless) _ _ rfl (fun x hx l _ => ?_)
  exact (resolveCopies_car _ _ _ _ _ _ _ _ _ x.2 k).trans hx

theorem scratchEarly_pc {c t0 n : Nat} {r : CarRec} {h g : Hw} (he : scratchEarly c t0 r h = (n, g)) (k : Fin 64) :
    (g.car k.val).pc = (h.car k.val).pc := by
  have hk := scratchEarly_car c t0 r h k
  rw [he] at hk
  exact pc_of_classless hk

/-! ### Coming to a record (R229, R230, R235) -/

section
variable {c : Fin 64} {r : CarRec} {s : State} {k : Nat → Hw → Hw}

/-- What an engine does with the record that it has come to, in the order of R235. -/
theorem withCar_of_comes (hc : CarComesTo s c r) (ops : List Nat) :
    withCar c ops r s.begun k =
      if carIllegal r then carIssueFault c.val cILLEGAL_INSTR (carTime s c r) 0 0 (carRead s c r)
      else if crOp r ∉ ops then s.begun
      else if carMisaligned r then carIssueFault c.val cACCESS_ALIGN (carTime s c r) 0 0 (carRead s c r)
      else if carRange (carRead s c r) r then carIssueFault c.val cACCESS_RANGE (carTime s c r) 0 0 (carRead s c r)
      else k (carTime s c r) (carRead s c r) := by
  obtain ⟨hrun, hon, hfree, hmeter, hrec, hruns, hgood⟩ := hc
  have hgoes : ¬((s.begun.car c.val).st ≠ .run ∨ (s.begun.car c.val).ended = true ∨ s.begun.hold.held = true) := by
    rintro (h | h | h)
    · exact h hrun
    · exact Bool.noConfusion (hon.symm.trans h)
    · exact Bool.noConfusion (hfree.symm.trans h)
  have hmeter' : ¬meterStops (carBegun s c r) (0x40 + c.val) (2 * carTime s c r) = true := Bool.eq_false_iff.mp hmeter
  have hstays : ¬(carRecAt (carBegun s c r) c.val (s.begun.car c.val).pc ≠ r ∨ ((carBegun s c r).car c.val).st ≠ .run) := by
    rintro (h | h)
    · exact h hrec
    · exact h hruns
  have hfetch : carFetch c.val (carTime s c r) (carBegun s c r) = fun k => k (carRead s c r) := by
    funext k
    simp only [carFetch, hgood]
    rfl
  rw [withCar, if_neg hgoes]
  refine (if_neg hmeter').trans ((if_neg hstays).trans ?_)
  exact congrFun hfetch _

/-- An engine that R235 lets issue its record. -/
theorem withCar_of_issues {op : Nat} (hi : CarIssues s c op r) : withCar c [op] r s.begun k = k (carTime s c r) (carRead s c r) := by
  obtain ⟨hc, hop, hill, hmis, hran⟩ := hi
  simp only [withCar_of_comes hc, hop, hill, hmis, hran, List.mem_singleton, not_true, Bool.false_eq_true, if_false]

theorem withCar_illegal (hc : CarComesTo s c r) (h : carIllegal r = true) (ops : List Nat) :
    withCar c ops r s.begun k = carIssueFault c.val cILLEGAL_INSTR (carTime s c r) 0 0 (carRead s c r) := by
  rw [withCar_of_comes hc, if_pos h]

section
variable {op : Nat} (hc : CarComesTo s c r) (hill : carIllegal r = false) (hop : crOp r = op)
include hc hill hop

theorem withCar_misaligned (h : carMisaligned r = true) :
    withCar c [op] r s.begun k = carIssueFault c.val cACCESS_ALIGN (carTime s c r) 0 0 (carRead s c r) := by
  simp only [withCar_of_comes hc, hop, hill, h, List.mem_singleton, not_true, Bool.false_eq_true, if_false, if_true]

theorem withCar_out_of_range (hmis : carMisaligned r = false) (h : carRange (carRead s c r) r = true) :
    withCar c [op] r s.begun k = carIssueFault c.val cACCESS_RANGE (carTime s c r) 0 0 (carRead s c r) := by
  simp only [withCar_of_comes hc, hop, hill, hmis, h, List.mem_singleton, not_true, Bool.false_eq_true, if_false, if_true]

end

end

/-! ### Entering a command (R231–R233) -/

section
variable {c : Fin 64} {t : Nat} {r : CarRec} {g : Hw} {k : Hw → Hw}

/-- Nothing stands against the command: it is entered. -/
theorem carEnter_of_fits {op : CarOp} {h : Hw} (hf : CarFits g c.val t r op h) : carEnter c.val t r g k = k (carEntered h c.val t op) := by
  obtain ⟨x, hearly, hbusy, rfl, hlist, hspan, hhand⟩ := hf
  have hpc := scratchEarly_pc hearly c
  have hop : carOpOf x c.val t r = ⟨x.nid, (g.car c.val).pc, r, t + 24, carEndOf c.val t r, carEndOf c.val t r + carLat r, false,
      isList r && !listKnown x c.val r, none⟩ := by rw [carOpOf, hpc]
  rw [hop] at hspan ⊢
  rw [carEndOf] at hbusy hspan hhand
  simp only [carEnter, hearly, hbusy, hlist, hspan, hhand, Nat.lt_irrefl, Bool.false_eq_true, if_false]
  rfl

/-- An operand that has not landed at T0 (R233). -/
theorem carEnter_early {early : Nat} {h : Hw} (he : scratchEarly c.val (t + 24) r g = (early, h)) (hpos : 0 < early) :
    carEnter c.val t r g k = carFault c.val
      { cls := cSCHED_LATE, sev := 2, unit := 0x40 + c.val, instr := (g.car c.val).pc, exp := frameOf (2 * (t + 24 + early)),
        act := frameOf (2 * (t + 24)), syn := 0x50000000 + min early 255 } h := by
  simp only [carEnter, he, if_pos hpos]

/-- A resource that an earlier command still uses (R231). -/
theorem carEnter_busy {x : Nat} {h : Hw} (he : scratchEarly c.val (t + 24) r g = (0, h))
    (hb : busyResource (g.car c.val) r (t + 24) (carEndOf c.val t r) = some x) :
    carEnter c.val t r g k = carIssueFault c.val cSCHED_SLOT_CONFLICT t 0 (0x32000000 + x) h := by
  rw [carEndOf] at hb
  simp only [carEnter, he, hb, Nat.lt_irrefl, if_false]

end

/-- A fault of an engine leaves the commands of every engine. -/
theorem carFault_ops (c : Nat) (r : FaultRec) (h : Hw) (k : Fin 64) : ((carFault c r h).car k.val).ops = (h.car k.val).ops := by
  have hraise : (raise { r with unit := 0x40 + c } h).car k.val = h.car k.val := car_of_cars (raise_cars _ h) _
  rw [← hraise]
  refine Hw.modCar_keeps Car.ops (fun e => ?_) _ c k
  rfl

/-! ### The broadcast load (R247) -/

/-- T0 and record of an engine's commands. -/
def Car.issuedAs (e : Car) : List (Nat × CarRec) := e.ops.map (fun o => (o.t0, o.cmd))

/-- A beat of another unit takes beats of carrel commands; the commands stay. -/
theorem takeSpan_issuedAs (h : Hw) (b : Beat) (c : Fin 64) : ((takeSpan h b).car c.val).issuedAs = (h.car c.val).issuedAs := by
  rw [takeSpan]
  split
  · rfl
  · refine Hw.modCar_keeps Car.issuedAs (fun e => ?_) h _ c
    rw [Car.issuedAs, Car.issuedAs, List.map_map]
    refine List.map_congr_left (fun o _ => ?_)
    dsimp only [Function.comp]
    split <;> split <;> rfl

theorem placeBeats_issuedAs (bs : List Beat) (h : Hw) (c : Fin 64) :
    ((placeBeats bs h).car c.val).issuedAs = (h.car c.val).issuedAs := by
  rw [placeBeats]
  exact List.foldlRecOn (motive := fun x : Hw => (x.car c.val).issuedAs = (h.car c.val).issuedAs) _ _ rfl
    (fun x hx b _ => (takeSpan_issuedAs x b c).trans hx)

/-- The engine has in flight what it has entered. -/
theorem carEntered_issuedAs (h : Hw) (c : Fin 64) (t : Nat) (op : CarOp) :
    ((carEntered h c.val t op).car c.val).issuedAs = (h.car c.val).issuedAs ++ [(op.t0, op.cmd)] := by
  rw [carEntered, placeBeats_issuedAs, Hw.modCar_car]
  simp only [Car.issuedAs, List.map_append, List.map_cons, List.map_nil]
  rfl

/-- An engine has issued, in BCLK `t`, a broadcast load with the B, S and N of `r`. -/
def hasLdb (h : Hw) (c t : Nat) (r : CarRec) : Bool := (h.car c).ops.any (fun o => decide (o.t0 = t + 24) && ldbSame o.cmd r)

theorem hasLdb_of_entered {h : Hw} {c : Fin 64} {t : Nat} {r : CarRec} {op : CarOp} (ht : op.t0 = t + 24) (hr : op.cmd = r)
    (hop : crOp r = 0x11) : hasLdb (carEntered h c.val t op) c.val t r = true := by
  have hmem : (t + 24, r) ∈ ((carEntered h c.val t op).car c.val).issuedAs := by
    rw [carEntered_issuedAs, ht, hr]
    exact List.mem_append_right _ (List.mem_singleton_self _)
  obtain ⟨o, ho, heq⟩ := List.mem_map.mp hmem
  obtain ⟨h0, hcmd⟩ := Prod.mk.inj heq
  refine List.any_eq_true.mpr ⟨o, ho, ?_⟩
  simp only [h0, hcmd, ldbSame, hop, and_self, decide_true, Bool.and_self]

theorem hasLdb_of_none {h : Hw} {c t : Nat} {r : CarRec} (hn : ∀ o ∈ (h.car c).ops, o.t0 ≠ t + 24) : hasLdb h c t r = false := by
  refine List.any_eq_false.mpr (fun o ho => ?_)
  simp only [hn o ho, decide_false, Bool.false_and, Bool.false_eq_true, not_false_iff]

/-- The fault of a broadcast load that its carrels do not agree on. -/
def ldbFault (t : Nat) : FaultRec :=
  { cls := cSCHED_SLOT_CONFLICT, sev := 2, unit := 0, exp := frameOf (2 * t), act := frameOf (2 * t), syn := 0x32000005 }

/-- What a broadcast load whose carrels do not agree takes away from engine `k` of what it has issued in BCLK `t`. -/
def ldbDrop (t : Nat) (r : CarRec) (h : Hw) (k : Nat) : Hw :=
  match (h.car k).ops.find? (fun o => decide (o.t0 = t + 24) && ldbSame o.cmd r) with
  | some o => carAbort k o (ldbFault t) h
  | none => h

theorem ldbDrop_none {h : Hw} {k t : Nat} {r : CarRec} (hn : hasLdb h k t r = false) : ldbDrop t r h k = h := by
  have hfind : (h.car k).ops.find? (fun o => decide (o.t0 = t + 24) && ldbSame o.cmd r) = none :=
    List.find?_eq_none.mpr (List.any_eq_false.mp hn)
  rw [ldbDrop, hfind]

/-- Where no engine has issued such a load there is nothing to take away. -/
theorem foldl_ldbDrop_none {h : Hw} {t : Nat} {r : CarRec} (hn : ∀ k, k < 64 → hasLdb h k t r = false) :
    (List.range 64).foldl (ldbDrop t r) h = h :=
  List.foldlRecOn (motive := fun x => x = h) _ _ rfl
    (fun x hx k hk => by rw [hx, ldbDrop_none (hn k (List.mem_range.mp hk))])

section
variable {c : Fin 64} {r : CarRec} {s : State} (hi : CarIssues s c 0x11 r)
include hi

/-- The engine enters its load or stops; where it has entered none, those that have perform nothing of theirs. -/
theorem carLdb_of_issues :
    carLdb c r s.begun =
      let h := if ldbAgree (carRead s c r) (carTime s c r) r then carEnter c.val (carTime s c r) r (carRead s c r) id
        else carIssueFault c.val cSCHED_SLOT_CONFLICT (carTime s c r) 0 0x32000005 (carRead s c r)
      if hasLdb h c.val (carTime s c r) r then h else (List.range 64).foldl (ldbDrop (carTime s c r) r) h := by
  rw [carLdb, withCar_of_issues hi]
  rfl

theorem carLdb_agrees {op : CarOp} {h : Hw} (ha : ldbAgree (carRead s c r) (carTime s c r) r = true)
    (hf : CarFits (carRead s c r) c.val (carTime s c r) r op h) : carLdb c r s.begun = carEntered h c.val (carTime s c r) op := by
  have hop : op.t0 = carTime s c r + 24 ∧ op.cmd = r := by
    obtain ⟨_, _, _, rfl, _⟩ := hf
    exact ⟨rfl, rfl⟩
  obtain ⟨ht, hr⟩ := hop
  have hentered := carEnter_of_fits (k := id) hf
  have hhas := hasLdb_of_entered (h := h) (c := c) ht hr hi.2.1
  simp only [carLdb_of_issues hi, ha, if_true, hentered, id, hhas]

/-- The carrels do not agree, and none of them has issued: this engine stops, and nothing else. -/
theorem carLdb_disagrees (ha : ldbAgree (carRead s c r) (carTime s c r) r = false)
    (hn : ∀ k, k < 64 → ∀ o ∈ ((carRead s c r).car k).ops, o.t0 ≠ carTime s c r + 24) :
    carLdb c r s.begun = carIssueFault c.val cSCHED_SLOT_CONFLICT (carTime s c r) 0 0x32000005 (carRead s c r) := by
  have hnone : ∀ k, k < 64 →
      hasLdb (carIssueFault c.val cSCHED_SLOT_CONFLICT (carTime s c r) 0 0x32000005 (carRead s c r)) k (carTime s c r) r = false := by
    intro k hk
    refine hasLdb_of_none ?_
    rw [carIssueFault, carFault_ops c.val _ _ ⟨k, hk⟩]
    exact hn k hk
  simp only [carLdb_of_issues hi, ha, Bool.false_eq_true, if_false, hnone c.val c.isLt, foldl_ldbDrop_none hnone]

end

/-! ### The commands -/

/-- The commands of `carRows` are those that `carCmd` performs. -/
theorem exec_carRows : ∀ p ∈ carRows, ∀ (c : Fin 64) (r : CarRec) (s : State), exec (p.1 c r) s = run (carCmd p.2 c r) s := by
  simp only [carRows, List.forall_mem_cons, List.not_mem_nil, false_implies, implies_true, and_true]
  and_intros <;> exact fun _ _ _ => rfl

section
variable {c : Fin 64} {r : CarRec} {s : State}

theorem carCmd_of_issues {op : Nat} (hi : CarIssues s c op r) :
    carCmd op c r s.begun = carEnter c.val (carTime s c r) r (carRead s c r) id := withCar_of_issues hi

theorem carSig_signals {op : CarOp} {h : Hw} (hi : CarIssues s c 0x18 r) (hsem : semOn (carRead s c r) (crP1 r) = true)
    (hf : CarFits (carRead s c r) c.val (carTime s c r) r op h) :
    carSig c r s.begun = signalAll (crP1 r) (crP0 r) (0x40 + c.val) 0 0 (2 * (carTime s c r + 24) + 8)
      (carEntered h c.val (carTime s c r) op) := by
  simp only [carSig, withCar_of_issues hi, hsem, Bool.not_true, Bool.false_eq_true, if_false, carEnter_of_fits hf]

theorem carSig_unallocated (hi : CarIssues s c 0x18 r) (hsem : semOn (carRead s c r) (crP1 r) = false) :
    carSig c r s.begun = carIssueFault c.val cACCESS_RANGE (carTime s c r) 0 (crP1 r) (carRead s c r) := by
  simp only [carSig, withCar_of_issues hi, hsem, Bool.not_false, if_true]

theorem carSwt_waits (hi : CarIssues s c 0x19 r) (hsem : semOn (carRead s c r) (crP1 r) = true) :
    carSwt c r s.begun = (carRead s c r).modCar c.val (fun e => { e with
      st := .wait
      wait := some ⟨crP1 r, crP0 r, ((carRead s c r).car c.val).pc, 2 * carTime s c r⟩
      last := carTime s c r }) := by
  simp only [carSwt, withCar_of_issues hi, hsem, Bool.not_true, Bool.false_eq_true, if_false]

theorem carSwt_unallocated (hi : CarIssues s c 0x19 r) (hsem : semOn (carRead s c r) (crP1 r) = false) :
    carSwt c r s.begun = carIssueFault c.val cACCESS_RANGE (carTime s c r) 0 (crP1 r) (carRead s c r) := by
  simp only [carSwt, withCar_of_issues hi, hsem, Bool.not_false, if_true]

theorem carBar_arrives {op : CarOp} {h : Hw} (hi : CarIssues s c 0x1A r) (hf : CarFits (carRead s c r) c.val (carTime s c r) r op h) :
    carBar c r s.begun = (carEntered h c.val (carTime s c r) op).modSync (fun y => { y with
      arrivals := y.arrivals ++
        [⟨crP1 r % 4096, 2 * (carTime s c r + 24), 0x40 + c.val, ((carRead s c r).car c.val).pc⟩] }) := by
  simp only [carBar, withCar_of_issues hi, carEnter_of_fits hf]

end

/-! ### The obligation -/

/-- Settles O32: an engine comes to its record by `withCar_of_comes` and enters it by the lemmas of `carEnter`; the broadcast load, SIG, SWT,
BAR and END by their own. -/
theorem carrelCommandsAreIssued : Obligations.CarrelCommandsAreIssued := by
  intro c r s t g
  refine ⟨fun p hp hi op h hf => ?entered, fun hi ha op h hf => ?broadcast, fun hi ha hn => ?disagree, fun hi hsem op h hf => ?signal,
    fun hi op h hf => ?arrival, fun hi hsem => ?waits, ?unallocated, fun hi => ?ends, fun p hp hc => ⟨fun hill => ?illegal,
    fun hill hop hmis => ?misaligned, fun hill hop hmis hran => ?outOfRange⟩, fun p hp hi early h he => ⟨fun hpos => ?early,
    fun x h0 hb => ?busy⟩⟩
  case entered => exact does_of (exec_carRows p hp c r s) ((carCmd_of_issues hi).trans (carEnter_of_fits hf))
  case broadcast => exact does_of (f := carLdb c r) rfl (carLdb_agrees hi ha hf)
  case disagree => exact does_of (f := carLdb c r) rfl (carLdb_disagrees hi ha hn)
  case signal => exact does_of (f := carSig c r) rfl (carSig_signals hi hsem hf)
  case arrival => exact does_of (f := carBar c r) rfl (carBar_arrives hi hf)
  case waits => exact does_of (f := carSwt c r) rfl (carSwt_waits hi hsem)
  case unallocated =>
    simp only [List.forall_mem_cons, List.not_mem_nil, false_implies, implies_true, and_true]
    exact ⟨fun hi hsem => does_of (f := carSig c r) rfl (carSig_unallocated hi hsem),
      fun hi hsem => does_of (f := carSwt c r) rfl (carSwt_unallocated hi hsem)⟩
  case ends => exact does_of (f := carEnd c r) rfl (withCar_of_issues hi)
  case illegal => exact does_of (exec_carRows p hp c r s) (withCar_illegal hc hill [p.2])
  case misaligned => exact does_of (exec_carRows p hp c r s) (withCar_misaligned hc hill hop hmis)
  case outOfRange => exact does_of (exec_carRows p hp c r s) (withCar_out_of_range hc hill hop hmis hran)
  case early => exact does_of (exec_carRows p hp c r s) ((carCmd_of_issues hi).trans (carEnter_early he hpos))
  case busy =>
    subst h0
    exact does_of (exec_carRows p hp c r s) ((carCmd_of_issues hi).trans (carEnter_busy he hb))

end Sys2Proof.Machine

/-!
What a carrel command does to memory (R231, R232, R235, R239–R247): its moves from T0 on and its lines from issue on, one equation per
command of `carMoves` and `carLines`, and the steps that it takes in their BCLK, one lemma per case of `dotStepAll` and `listStep`.
-/
namespace Sys2Proof.Machine

/-! ### Lines of a result (R231, R232) -/

theorem up_of_pos {n k : Nat} (hn : 0 < n) (hk : 0 < k) : up n k = up (n - k) k + 1 := by
  have hsplit : n + k - 1 = (n - 1) + k := by omega
  rw [up, up, hsplit, Nat.add_div_right _ hk]
  by_cases hle : n ≤ k
  · rw [Nat.div_eq_of_lt (by omega : n - 1 < k), Nat.div_eq_of_lt (by omega : n - k + k - 1 < k)]
  · rw [(by omega : n - k + k - 1 = n - 1)]

section
variable {α : Type} {k : Nat} (hk : 0 < k)
include hk

theorem up_zero : up 0 k = 0 := Nat.div_eq_of_lt (by omega)

/-- A list of `n` bytes has as many groups of `k` as `n` needs. -/
theorem length_chunks {n : Nat} {l : List α} (hl : l.length ≤ n) : (chunks k n l).length = up l.length k := by
  induction n generalizing l with
  | zero =>
    rw [List.length_eq_zero_iff.mp (Nat.le_zero.mp hl), List.length_nil, up_zero hk]
    rfl
  | succ n ih =>
    cases l with
    | nil =>
      rw [List.length_nil, up_zero hk]
      rfl
    | cons a l =>
      have hpos : 0 < (a :: l).length := Nat.succ_pos _
      have hdrop : ((a :: l).drop k).length ≤ n := by rw [List.length_drop]; omega
      rw [chunks, List.length_cons, ih hdrop, List.length_drop, ← up_of_pos hpos hk]
      simp

/-- The i-th of them stands from byte k × i on. -/
theorem getElem?_chunks {n : Nat} {l : List α} (hl : l.length ≤ n) {i : Nat} (hi : k * i < l.length) :
    (chunks k n l)[i]? = some ((l.drop (k * i)).take k) := by
  induction n generalizing l i with
  | zero => omega
  | succ n ih =>
    cases l with
    | nil => exact absurd hi (Nat.not_lt_zero _)
    | cons a l =>
      rw [chunks]
      · cases i with
        | zero => rfl
        | succ i =>
          have hdrop : ((a :: l).drop k).length = (a :: l).length - k := List.length_drop
          have hi' : k * i < ((a :: l).drop k).length := by rw [hdrop]; rw [Nat.mul_succ] at hi; omega
          rw [List.getElem?_cons_succ, ih (by rw [hdrop]; omega) hi', List.drop_drop, Nat.mul_succ, Nat.add_comm]
      · simp

end

/-- A result for scratch lands there as a whole. -/
theorem toDst_scratch {r : CarRec} (h : crBit r 5 = false) (c land : Nat) (l : List Byte) :
    toDst c r land l = [⟨land, true, carScr c (crDst r), l.length, .bytes (atAddr (carScr c (crDst r)) l)⟩] := by
  rw [toDst, h]; rfl

/-- One for CSM is written line by line, in the last BCLK before its landing (log entry 10). -/
theorem line_mem_toDst {r : CarRec} (h : crBit r 5 = true) (c land : Nat) {l : List Byte} {i : Nat} (hi : 128 * i < l.length) :
    ⟨land - up l.length 128 + i, true, csmAt (crDst r) + 128 * i, ((l.drop (128 * i)).take 128).length,
      .bytes (atAddr (csmAt (crDst r) + 128 * i) ((l.drop (128 * i)).take 128))⟩ ∈ toDst c r land l := by
  obtain ⟨hlt, hget⟩ := List.getElem?_eq_some_iff.mp (getElem?_chunks (by decide : 0 < 128) (Nat.le_refl _) hi)
  rw [toDst, h, if_pos rfl, ← length_chunks (by decide : 0 < 128) (Nat.le_refl l.length)]
  exact List.mem_mapIdx.mpr ⟨i, hlt, by rw [hget]⟩

/-- Each line of what a command has captured goes to its place. -/
theorem line_mem_gotMoves {n i : Nat} (hi : i < up n 128) (dst land src : Nat) (csm : Bool) :
    ⟨if csm then land - up n 128 + i else land, true, dst + 128 * i, min 128 (n - 128 * i), .got (src + 128 * i)⟩ ∈
      gotMoves dst csm land n src := List.mem_map.mpr ⟨i, List.mem_range.mpr hi, rfl⟩

/-! ### The moves of each command (R239–R246) -/

section
variable {hw : Hw} {c : Nat} {o : CarOp}

theorem op_of_dotReads {r : CarRec} (h : dotReads r = true) : crOp r = 0x01 := by
  simp only [dotReads, Bool.and_eq_true, decide_eq_true_iff] at h
  exact h.1.1

theorem carMoves_dot (h : crOp o.cmd = 0x01) (hr : dotReads o.cmd = false) :
    carMoves hw c o = toDst c o.cmd (o.e + carLat o.cmd)
      (carDot hw c o.cmd (fun i => if crBit o.cmd 2 then hw.num (carDst c o.cmd + 4 * i) 4 else 0)) := by
  simp only [carMoves, h, hr, Bool.false_eq_true, if_false]

/-- A DOT that reads y from CSM computes in a step of its own, and its result is there then. -/
theorem carMoves_dot_reads (h : dotReads o.cmd = true) :
    carMoves hw c o = ⟨o.t0 + dotLines o.cmd, true, 0, 0, .step 0⟩ ::
      gotMoves (carDst c o.cmd) true (o.e + carLat o.cmd) (carDstLen o.cmd) dotPlace := by
  simp only [carMoves, op_of_dotReads h, h, if_true]

theorem carMoves_axpy (h : crOp o.cmd = 0x02) :
    carMoves hw c o = toMoves (spread c o.t0 (carD o.cmd) [(carBm hw c (crA o.cmd), carAxpy hw c o.cmd)]) := by
  simp only [carMoves, h]

theorem carMoves_scale (h : crOp o.cmd = 0x03) :
    carMoves hw c o = toMoves (spread c o.t0 (carD o.cmd) [(carBm hw c (crA o.cmd), carScale hw c o.cmd)]) := by
  simp only [carMoves, h]

theorem carMoves_reduce (h : crOp o.cmd = 0x04) :
    carMoves hw c o = toDst c o.cmd (o.e + carLat o.cmd) (carReduce hw c o.cmd) := by
  simp only [carMoves, h]

theorem carMoves_opt (h : crOp o.cmd = 0x05) :
    carMoves hw c o = toMoves (spread c o.t0 (carD o.cmd)
      [(carBm hw c (crA o.cmd), (carOpt hw c o.cmd).1), (carBm hw c (crDst o.cmd), (carOpt hw c o.cmd).2)]) := by
  simp only [carMoves, h]

theorem carMoves_rerange (h : crOp o.cmd = 0x06) :
    carMoves hw c o = toMoves (spread c o.t0 (carD o.cmd) [(carBm hw c (crB o.cmd), carRerange hw c o.cmd)]) := by
  simp only [carMoves, h]

/-- The step of entry `j` of a GATHER or SCATTER, in the first of its 16 BCLK. -/
def entryStep (c : Nat) (o : CarOp) (j : Nat) : CarMove := ⟨spanBeat c o.t0 (16 * j), true, 0, 0, .step j⟩

theorem carMoves_gather (h : crOp o.cmd = 0x07) :
    carMoves hw c o = (List.range (crN o.cmd)).map (entryStep c o) ++
      gotMoves (carDst c o.cmd) (crBit o.cmd 5) (o.e + carLat o.cmd) (carU o.cmd * crN o.cmd) (carDst c o.cmd) := by
  simp only [carMoves, h]
  rfl

theorem carMoves_scatter (h : crOp o.cmd = 0x08) : carMoves hw c o = (List.range (crN o.cmd)).map (entryStep c o) := by
  simp only [carMoves, h]
  rfl

theorem carMoves_csum (h : crOp o.cmd = 0x09) :
    carMoves hw c o = toDst c o.cmd (o.e + carLat o.cmd) (leBytes (crc32c (if crBit o.cmd 0 then some (crP0 o.cmd) else none)
      (hw.bytes (carBm hw c (crA o.cmd)) (crN o.cmd))) 4) := by
  simp only [carMoves, h]

theorem carMoves_topk (h : crOp o.cmd = 0x0A) :
    carMoves hw c o = toDst c o.cmd (o.e + carLat o.cmd) (carTopk hw c o.cmd) := by
  simp only [carMoves, h]

/-- What entry `j` of an ATOM moves: its word is read, written in the BCLK after, and what it held lands in the list. -/
def atomMoves (c : Nat) (o : CarOp) (j : Nat) : List CarMove :=
  [⟨spanBeat c o.t0 (16 * j), true, 0, 0, .step (2 * j)⟩, ⟨spanBeat c o.t0 (16 * j + 1), true, 0, 0, .step (2 * j + 1)⟩,
   ⟨o.e + carLat o.cmd, true, carScr c (crS o.cmd) + 16 * j + 8, 8, .got (carScr c (crS o.cmd) + 16 * j + 8)⟩]

theorem carMoves_atom (h : crOp o.cmd = 0x0B) : carMoves hw c o = (List.range (crN o.cmd)).flatMap (atomMoves c o) := by
  simp only [carMoves, h]
  rfl

theorem carMoves_move_in (h : crOp o.cmd = 0x0C) (hb : crBit o.cmd 0 = false) :
    carMoves hw c o = [⟨o.e + carLat o.cmd, true, carScr c (crS o.cmd), crN o.cmd,
      .bytes (atAddr (carScr c (crS o.cmd)) (hw.bytes (carBm hw c (crA o.cmd)) (crN o.cmd)))⟩] := by
  simp only [carMoves, h, hb, Bool.false_eq_true, if_false]

theorem carMoves_move_out (h : crOp o.cmd = 0x0C) (hb : crBit o.cmd 0 = true) :
    carMoves hw c o = toMoves (spread c o.t0 (carD o.cmd)
      [(carBm hw c (crA o.cmd), hw.bytes (carScr c (crS o.cmd)) (crN o.cmd))]) := by
  simp only [carMoves, h, hb, if_true]

section
variable {j : Nat} (hj : j < crN o.cmd)
include hj

theorem entryStep_mem (h : crOp o.cmd = 0x07 ∨ crOp o.cmd = 0x08) : entryStep c o j ∈ carMoves hw c o := by
  have hmem : entryStep c o j ∈ (List.range (crN o.cmd)).map (entryStep c o) := List.mem_map_of_mem (List.mem_range.mpr hj)
  rcases h with h | h
  · rw [carMoves_gather h]
    exact List.mem_append_left _ hmem
  · rw [carMoves_scatter h]
    exact hmem

theorem atomMoves_subset (h : crOp o.cmd = 0x0B) {m : CarMove} (hm : m ∈ atomMoves c o j) : m ∈ carMoves hw c o := by
  rw [carMoves_atom h]
  exact List.mem_flatMap.mpr ⟨j, List.mem_range.mpr hj, hm⟩

end

/-! ### The lines of a command that are there from its issue on (R231, R247) -/

/-- The y of a DOT, one line in each BCLK from T0. -/
theorem yLine_mem_carLines (h : dotReads o.cmd = true) {j : Nat} (hj : j < dotLines o.cmd) :
    ⟨o.t0 + j, false, csmAt (crDst o.cmd) + 128 * j, min 128 (4 * crN o.cmd - 128 * j), .read⟩ ∈ carLines c o := by
  simp only [carLines, op_of_dotReads h, h, if_true]
  exact List.mem_map.mpr ⟨j, List.mem_range.mpr hj, rfl⟩

/-- Line `j` that a load brings to scratch. -/
def landedLine (c : Nat) (o : CarOp) (j : Nat) : CarMove :=
  ⟨o.e + carLat o.cmd, true, carScr c (crS o.cmd) + 128 * j, 128, .got (csmAt (crB o.cmd) + 128 * j)⟩

/-- Line `j` of CSM that a command reads in BCLK `t`. -/
def readLine (o : CarOp) (t j : Nat) : CarMove := ⟨t, false, csmAt (crB o.cmd) + 128 * j, 128, .read⟩

theorem carLines_ldv (h : crOp o.cmd = 0x10) :
    carLines c o = (List.range (crN o.cmd / 128)).map (fun j => readLine o (o.t0 + j) j) ++
      (List.range (crN o.cmd / 128)).map (landedLine c o) := by
  simp only [carLines, h]
  rfl

theorem carLines_ldb (h : crOp o.cmd = 0x11) :
    carLines c o = (List.range (crN o.cmd / 128)).map (fun j => readLine o (o.t0 + j / 2) j) ++
      (List.range (crN o.cmd / 128)).map (landedLine c o) := by
  simp only [carLines, h]
  rfl

theorem carLines_stv (h : crOp o.cmd = 0x12) :
    carLines c o = (List.range (crN o.cmd / 128)).map (fun j =>
      ⟨o.t0 + j, true, csmAt (crB o.cmd) + 128 * j, 128, .mem (carScr c (crS o.cmd) + 128 * j)⟩) := by
  simp only [carLines, h]

section
variable {j : Nat} (hj : j < crN o.cmd / 128)
include hj

theorem landedLine_mem (h : crOp o.cmd = 0x10 ∨ crOp o.cmd = 0x11) : landedLine c o j ∈ carLines c o := by
  have hmem : landedLine c o j ∈ (List.range (crN o.cmd / 128)).map (landedLine c o) := List.mem_map_of_mem (List.mem_range.mpr hj)
  rcases h with h | h
  · rw [carLines_ldv h]
    exact List.mem_append_right _ hmem
  · rw [carLines_ldb h]
    exact List.mem_append_right _ hmem

theorem readLine_mem_ldv (h : crOp o.cmd = 0x10) : readLine o (o.t0 + j) j ∈ carLines c o := by
  rw [carLines_ldv h]
  exact List.mem_append_left _ (List.mem_map.mpr ⟨j, List.mem_range.mpr hj, rfl⟩)

theorem readLine_mem_ldb (h : crOp o.cmd = 0x11) : readLine o (o.t0 + j / 2) j ∈ carLines c o := by
  rw [carLines_ldb h]
  exact List.mem_append_left _ (List.mem_map.mpr ⟨j, List.mem_range.mpr hj, rfl⟩)

theorem storedLine_mem_stv (h : crOp o.cmd = 0x12) :
    ⟨o.t0 + j, true, csmAt (crB o.cmd) + 128 * j, 128, .mem (carScr c (crS o.cmd) + 128 * j)⟩ ∈ carLines c o := by
  rw [carLines_stv h]
  exact List.mem_map.mpr ⟨j, List.mem_range.mpr hj, rfl⟩

end

end

/-! ### Good memory (R195, R196) -/

/-- Where no word is uncorrectable no operand is. -/
theorem rangesBad_of_good {h : Hw} (hb : h.bad = []) (rs : List (Nat × Nat)) : rangesBad h rs = none := by
  rw [rangesBad, List.findSome?_eq_none_iff]
  intro x _
  rw [badByte, hb]
  rfl

/-- Where no word is to be corrected a read corrects none. -/
theorem correctAll_of_clean {h : Hw} (hs : h.soft = []) (rs : List (Nat × Nat)) : correctAll rs h = h := by
  refine List.foldlRecOn (motive := fun x => x = h) _ _ rfl (fun x hx a _ => ?_)
  rw [hx, correct, softHit, hs]
  rfl

/-! ### Steps (R235, R240, R244, R246) -/

section
variable {hw : Hw} {c : Nat} {o : CarOp} {j : Nat}

/-- A DOT that has the last line of its y computes. -/
theorem carStep_dot (h : dotReads o.cmd = true) (hb : hw.bad = []) (hs : hw.soft = [])
    (hg : gotBad (hw.got.filter (fun g => decide (g.id = o.id))) = none) :
    carStep c o j hw = capture o.id dotPlace (carDot hw c o.cmd (fun i => leNat ((List.range 4).map (fun k =>
      gotByte (hw.got.filter (fun g => decide (g.id = o.id))) (carDst c o.cmd + 4 * i + k))))) hw := by
  rw [carStep, if_pos (op_of_dotReads h)]
  simp only [dotStepAll, hg, rangesBad_of_good hb, correctAll_of_clean hs, Option.or_none]

/-- The entry of a list that step `j` is about; an ATOM takes two steps for each. -/
def listEntry (r : CarRec) (j : Nat) : Nat := if crOp r = 0x0B then j / 2 else j

theorem listEntry_of_index {r : CarRec} (h : crOp r ≠ 0x0B) (j : Nat) : listEntry r j = j := if_neg h
theorem listEntry_of_atom {r : CarRec} (h : crOp r = 0x0B) (j : Nat) : listEntry r j = j / 2 := if_pos h

theorem listUnit_of_index {r : CarRec} (h : crOp r ≠ 0x0B) (hw : Hw) (c i : Nat) :
    listUnit hw c r i = (carBm hw c (crA r + carU r * carIdx hw c r i), carU r) := if_neg h
theorem listUnit_of_atom {r : CarRec} (h : crOp r = 0x0B) (hw : Hw) (c i : Nat) :
    listUnit hw c r i = (carBm hw c (atomWord hw c r i).1, (atomWord hw c r i).2) := if_pos h

/-- Where an ATOM entry keeps its operand, and its old value at the end. -/
def atomPlace (c : Nat) (r : CarRec) (i : Nat) : Nat := carScr c (crS r) + 16 * i + 8

/-- The handoff check of an entry with the unit `u`, which is made in its BCLK where the list was still to land at the issue (log entry
58). -/
def entryChecks (hw : Hw) (c : Nat) (o : CarOp) (u : Nat × Nat) : Option FaultRec × Hw :=
  if o.open_ then
    carRanges hw c (o.t0 - 24) (o.e + carLat o.cmd) o.pc (if listReads o.cmd then [u] else []) (if listWrites o.cmd then [u] else [])
  else (none, hw)

/-- What an entry `i` that is performed does to the hardware `h` that its checks leave: SCATTER writes the unit, GATHER captures it, an ATOM
captures the word. -/
def entryEffect (hw : Hw) (c : Nat) (o : CarOp) (i : Nat) (h : Hw) : Hw :=
  let u := listUnit hw c o.cmd i
  if crOp o.cmd = 0x08 then (h.write (atAddr u.1 (hw.bytes (carScr c (crP0 o.cmd + carU o.cmd * i)) (carU o.cmd))) none).1
  else if crOp o.cmd = 0x07 then capture o.id (carDst c o.cmd + carU o.cmd * i) (hw.bytes u.1 u.2) h
  else capture o.id (atomPlace c o.cmd i) (leBytes (hw.num u.1 u.2) 8) h

theorem carStep_list (h : isList o.cmd = true) : carStep c o j hw = listStep c o j hw := by
  refine if_neg (fun h1 => ?_)
  simp [isList, h1] at h

section
variable (hl : isList o.cmd = true) (hj : crOp o.cmd = 0x0B → j % 2 = 0) (hb : hw.bad = [])
include hl hj hb

/-- The step in which an entry is judged stops at one that must not be performed. -/
theorem carStep_refused (hbad : carEntryBad hw c o.cmd (listEntry o.cmd j) ≠ 0) :
    carStep c o j hw = carAbort c o
      { cls := carEntryBad hw c o.cmd (listEntry o.cmd j), sev := 2, unit := 0, exp := hw.frame, act := hw.frame } hw := by
  have hjudge : ¬(crOp o.cmd = 0x0B ∧ j % 2 = 1) := fun ⟨hop, hodd⟩ => absurd (hj hop) (by omega)
  rw [listEntry] at hbad ⊢
  rw [carStep_list hl]
  simp only [listStep, if_neg hjudge, rangesBad_of_good hb, if_pos hbad]

/-- Any other it performs. -/
theorem carStep_performs {h : Hw} (hs : h.soft = []) (hgood : carEntryBad hw c o.cmd (listEntry o.cmd j) = 0)
    (hc : entryChecks hw c o (listUnit hw c o.cmd (listEntry o.cmd j)) = (none, h)) :
    carStep c o j hw = entryEffect hw c o (listEntry o.cmd j) h := by
  have hjudge : ¬(crOp o.cmd = 0x0B ∧ j % 2 = 1) := fun ⟨hop, hodd⟩ => absurd (hj hop) (by omega)
  rw [listEntry] at hgood hc
  rw [entryChecks] at hc
  rw [carStep_list hl]
  simp only [listStep, if_neg hjudge, rangesBad_of_good hb, hgood, hc, correctAll_of_clean hs, ne_eq, not_true, if_false, entryEffect,
    listEntry]
  rcases of_decide_eq_true hl with hop | hop | hop <;> simp only [hop] <;> rfl

end

section
variable {h : Hw} (hb : hw.bad = []) (hs : h.soft = [])
include hb hs

theorem carStep_index (hop : crOp o.cmd = 0x07 ∨ crOp o.cmd = 0x08) (hgood : carEntryBad hw c o.cmd j = 0)
    (hc : entryChecks hw c o (carBm hw c (crA o.cmd + carU o.cmd * carIdx hw c o.cmd j), carU o.cmd) = (none, h)) :
    carStep c o j hw = entryEffect hw c o j h := by
  have hne : crOp o.cmd ≠ 0x0B := by omega
  have hl : isList o.cmd = true := decide_eq_true (by omega)
  have hentry := listEntry_of_index hne j
  rw [carStep_performs hl (fun h => absurd h hne) hb hs (by rwa [hentry]) (by rwa [hentry, listUnit_of_index hne]), hentry]

/-- GATHER captures the unit that its entry names (R246). -/
theorem carStep_gather (hop : crOp o.cmd = 0x07) (hgood : carEntryBad hw c o.cmd j = 0)
    (hc : entryChecks hw c o (carBm hw c (crA o.cmd + carU o.cmd * carIdx hw c o.cmd j), carU o.cmd) = (none, h)) :
    carStep c o j hw = capture o.id (carDst c o.cmd + carU o.cmd * j)
      (hw.bytes (carBm hw c (crA o.cmd + carU o.cmd * carIdx hw c o.cmd j)) (carU o.cmd)) h := by
  rw [carStep_index hb hs (.inl hop) hgood hc, entryEffect, listUnit_of_index (by omega), if_neg (by omega), if_pos hop]

/-- SCATTER writes it (R246). -/
theorem carStep_scatter (hop : crOp o.cmd = 0x08) (hgood : carEntryBad hw c o.cmd j = 0)
    (hc : entryChecks hw c o (carBm hw c (crA o.cmd + carU o.cmd * carIdx hw c o.cmd j), carU o.cmd) = (none, h)) :
    carStep c o j hw = (h.write (atAddr (carBm hw c (crA o.cmd + carU o.cmd * carIdx hw c o.cmd j))
      (hw.bytes (carScr c (crP0 o.cmd + carU o.cmd * j)) (carU o.cmd))) none).1 := by
  rw [carStep_index hb hs (.inr hop) hgood hc, entryEffect, listUnit_of_index (by omega), if_pos hop]

/-- An ATOM captures the word that its entry names (R244). -/
theorem carStep_atom_reads (hop : crOp o.cmd = 0x0B) (hj : j % 2 = 0) (hgood : carEntryBad hw c o.cmd (j / 2) = 0)
    (hc : entryChecks hw c o (carBm hw c (atomWord hw c o.cmd (j / 2)).1, (atomWord hw c o.cmd (j / 2)).2) = (none, h)) :
    carStep c o j hw = capture o.id (atomPlace c o.cmd (j / 2))
      (leBytes (hw.num (carBm hw c (atomWord hw c o.cmd (j / 2)).1) (atomWord hw c o.cmd (j / 2)).2) 8) h := by
  have hentry := listEntry_of_atom hop j
  rw [carStep_performs (decide_eq_true (.inr (.inr hop))) (fun _ => hj) hb hs (by rwa [hentry])
    (by rwa [hentry, listUnit_of_atom hop]), hentry, entryEffect, listUnit_of_atom hop, if_neg (by omega), if_neg (by omega)]

end

/-- In the BCLK after, it writes what the operand makes of it. -/
theorem carStep_atom_writes (hop : crOp o.cmd = 0x0B) (hj : j % 2 = 1) {g : Got}
    (hg : hw.got.find? (fun g => decide (g.id = o.id ∧ g.addr = atomPlace c o.cmd (j / 2))) = some g) :
    carStep c o j hw = (hw.write (atAddr (carBm hw c (atomWord hw c o.cmd (j / 2)).1) (leBytes
      (atomNew (crFlags o.cmd % 4) (leNat g.bytes) (hw.num (atomPlace c o.cmd (j / 2)) 8)) (atomWord hw c o.cmd (j / 2)).2)) none).1 := by
  rw [atomPlace] at hg ⊢
  rw [carStep_list (decide_eq_true (.inr (.inr hop)))]
  simp only [listStep, hop, hj, and_self, if_true, hg, listUnit_of_atom hop]

end

/-! ### The obligation -/

/-- Settles O33: each command's moves and lines by the equation of its case, each step by the lemma of its own. That the entries of a list
still to land are judged one by one, and that an ATOM's old values land at the end, is the model's choice (log entry 58). -/
theorem carrelCommandsWrite : Obligations.CarrelCommandsWrite := by
  refine ⟨?moves, ?steps⟩
  case moves =>
    intro hw c o r land d dst bm
    refine ⟨carMoves_dot, fun hr => ⟨?dotStep, fun j hj => yLine_mem_carLines hr hj, fun i hi => ?dotLine⟩, carMoves_axpy, carMoves_scale,
      carMoves_reduce, carMoves_opt, carMoves_rerange, carMoves_csum, carMoves_topk, fun l h => toDst_scratch h c land l,
      fun i l h hi => line_mem_toDst h c land hi, carMoves_move_in, carMoves_move_out, fun j hj h => entryStep_mem hj h,
      fun i hi h => ?gathered, fun j k hj hk h => ?atomSteps, fun j hj h => ?atomOld, fun j hj => ⟨fun h => landedLine_mem hj h,
      fun h => readLine_mem_ldv hj h, fun h => readLine_mem_ldb hj h, fun h => storedLine_mem_stv hj h⟩⟩
    case dotStep =>
      rw [carMoves_dot_reads hr]
      exact List.mem_cons_self
    case dotLine =>
      rw [carMoves_dot_reads hr]
      exact List.mem_cons_of_mem _ (line_mem_gotMoves hi (carDst c r) land dotPlace true)
    case gathered =>
      rw [carMoves_gather h]
      exact List.mem_append_right _ (line_mem_gotMoves hi (carDst c r) land (carDst c r) (crBit r 5))
    case atomSteps =>
      have hk' : k = 0 ∨ k = 1 := by omega
      rcases hk' with rfl | rfl
      · exact atomMoves_subset hj h (List.mem_cons_self)
      · exact atomMoves_subset hj h (List.mem_cons_of_mem _ List.mem_cons_self)
    case atomOld => exact atomMoves_subset hj h (List.mem_cons_of_mem _ (List.mem_cons_of_mem _ List.mem_cons_self))
  case steps =>
    intro hw c o j r e checks
    refine ⟨fun hr hb hs hg => carStep_dot hr hb hs hg, fun i hl hi hj hb hbad => ?refused,
      fun h hop ⟨hc, hb, hs⟩ hgood => carStep_gather hb hs hop hgood hc,
      fun h hop ⟨hc, hb, hs⟩ hgood => carStep_scatter hb hs hop hgood hc,
      fun h hop hj ⟨hc, hb, hs⟩ hgood => carStep_atom_reads hb hs hop hj hgood hc, fun g hop hj hg => carStep_atom_writes hop hj hg⟩
    case refused =>
      subst hi
      exact carStep_refused hl hj hb hbad

end Sys2Proof.Machine

/-!
Refresh slots and the remap rebuild (R221–R226, R248–R252): one lemma per case of `scrubStep`, `migrationStep` and of what BMC_REMAP_CTL
starts and ends.
-/
namespace Sys2Proof.Machine

section
variable {h : Hw}

/-! ### Refresh (R221, R223) -/

theorem refreshPeriod_starts (hf : h.frame % 520 = 0) (hon : refreshOn h = true) :
    refreshPeriod h = { h with bmc := { h.bmc with cool := nbit (h.reg 0x900000).toNat 0 } } := if_pos ⟨hf, hon⟩

theorem refreshPeriod_idle (hn : h.frame % 520 ≠ 0 ∨ refreshOn h = false) : refreshPeriod h = h :=
  if_neg (not_and_of_not_or_not (hn.imp_right Bool.eq_false_iff.mp))

theorem refreshSlot_acts {g : Fin 64} (hf : h.frame % 520 = 130 * (g.val % 4)) (hon : refreshOn h = true) :
    refreshSlot g h = migrationStep g.val (scrubStep g.val (settle h.now h)) := if_pos ⟨hf, hon⟩

theorem refreshSlot_idle {g : Fin 64} (hn : h.frame % 520 ≠ 130 * (g.val % 4) ∨ refreshOn h = false) : refreshSlot g h = h :=
  if_neg (not_and_of_not_or_not (hn.imp_right Bool.eq_false_iff.mp))

/-! ### Scrubbing (R225, R226) -/

/-- The row that group `g`'s next slot scrubs. -/
def scrubPointer (h : Hw) (g : Nat) : Nat := scrubRow h (tabGet (fun _ => 0) h.bmc.scrub g)

/-- `b` with the pointer of group `g` past the row that `h` scrubs. -/
def scrubPast (g : Nat) (h b : Hw) : Hw :=
  { b with bmc := { b.bmc with scrub := tabPut (fun _ => 0) g ((scrubPointer h g + 1) % scrubRows h) b.bmc.scrub } }

/-- What a slot records of an uncorrectable row. -/
def scrubRecorded (g : Nat) (h : Hw) : Hw :=
  countBad (scrubKey h g (scrubPointer h g)) (raise
    { cls := cBM_UNCORRECTABLE, sev := 0, unit := 0x40 + g, q := .none, addr := scrubAddr h g (scrubPointer h g) } h)

/-- The hardware with the correctable words of the row put right and counted. -/
def scrubCorrected (g : Nat) (h : Hw) : Hw :=
  let k := scrubKey h g (scrubPointer h g)
  (h.soft.filter (fun w => decide (k ≤ w ∧ w < k + 2048))).foldl (countCorr .none)
    { h with soft := h.soft.filter (fun w => !decide (k ≤ w ∧ w < k + 2048)) }

/-- A scrub step does one of two things with its row, and goes on to the next. -/
theorem scrubStep_eq (g : Nat) (h : Hw) :
    scrubStep g h = scrubPast g h (if h.bad.any (fun w => decide (scrubKey h g (scrubPointer h g) ≤ w ∧
      w < scrubKey h g (scrubPointer h g) + 2048)) then scrubRecorded g h else scrubCorrected g h) := rfl

theorem scrubStep_uncorrectable {g w : Nat} (hw : w ∈ h.bad) (hlo : scrubKey h g (scrubPointer h g) ≤ w)
    (hhi : w < scrubKey h g (scrubPointer h g) + 2048) : scrubStep g h = scrubPast g h (scrubRecorded g h) := by
  rw [scrubStep_eq, if_pos (List.any_eq_true.mpr ⟨w, hw, decide_eq_true ⟨hlo, hhi⟩⟩)]

theorem scrubStep_corrects {g : Nat}
    (hgood : ∀ w ∈ h.bad, ¬(scrubKey h g (scrubPointer h g) ≤ w ∧ w < scrubKey h g (scrubPointer h g) + 2048)) :
    scrubStep g h = scrubPast g h (scrubCorrected g h) := by
  rw [scrubStep_eq, if_neg]
  rw [List.any_eq_true]
  rintro ⟨w, hw, hin⟩
  exact hgood w hw (of_decide_eq_true hin)

/-! ### Migration (R225, R249, R250) -/


section
variable {g x : Nat} (hb : h.bmc.busy = true)
include hb

theorem migrationStep_scheduled
    (hx : h.bmc.todo.find? (fun y => decide (y / 2 ^ 15 = g ∧ y % bankCount h ∉ refreshBanks h)) = some x) :
    migrationStep g h = { migrateRow x h with bmc := { h.bmc with
      todo := h.bmc.todo.filter (fun y => decide (y ≠ x))
      copied := setIns x h.bmc.copied } } := by
  simp only [migrationStep, hb, Bool.not_true, Bool.false_eq_true, if_false, hx]

theorem migrationStep_dirty
    (hn : h.bmc.todo.find? (fun y => decide (y / 2 ^ 15 = g ∧ y % bankCount h ∉ refreshBanks h)) = none)
    (hx : h.bmc.dirty.find? (fun y => decide (y / 2 ^ 15 = g ∧ y % bankCount h ∉ refreshBanks h)) = some x) :
    migrationStep g h = { migrateRow x h with bmc := { h.bmc with dirty := h.bmc.dirty.filter (fun y => decide (y ≠ x)) } } := by
  simp only [migrationStep, hb, Bool.not_true, Bool.false_eq_true, if_false, hn, hx]

end

/-! ### The rebuild (R248, R251, R252) -/

section
variable {u : Writer}

/-- What START makes of the migration: every row whose place changes is scheduled. -/
def rebuilding (h : Hw) : Hw :=
  { h with bmc := { h.bmc with busy := true, todo := (List.range 64).flatMap (remapMoves h), copied := [], dirty := [], copyEnd := none } }

theorem remapStart_schedules (hb : h.bmc.busy = false) (ha : awake h = true) (hok : ∀ k, k < 64 → remapBad h k = false) :
    remapStart u h = rebuilding h := by
  have hfind : (List.range 64).find? (remapBad h) = none :=
    List.find?_eq_none.mpr (fun k hk => by rw [hok k (List.mem_range.mp hk)]; exact Bool.false_ne_true)
  simp only [remapStart, hb, ha, Bool.not_true, Bool.false_eq_true, or_self, if_false, hfind, rebuilding]

/-- A START while a rebuild is under way, or outside ACTIVE, is refused with group 0 (log entry 12). -/
theorem remapStart_not_now (hn : h.bmc.busy = true ∨ awake h = false) :
    remapStart u h = raise { cls := cADMISSION_REFUSED, sev := 1, unit := u.unit } h := by
  have hno : h.bmc.busy = true ∨ (!awake h) = true := hn.imp_right (fun ha => by rw [ha]; rfl)
  simp only [remapStart, if_pos hno, Nat.zero_mul]

theorem remapStart_refused {k : Nat} (hb : h.bmc.busy = false) (ha : awake h = true)
    (hk : (List.range 64).find? (remapBad h) = some k) :
    remapStart u h = raise { cls := cADMISSION_REFUSED, sev := 1, unit := u.unit, syn := k * 0x100 } h := by
  simp only [remapStart, hb, ha, Bool.not_true, Bool.false_eq_true, or_self, if_false, hk]

end

theorem remapAbort_restores (hb : h.bmc.busy = true) (hc : h.bmc.copyEnd = none) :
    remapAbort h = { h with
      shadow := h.active
      bmc := { h.bmc with busy := false, todo := [], copied := [], dirty := [] } } := by
  simp only [remapAbort, hb, hc, Option.isNone_none, Bool.and_self, if_true]

theorem remapAbort_idle (hn : h.bmc.busy = false ∨ h.bmc.copyEnd ≠ none) : remapAbort h = h := by
  refine if_neg ?_
  rw [Bool.and_eq_true, Option.isNone_iff_eq_none]
  exact not_and_of_not_or_not (hn.imp_left Bool.eq_false_iff.mp)

/-- A rebuild before its swap with nothing scheduled and nothing dirty. -/
def NothingLeft (m : Migration) : Prop := m.busy = true ∧ m.copyEnd = none ∧ m.todo = [] ∧ m.dirty = []

/-- What REMAP_SWAP looks at, in one. -/
theorem swap_due_iff (m : Migration) (p : Prop) [Decidable p] :
    (decide p && m.busy && m.copyEnd.isNone && m.todo.isEmpty && m.dirty.isEmpty) = true ↔ p ∧ NothingLeft m := by
  simp only [Bool.and_eq_true, decide_eq_true_iff, Option.isNone_iff_eq_none, List.isEmpty_iff, NothingLeft, and_assoc]

theorem remapSwap_swaps (ht : h.now = 6 * h.frame) (hl : NothingLeft (settleBefore h.now h).bmc) :
    remapSwap h = ({ settleBefore h.now h with
      active := (settleBefore h.now h).shadow
      bmc := { (settleBefore h.now h).bmc with swapped := true, copied := [], copyEnd := some (h.now + 8192) } }).setReg64 0x900018
        h.frame :=
  if_pos ((swap_due_iff _ _).mpr ⟨ht, hl⟩)

theorem remapSwap_waits (hn : h.now ≠ 6 * h.frame ∨ ¬NothingLeft (settleBefore h.now h).bmc) : remapSwap h = h :=
  if_neg (mt (swap_due_iff _ _).mp (not_and_of_not_or_not hn))

theorem remapCopyDone_ends {k : Nat} (hc : h.bmc.copyEnd = some k) :
    remapCopyDone h = { h with shadow := h.active, bmc := { h.bmc with busy := false, copyEnd := none } } :=
  if_pos (by rw [hc]; rfl)

theorem remapCopyDone_idle (hc : h.bmc.copyEnd = none) : remapCopyDone h = h := if_neg (by rw [hc]; exact Bool.false_ne_true)

end

/-! ### The obligation -/

/-- Settles O35: each clause by the lemma of its case, the commands on the hardware as they find it. Which row is taken where the pointer's
bank is refreshed is the model's choice (log entry 88). -/
theorem refreshAndRemap : Obligations.RefreshAndRemap := by
  intro g u s m
  refine ⟨fun hf hon => ?period, fun hn => ?periodIdle, fun hf hon => ?slot, fun hn => ?slotIdle, fun h => ⟨?uncorrectable, ?corrects⟩,
    fun h => ?migrates, fun hr hb ha hok => ?starts, fun hr hn => ?notNow, fun k hr hb ha hk => ?refused, fun hr hb hc => ?aborts,
    fun hr hn => ?abortIdle, ⟨fun ht hl => ?swaps, fun hn => ?waits⟩, fun k hc => ?copied, fun hc => ?copyIdle⟩
  case period => exact does_of rfl (refreshPeriod_starts (h := s.begun) hf hon)
  case periodIdle => exact does_of rfl (refreshPeriod_idle (h := s.begun) hn)
  case slot => exact does_of rfl (refreshSlot_acts (h := s.begun) hf hon)
  case slotIdle => exact does_of rfl (refreshSlot_idle (h := s.begun) hn)
  case uncorrectable => exact fun w hw hlo hhi => scrubStep_uncorrectable hw hlo hhi
  case corrects => exact scrubStep_corrects
  case migrates =>
    intro may hb
    exact ⟨fun x hx => migrationStep_scheduled hb hx, fun x hn hx => migrationStep_dirty hb hn hx⟩
  case starts => exact does_by rfl hr (remapStart_schedules (h := s.begun) hb ha hok)
  case notNow => exact does_by rfl hr (remapStart_not_now (h := s.begun) hn)
  case refused => exact does_by rfl hr (remapStart_refused (h := s.begun) hb ha hk)
  case aborts => exact does_by rfl hr (remapAbort_restores (h := s.begun) hb hc)
  case abortIdle => exact does_by rfl hr (remapAbort_idle (h := s.begun) hn)
  case swaps => exact does_of rfl (remapSwap_swaps (h := s.begun) ht hl)
  case waits => exact does_of rfl (remapSwap_waits (h := s.begun) hn)
  case copied => exact does_of rfl (remapCopyDone_ends (h := s.begun) hc)
  case copyIdle => exact does_of rfl (remapCopyDone_idle (h := s.begun) hc)

end Sys2Proof.Machine
